-- ==== Sys2Proof/Word.lean ====
section
/-!
DEFINITION. Words, bytes and the plainest containers of the model.
-/
namespace Sys2Proof

/-- A byte of memory or of a packet. -/
abbrev Byte := BitVec 8
/-- A register of the device register space, a scalar register, an instruction word. -/
abbrev Word := BitVec 64
/-- One 32-bit lane of a vector register or one element of an accumulator tile. -/
abbrev Lane := BitVec 32
/-- A vector register, a stitch word or a message queue entry: 64 bytes, byte 0 lowest. -/
abbrev Line := BitVec 512

/-- Sparse data by key: pairs with rising keys, and none that holds the default an unlisted key reads as. -/
abbrev NMap (α : Type) := List (Nat × α)

/-- The agents of the device register space (R10). -/
inductive Agent where
  | runtime | firmware
deriving DecidableEq, Repr

namespace Machine

/-- Access codes of register fields (R7, Table — Access codes). -/
inductive Access where
  | ro | rw | w1c | w1s | wo | rwl | rws
deriving DecidableEq, Repr

/-- Which agents a register heading names (R10). -/
inductive Agents where
  | both | firmware
deriving DecidableEq, Repr

/-- One register of the DRS: name, offset, copies and their step, agents, reset value, fields (high bit, low bit, code). -/
structure RegRow where
  name   : String
  off    : Nat
  count  : Nat
  step   : Nat
  agents : Agents
  reset  : Word
  fields : List (Nat × Nat × Access)
deriving DecidableEq, Repr

/-- One field of a register: the register's offset, the field's high and low bit. -/
structure Fld where
  off : Nat
  hi  : Nat
  lo  : Nat
deriving DecidableEq, Repr

end Machine
end Sys2Proof
end

