-- ==== Sys2Proof/Syntax.lean ====
section
/-!
DEFINITION. The commands of the block and the data they carry: packets of the Race, stitch words, probes, Ford frames,
host command headers, defect records, firmware images and sensor readings, field by field as the chapters lay them out.
-/
namespace Sys2Proof

/-- Race packet types (07 R213, Table — Packet types). -/
inductive PType where
  | read | readData | write | writeAck | message | accept | bounce | contrib | busy | iload
  | barEnter | barRelease | flagWrite | flagRead | error | spillOrder | resetNotice
  | reserved (code : Nat)
deriving DecidableEq, Repr

/-- The bits [191:144] of a CONTRIB header (07 R211, Table — Contribution fields). -/
structure ConField where
  count   : Nat := 0
  kind    : Nat := 0
  mergeOk : Bool := false
  merged  : Bool := false
  origin  : Nat := 0
deriving DecidableEq, Repr

/-- A Race packet: the header of 07 R211 (Table — Race packet header) and its payload of LEN bytes. `rsvd` says that a
reserved header bit is set, `resp` is the VC bit of a packet with a reserved TYPE (R211), and `badPar` lists the bytes whose parity
bit does not match (R207); `cls` is the dateline class that a transit packet has in the dimension it travels (R284), which the
slot header carries on a Ford link. An ILOAD carries TOTAL, CRC-32 and the first index in `addr` and `payload` (08 R253). -/
structure Packet where
  ptype   : PType
  epoch   : Nat := 0
  gen     : Nat := 0
  mc      : Nat := 0
  adapt   : Bool := false
  dst     : Nat := 0
  src     : Nat := 0
  mcLo    : Nat := 0
  mcHi    : Nat := 0
  dstCore : Nat := 0x3FFF
  srcCore : Nat := 0x3FFF
  dstDev  : Nat := 0
  srcDev  : Nat := 0
  tag     : Nat := 0
  region  : Nat := 0
  txn     : Nat := 0
  addr    : Nat := 0
  aux     : Nat := 0
  reason  : Nat := 0
  age     : Nat := 0
  step8   : Nat := 0
  con     : ConField := {}
  rsvd    : Bool := false
  resp    : Bool := false
  badPar  : List Nat := []
  cls     : Nat := 0
  payload : List Byte := []
deriving DecidableEq, Repr

/-- One transfer on the word lane of a stitch link (06 R174, Table — Stitch link lanes). -/
structure StitchWord where
  data   : Line
  par    : BitVec 64
  kind   : Nat := 0
  stream : Nat := 0
  gen    : Nat := 0
  epoch  : Nat := 0
  seq    : Nat := 0
  cpar   : Bool := true
deriving DecidableEq, Repr

/-- An Eddy watch probe (06 R192, Table — Probe). `up` is DIR: true when it travels upstream. -/
structure Probe where
  init   : Nat
  serial : Nat
  up     : Bool
  stream : Nat
  rec?   : Option (Nat × Nat × Nat) := none
  hops   : Nat := 0
deriving DecidableEq, Repr

/-- The body of an IDENT link control slot with the KEY and PROOF that follow it (09 R279, R292): device id, VALID,
port, nonce, key fingerprint, key modulus and signature. -/
structure Ident where
  devId       : Nat
  valid       : Bool
  port        : Nat
  nonce       : List Byte
  fingerprint : List Byte
  modulus     : List Byte
  proof       : List Byte
deriving DecidableEq, Repr

/-- One slot of a Ford frame (09 R279): a flit of a packet (flit i of a packet names it again), or link control; KEYi and PROOFi carry
128 bytes each. -/
inductive Slot where
  | empty
  | first (vc cls flits : Nat) (p : Packet)
  | following (vc cls i : Nat) (p : Packet)
  | keepalive (count : Nat)
  | resetNotice (kind time : Nat)
  | timeReq (t1 exch : Nat)
  | timeRsp (t1 t2 t3 exch : Nat)
  | ident (i : Ident)
  | key (i : Nat) (part : List Byte)
  | proof (i : Nat) (part : List Byte)
  | reserved
deriving DecidableEq, Repr

/-- A Ford frame as the receiver sees it after the FEC decoder (09 R277, R278): `fecOk` says whether its
codewords were correctable, `crc` is the CRC-64 it carries, `corrected` and `uncorr` count symbols and codewords. -/
structure Frame where
  seq       : Nat
  ack       : Nat
  fkind     : Nat
  nak       : Bool := false
  credits   : List Nat := [0, 0, 0, 0]
  session   : Nat
  slots     : List Slot := []
  fecOk     : Bool := true
  crc       : Word := 0
  corrected : Nat := 0
  uncorr    : Nat := 0
deriving DecidableEq, Repr

/-- A holding point of a packet (13 R390): a router's input queue, a gateway's hold buffer, a slot interface, a Ford pool. -/
inductive Hold where
  | router (r : Nat) | gateway (r : Nat) | slot (node : Nat) | pool (p : Nat)
deriving DecidableEq, Repr

/-- A store with the stored-data code: a memory controller (0–15 HBM, 16–19 LPDDR) or a scratchpad bank (08 R260). -/
inductive Store where
  | mem (k : Nat) | bank (c b : Nat)
deriving DecidableEq, Repr

/-- A defect record (11 R335, Table — Defect record). -/
structure Defect where
  kind   : Nat
  origin : Nat := 1
  test   : Nat := 0
  code   : Nat := 0
  unit   : Nat
  sub    : Nat := 0
  count  : Nat := 1
  first  : Nat := 0
  last   : Nat := 0
deriving DecidableEq, Repr

/-- What Cobbler reads of the stored firmware image (14 R426): header fields, whether digest and signature verify. -/
structure FwImage where
  magicOk   : Bool
  arch      : Nat
  member    : Nat
  major     : Nat
  minor     : Nat
  build     : Nat
  rollback  : Nat
  advance   : Bool
  digestOk  : Bool
  signOk    : Bool
  measure   : List Byte := []
deriving DecidableEq, Repr

/-- The readings of one grant period (15 R433, R442, R443): measured draw and activity estimate of each holder, junction of each cluster and
temperature of each stack in °C, inlet and outlet, input voltage in mV, current in 10 mA, power in W and peak sample. -/
structure Readings where
  draw     : NMap Nat := []
  activity : NMap Nat := []
  junction : NMap Nat := []
  stack    : NMap Nat := []
  inlet    : Nat := 0
  outlet   : Nat := 0
  vin      : Nat := 0
  iin      : Nat := 0
  pin      : Nat := 0
  peak     : Nat := 0
  reserve  : Nat := 0
deriving DecidableEq, Repr

/-- What the power stage sees in one 100 ns sample (17 R461): whether each timed condition of Table — Shutdown causes
for undervoltage, overvoltage and overcurrent has held for its time, the temperatures, and the rails. -/
structure PowerSample where
  under    : Bool := false
  above     : Bool := false
  current  : Bool := false
  junction : Nat := 0
  hbm      : Nat := 0
  outlet   : Nat := 0
  railBad  : Bool := false
deriving DecidableEq, Repr

/-- What a self-test of a unit shows (11 R340–R347): the failing codewords of a core's march or the failing lanes of a port, and the
responses of each BIST section. -/
structure Findings where
  bad  : List Nat := []
  resp : List (List Word) := []
deriving DecidableEq, Repr

/-- A unit whose debug ring node stops answering, and the bytes of its state read before, 0 where it never answered (13 R397). -/
structure NodeRead where
  unit : Nat
  read : Nat := 0
deriving DecidableEq, Repr

/-- The length of a firmware image, and whether the store's write of it succeeds (14 R428). -/
structure FwSpan where
  len     : Nat
  written : Bool := true
deriving DecidableEq, Repr

/-- The header of a host command as received (14 R415), with the queue pair it came on. `rsvd` says that a reserved
byte is non-zero, `lenOk` that BODY_LENGTH agrees with the message. -/
structure Hdr where
  qp      : Nat
  seq     : Nat
  version : Nat := 1
  rsvd    : Bool := false
  lenOk   : Bool := true
  remote  : Bool := false
  target  : Nat := 0
deriving DecidableEq, Repr

/-- The commands of the block: one constructor per row of spec/opcode_table.json, in the table's order. -/
inductive Instr where
  /-- NOP, R79: Instruction nop issues and has no effect. -/
  | nop (c : Nat)
  /-- END, R45: Instruction end issues once no tag is pending and the units are empty, and the core enters DONE. -/
  | endProg (c : Nat)
  /-- WAIT, R43: Instruction wait issues once no completion tag in its mask is pending. -/
  | wait (c : Nat)
  /-- BR, R81: Conditional branch compares two scalar registers and continues at TARGET when taken. -/
  | br (c : Nat)
  /-- JAL, R81: Jump and link writes pc+1 to a scalar register and continues at TARGET. -/
  | jal (c : Nat)
  /-- JR, R81: Jump to the address held in bits [11:0] of a scalar register. -/
  | jr (c : Nat)
  /-- LOOP, R82: Hardware loop instruction loads a loop counter and delimits the body. -/
  | loop (c : Nat)
  /-- RDLC, R82: Reads a loop counter into a scalar register. -/
  | rdlc (c : Nat)
  /-- RDCT, R79: Reads the status of a completion tag once it is not pending. -/
  | rdct (c : Nat)
  /-- ADD, R80: 64-bit scalar add, wrapping. -/
  | add (c : Nat)
  /-- SUB, R80: 64-bit scalar subtract, wrapping. -/
  | sub (c : Nat)
  /-- MUL, R80: 64-bit scalar multiply keeping the low 64 bits. -/
  | mul (c : Nat)
  /-- AND, R80: Scalar bitwise and. -/
  | andS (c : Nat)
  /-- OR, R80: Scalar bitwise or. -/
  | orS (c : Nat)
  /-- XOR, R80: Scalar bitwise exclusive or. -/
  | xorS (c : Nat)
  /-- SHL, R80: Scalar shift left by the low 6 bits of the operand. -/
  | shl (c : Nat)
  /-- SHR, R80: Scalar logical shift right. -/
  | shr (c : Nat)
  /-- SRA, R80: Scalar arithmetic shift right. -/
  | sra (c : Nat)
  /-- SLT, R80: Signed set-less-than writing 1 or 0. -/
  | slt (c : Nat)
  /-- SLTU, R80: Unsigned set-less-than writing 1 or 0. -/
  | sltu (c : Nat)
  /-- MIN, R80: Signed scalar minimum. -/
  | minS (c : Nat)
  /-- MAX, R80: Signed scalar maximum. -/
  | maxS (c : Nat)
  /-- RDSYS, R83: Reads a system value such as logical core id, device id, step or fabric time. -/
  | rdsys (c : Nat)
  /-- PMOV, R79: Writes a predicate register from bits [15:0] of a scalar register. -/
  | pmov (c : Nat)
  /-- PRD, R79: Reads a predicate register into a scalar register. -/
  | prd (c : Nat)
  /-- ADDI, R80: Scalar add of a sign-extended immediate. -/
  | addi (c : Nat)
  /-- ANDI, R80: Scalar and with a zero-extended immediate. -/
  | andi (c : Nat)
  /-- ORI, R80: Scalar or with a zero-extended immediate. -/
  | ori (c : Nat)
  /-- XORI, R80: Scalar xor with a zero-extended immediate. -/
  | xori (c : Nat)
  /-- SHLI, R80: Scalar shift left by an immediate. -/
  | shli (c : Nat)
  /-- SHRI, R80: Scalar logical shift right by an immediate. -/
  | shri (c : Nat)
  /-- SRAI, R80: Scalar arithmetic shift right by an immediate. -/
  | srai (c : Nat)
  /-- SLTI, R80: Signed set-less-than against a sign-extended immediate. -/
  | slti (c : Nat)
  /-- LI, R80: Loads a sign-extended immediate into a scalar register. -/
  | li (c : Nat)
  /-- LIS, R80: Shifts a scalar register left by 28 and ors in an immediate. -/
  | lis (c : Nat)
  /-- BGATE, R84: Program gates the scratchpad banks named in its mask. -/
  | bgate (c : Nat)
  /-- BWAKE, R84: Program wakes the gated banks named in its mask. -/
  | bwake (c : Nat)
  /-- LD, R85: Zero-extending scalar load, local or remote by address decode. -/
  | ld (c : Nat)
  /-- LDS, R85: Sign-extending scalar load, local or remote by address decode. -/
  | lds (c : Nat)
  /-- ST, R85: Scalar store, local or remote by address decode. -/
  | st (c : Nat)
  /-- LDV, R86: Vector load of 16, 32 or 64 bytes into a vector register. -/
  | ldv (c : Nat)
  /-- STV, R86: Vector store of 16, 32 or 64 bytes from a vector register. -/
  | stv (c : Nat)
  /-- VADD, R118: FP32 vector add per lane. -/
  | vadd (c : Nat)
  /-- VSUB, R118: FP32 vector subtract per lane. -/
  | vsub (c : Nat)
  /-- VMUL, R118: FP32 vector multiply per lane. -/
  | vmul (c : Nat)
  /-- VFMA, R118: FP32 fused multiply-add per lane with one rounding. -/
  | vfma (c : Nat)
  /-- VMAX, R118: FP32 vector maximum per lane. -/
  | vmax (c : Nat)
  /-- VMIN, R118: FP32 vector minimum per lane. -/
  | vmin (c : Nat)
  /-- VABS, R118: FP32 absolute value per lane. -/
  | vabs (c : Nat)
  /-- VNEG, R118: FP32 negation per lane. -/
  | vneg (c : Nat)
  /-- VCMP, R89: Vector compare writing a predicate register. -/
  | vcmp (c : Nat)
  /-- VSEL, R89: Vector select by predicate. -/
  | vsel (c : Nat)
  /-- VBCAST, R79: Broadcasts bits [31:0] of a scalar register to every lane. -/
  | vbcast (c : Nat)
  /-- VEXT, R79: Extracts one lane into a scalar register. -/
  | vext (c : Nat)
  /-- VMOV, R79: Copies a vector register. -/
  | vmov (c : Nat)
  /-- VIADD, R79: 32-bit integer add per lane modulo 2^32. -/
  | viadd (c : Nat)
  /-- VSADD, R118: FP32 add over scratchpad vectors of n elements. -/
  | vsadd (c : Nat)
  /-- VSMUL, R118: FP32 multiply over scratchpad vectors of n elements. -/
  | vsmul (c : Nat)
  /-- VSAXPY, R118: FP32 a*x+b over scratchpad vectors with one rounding. -/
  | vsaxpy (c : Nat)
  /-- VSSUM, R119: Fixed-order FP32 sum of n scratchpad elements into a scalar register. -/
  | vssum (c : Nat)
  /-- VSAMAX, R118: Largest magnitude of n scratchpad elements into a scalar register. -/
  | vsamax (c : Nat)
  /-- VSCVT, R92: Converts n scratchpad elements between unscaled formats, optionally with stochastic BF16 rounding. -/
  | vscvt (c : Nat)
  /-- VSQUANT, R115: Quantises FP32 elements into scaled FP8 or FP4 blocks. -/
  | vsquant (c : Nat)
  /-- VSDEQUANT, R117: Dequantises scaled blocks to FP32. -/
  | vsdequant (c : Nat)
  /-- MOUT, R97: Writes an accumulator tile to the scratchpad in a chosen format, optionally clearing it. -/
  | mout (c : Nat)
  /-- MLD, R97: Loads a row-major FP32 tile from the scratchpad into an accumulator. -/
  | mld (c : Nat)
  /-- BFXEXP, R98: Writes the largest biased exponent of each 64-element block. -/
  | bfxexp (c : Nat)
  /-- BFXPACK, R99: Packs FP32 blocks to block fixed point with residue and flags. -/
  | bfxpack (c : Nat)
  /-- BFXUNPACK, R100: Unpacks block fixed-point blocks to FP32. -/
  | bfxunpack (c : Nat)
  /-- MMA, R94: Dense matrix product accumulated into a tile. -/
  | mma (c : Nat)
  /-- MMASP, R95: Matrix product with compressed B tiles described by metadata words. -/
  | mmasp (c : Nat)
  /-- MMAG, R96: Matrix product over B columns gathered by a list. -/
  | mmag (c : Nat)
  /-- SBIND, R101: Binds or unbinds a stream counter to a source. -/
  | sbind (c : Nat)
  /-- SRECV, R102: Receives k stitch words into the scratchpad when the counter allows. -/
  | srecv (c : Nat)
  /-- SSEND, R102: Sends k stitch words from the scratchpad when credits allow. -/
  | ssend (c : Nat)
  /-- SRECVV, R102: Receives k stitch words into vector registers. -/
  | srecvv (c : Nat)
  /-- SSENDV, R102: Sends vector registers as k stitch words. -/
  | ssendv (c : Nat)
  /-- SEAL, R103: Sends a seal word on each outbound stream named in the mask. -/
  | seal (c : Nat)
  /-- MSEND, R104: Sends a message or confluence contributions with a tag and descriptor. -/
  | msend (c : Nat)
  /-- MRECV, R106: Takes the head entry of a message queue into a vector register. -/
  | mrecv (c : Nat)
  /-- BAR, R235: Enters a network barrier at the member's gateway. -/
  | bar (c : Nat)
  /-- FSET, R107: Writes a gateway flag. -/
  | fset (c : Nat)
  /-- FWAIT, R107: Waits until a gateway flag reaches a value. -/
  | fwait (c : Nat)
  /-- SGATE, R108: Builds a Sluice gate record from predictor scores, with audit choice and fallback decision. -/
  | sgate (c : Nat)
  /-- SAUDIT, R109: Resolves the audited neurons of a gate record and writes the verdict flag. -/
  | saudit (c : Nat)
  /-- VERDICT_POLL, R171: A waiting sgate reads the verdict flag every 64 core cycles. -/
  | verdictPoll (c : Nat)
  /-- FWAIT_POLL, R236: fwait reads its flag with FLAG_READ every 64 core cycles. -/
  | fwaitPoll (c tag : Nat)
  /-- VS_COMPLETION, R43: A vector scratchpad operation finishes its occupancy, writes its results and clears its tag. -/
  | vsCompletion (c : Nat)
  /-- MATRIX_COMPLETION, R140: A matrix instruction completes and its tile passes range, non-finite and checked-mode checks. -/
  | matrixCompletion (c : Nat)
  /-- STREAM_MOVE_END, R87: The scratchpad move of srecv or ssend finishes and releases held overlapping instructions. -/
  | streamMoveEnd (c : Nat)
  /-- REMOTE_ACCESS_TIMEOUT, R60: A remote access not completed after CORE_REMOTE_TIMEOUT core cycles completes with timeout. -/
  | remoteAccessTimeout (c tag : Nat)
  /-- HANG_WATCHDOG_EXPIRY, R388: A RUNNING core with no issue or token movement for the watchdog period enters HUNG. -/
  | hangWatchdogExpiry (c : Nat)
  /-- IMEM_LOAD_TIMEOUT, R68: A LOADING core that receives no instruction-load word for 1 ms returns to EMPTY with IMEM_LOAD_CHECK. -/
  | imemLoadTimeout (c : Nat)
  /-- START_TICK, R37: At a start tick every LOADED core of the placement enters RUNNING, or the start is cancelled on a missed core. -/
  | startTick
  /-- BANK_GATE_EFFECT, R61: A requested bank gate takes effect once accepted accesses have finished. -/
  | bankGateEffect (c bank : Nat)
  /-- BANK_WAKE_END, R62: A waking bank finishes its 9 µs settle and zero fill and becomes powered. -/
  | bankWakeEnd (c bank : Nat)
  /-- STITCH_WORD_ARRIVAL, R187: A stitch word or seal arrives at a router, is parity checked and accepted, counted or discarded by generation. -/
  | stitchWordArrival (c link : Nat) (w : StitchWord)
  /-- STITCH_REPLAY_REQUEST, R176: A sender receiving a replay request resends its last words from the named SEQ. -/
  | stitchReplayRequest (c link seq : Nat)
  /-- STITCH_CREDIT_RETURN, R184: A credit return arrives and is accepted or ignored by generation. -/
  | stitchCreditReturn (c link stream count gen : Nat)
  /-- STITCH_FORWARD, R181: A router output takes a queued word when it holds a credit and forwards it. -/
  | stitchForward (c q out : Nat)
  /-- CONFIG_SWITCH, R189: When every LOCAL inbound stream has a seal at its head, the core removes them and advances CFG_GEN. -/
  | configSwitch (c : Nat)
  /-- CORE_SUSPECT, R191: STALL_RUN reaching THRESHOLD while waiting on a firing condition makes the core suspect. -/
  | coreSuspect (c : Nat)
  /-- PROBE_LAUNCH, R192: The watcher launches a probe from the suspect core along each wait edge. -/
  | probeLaunch (c : Nat)
  /-- PROBE_DEAD, R192: An outstanding probe is counted dead once STALL_RUN grows by a further THRESHOLD. -/
  | probeDead (c : Nat)
  /-- PROBE_ARRIVAL, R193: A probe reaches a router or core and is forwarded, turned, recorded or dies. -/
  | probeArrival (c link : Nat) (p : Probe)
  /-- SPILL_ORDER, R196: A spill order reaches the watcher holding the recorded queue, which spills or cancels it. -/
  | spillOrder (core q : Nat)
  /-- SPILL_MOVE_END, R197: A spill finishes moving the queue into the spill segment and returns credits and grows the allowance. -/
  | spillMoveEnd (c q : Nat)
  /-- SPILL_DRAIN, R198: The drain moves the segment's head word into a free queue entry. -/
  | spillDrain (c q : Nat)
  /-- EPOCH_TICK, R363: At each epoch tick every unit applies the scheduled changes in fixed order and reports the epoch applied. -/
  | epochTick
  /-- OLD_WORD_COPY_END, R204: With CAPTURE_OLD, the copy of held stitch words ends and the forced reconfiguration completes. -/
  | oldWordCopyEnd
  /-- UNIT_CATCH_UP, R363: A unit that missed ticks applies every missed change in order before accepting traffic. -/
  | unitCatchUp (kind unit : Nat)
  /-- RACE_PACKET_FORWARD, R209: A router serves the oldest waiting packet to its output when the next queue has room. -/
  | racePacketForward (r out : Nat)
  /-- RACE_FLIT_ARRIVAL, R210: A flit arrives at a router and is parity checked, with replay on error and link hold on the third failure. -/
  | raceFlitArrival (r port : Nat) (p : Packet) (parityOk : Bool)
  /-- CONTRIB_MERGE, R222: A router merges two matching CONTRIB packets waiting for one output. -/
  | contribMerge (r out : Nat)
  /-- MERGED_ANSWER, R224: The answer to a merged packet arrives and a copy goes to each input. -/
  | mergedAnswer (node : Nat) (p : Packet)
  /-- PACKET_AGED, R390: A packet held AGE_LIMIT µs at one holding point is discarded and answered with aged. -/
  | packetAged (hold : Hold) (p : Packet)
  /-- READ, R213: A READ request reaches its target and is answered with data or an error. -/
  | read (node : Nat) (p : Packet)
  /-- READ_DATA, R213: Read data arrives at the requester and completes its operation. -/
  | readData (node : Nat) (p : Packet)
  /-- WRITE, R213: A WRITE request reaches its target and is acknowledged or refused. -/
  | write (node : Nat) (p : Packet)
  /-- WRITE_ACK, R213: A write acknowledgement arrives at the requester. -/
  | writeAck (node : Nat) (p : Packet)
  /-- MESSAGE, R228: A MESSAGE reaches the destination gateway and is accepted, refused busy, bounced or errored. -/
  | message (node : Nat) (p : Packet)
  /-- ACCEPT, R237: An ACCEPT answer arrives at the sending gateway. -/
  | accept (node : Nat) (p : Packet)
  /-- BOUNCE, R232: A BOUNCE answer arrives and the operation completes closed. -/
  | bounce (node : Nat) (p : Packet)
  /-- BUSY, R231: A BUSY answer arrives and the sender schedules a resend. -/
  | busy (node : Nat) (p : Packet)
  /-- BUSY_RESEND, R231: 256 Race cycles after BUSY the sending gateway resends the message or unit. -/
  | busyResend (gw txn : Nat)
  /-- ERROR, R233: An error response arrives and the requester's operation completes with error. -/
  | errorRsp (node : Nat) (p : Packet)
  /-- CONTRIB, R238: A contribution reaches a confluence entry and is added, refused busy or bounced. -/
  | contrib (node : Nat) (p : Packet)
  /-- CONF_DEADLINE, R240: At an entry's deadline undelivered blocks are delivered short and the step is made incomplete. -/
  | confDeadline (gw entry : Nat)
  /-- DELIVERY_POST_RETRY, R241: A delivery entry post that found the queue full is retried every 256 Race cycles. -/
  | deliveryPostRetry (gw entry core : Nat)
  /-- ILOAD, R68: Instruction words reach a core, which checks state and CRC and enters LOADED or EMPTY. -/
  | iload (node : Nat) (p : Packet)
  /-- BAR_ENTER, R235: A BAR_ENTER reaches the root gateway, which releases the barrier when all member gateways have entered. -/
  | barEnter (node : Nat) (p : Packet)
  /-- BAR_RELEASE, R235: A barrier release reaches a gateway, which passes it on and completes local bar instructions. -/
  | barRelease (node : Nat) (p : Packet)
  /-- FLAG_WRITE, R236: A flag write replaces a gateway flag's value. -/
  | flagWrite (node : Nat) (p : Packet)
  /-- FLAG_READ, R236: A flag read returns a gateway flag's value. -/
  | flagRead (node : Nat) (p : Packet)
  /-- RESET_NOTICE, R213: A unit's reset notice reaches the gateways that hold state for it. -/
  | resetNotice (node : Nat) (p : Packet)
  /-- WELT_DESCRIPTOR_START, R247: A ring fetches and checks the descriptor at HEAD and starts it when FENCE and WAIT allow. -/
  | weltDescriptorStart (e r : Nat)
  /-- WELT_TAIL_POLL, R247: A ring with TAIL_SRC 1 reads its tail flag every 64 Race cycles. -/
  | weltTailPoll (e r : Nat)
  /-- WELT_WAIT_POLL, R251: A descriptor with WAIT_EN reads its wait flag every 64 Race cycles. -/
  | weltWaitPoll (e r : Nat)
  /-- WELT_NOP, R249: Welt operation NOP applies only wait, fence and post. -/
  | weltNop (e r : Nat)
  /-- COPY, R249: Welt operation copies LENGTH bytes from SRC to DST. -/
  | copy (e r : Nat)
  /-- STREAM_OUT, R254: Welt operation sends source words on edge links. -/
  | streamOut (e r : Nat)
  /-- STREAM_IN, R255: Welt operation takes words from edge links into memory. -/
  | streamIn (e r : Nat)
  /-- WELT_ILOAD, R253: Welt operation sends instruction-load packets to a logical core. -/
  | weltIload (e r : Nat)
  /-- FILL, R249: Welt operation writes an 8-byte pattern repeatedly. -/
  | fill (e r : Nat)
  /-- STORE_Z, R256: Compressing store chooses each tile's form and writes tiles and metadata. -/
  | storeZ (e r : Nat)
  /-- DIGEST, R325: On a digest step computes the shard digest of the shadow buffer and table. -/
  | digest (e r : Nat)
  /-- SHADOW_WRITE, R325: Copies bytes into a shard's shadow buffer. -/
  | shadowWrite (e r : Nat)
  /-- SCALE_RULES, R326: Builds the overflow map and applies scale-table rules into the shadow table and buffer. -/
  | scaleRules (e r : Nat)
  /-- FLIP, R327: Registers a shard in the flip list for commit. -/
  | flip (e r : Nat)
  /-- ANCHOR, R329: Copies the active buffer and table into an anchor slot with digest check. -/
  | anchor (e r : Nat)
  /-- WELT_DESCRIPTOR_COMPLETE, R252: A descriptor completes, posts its flag and writes a completion entry. -/
  | weltDescriptorComplete (e r : Nat)
  /-- WELT_REQUEST_TIMEOUT, R258: A Welt request unanswered within the timeout ends its descriptor with timeout. -/
  | weltRequestTimeout (e r : Nat)
  /-- SCRUB_ACCESS, R269: A scrubber reads a codeword in an idle cycle and writes back a correction. -/
  | scrubAccess (u : Store)
  /-- SCRUB_LAP_END, R270: At the end of a lap the length is recorded and SCRUB_SLOW may be raised. -/
  | scrubLapEnd (u : Store)
  /-- MEM_FILL_START, R268: A write of HBM_FILL START begins a zero or verify fill. -/
  | memFillStart (a : Agent) (k : Nat) (v : Word)
  /-- MEM_FILL_END, R268: A memory fill finishes and records its length and failures. -/
  | memFillEnd (k : Nat) (bad : List Nat)
  /-- REMAP_WRITE, R265: Installing or removing a remap entry copies the codeword to or from the spare. -/
  | remapWrite (a : Agent) (u : Store) (i : Nat) (v : Word)
  /-- REMAP_COPY_END, R265: The remap copy finishes and ACTIVE changes. -/
  | remapCopyEnd (u : Store) (i : Nat)
  /-- FLIP_MASK_ARM, R266: Arming a flip mask makes the next counted write corrupt the named symbols. -/
  | flipMaskArm (a : Agent) (u : Store) (v : Word)
  /-- FLIP_MASK_APPLY, R266: The next counted write takes the flip, clears ARM and sets APPLIED. -/
  | flipMaskApply (u : Store) (block : Nat)
  /-- FORD_FRAME_RECEIVE, R282: A Ford frame is decoded, checked and accepted or discarded with NAK. -/
  | fordFrameReceive (p : Nat) (f : Frame)
  /-- FORD_RETRY_TIMEOUT, R282: ACK not advancing for 2 µs makes the sender resend from the oldest unacknowledged frame. -/
  | fordRetryTimeout (p : Nat)
  /-- FORD_PACKET_RECEIVE, R286: A receiving port delivers a packet or passes it over the Race to the next port. -/
  | fordPacketReceive (p cls : Nat) (pk : Packet)
  /-- FORD_PORT_MERGE, R289: A sending port merges CONTRIB packets in one transmit pool. -/
  | fordPortMerge (p : Nat)
  /-- FORD_DOWN, R296: A port goes DOWN, ends its session, discards its queues and marks a step incomplete. -/
  | fordDown (p reason : Nat)
  /-- FORD_KEEPALIVE_SEND, R294: A port sends KEEPALIVE every 1 µs. -/
  | fordKeepaliveSend (p : Nat)
  /-- FORD_KEEPALIVE_LAPSE, R294: No KEEPALIVE for KEEPALIVE_LIMIT µs takes the port DOWN. -/
  | fordKeepaliveLapse (p : Nat)
  /-- FORD_RESET_NOTICE, R295: A registered RESET_NOTICE link control takes the port DOWN with peer_reset. -/
  | fordResetNotice (p : Nat)
  /-- TIME_REQ_SEND, R299: A port sends TIME_REQ every 100 µs. -/
  | timeReqSend (p : Nat)
  /-- TIME_REQ, R299: A peer stamps and answers a TIME_REQ with TIME_RSP. -/
  | timeReq (p t1 exch : Nat)
  /-- TIME_RSP, R299: A TIME_RSP completes an exchange and updates delay and offset. -/
  | timeRsp (p t1 t2 t3 exch peerBound : Nat)
  /-- FT_HOLDOVER, R300: Loss of the time source enters HOLDOVER. -/
  | ftHoldover
  /-- TRAINING_PHASE_END, R290: A Ford training phase completes and the next phase starts or the port comes UP. -/
  | trainingPhaseEnd (p lanes : Nat) (margins : List Nat)
  /-- TRAINING_PHASE_OVERRUN, R290: A training phase exceeding its limit takes the port DOWN with its reason. -/
  | trainingPhaseOverrun (p : Nat)
  /-- IDENT, R292: The peer's IDENT, KEY and PROOF are checked during INIT. -/
  | ident (p : Nat) (i : Ident)
  /-- FORD_RETRAIN, R297: A DOWN port with AUTO_RETRAIN enters TRAINING after RETRAIN_DELAY. -/
  | fordRetrain (p : Nat)
  /-- ACCEPT_PEER, R293: ACCEPT_PEER records the present peer and takes the port from ISOLATED to UP. -/
  | acceptPeer (a : Agent) (p : Nat)
  /-- STEP_ARM, R315: Writing COB_STEP_NEXT.ARM arms the next step after checks. -/
  | stepArm (a : Agent) (v : Word)
  /-- STEP_START, R315: At the start tick the step number takes effect, entries open, REPEAT rings restart and the step runs. -/
  | stepStart
  /-- STEP_SEAL, R318: Once the seal barrier released and REPEAT rings finished before D, the device seals. -/
  | stepSeal
  /-- SEAL_DEADLINE, R318: The seal deadline passes: an unsealed device becomes INCOMPLETE and an undecided root decides FAIL. -/
  | sealDeadline
  /-- SEAL_ARRIVAL, R319: A seal or failing seal reaches a collector, which counts, passes on or decides. -/
  | sealArrival (step count : Nat) (failing : Bool)
  /-- VERDICT_ARRIVAL, R322: A verdict reaches a device, which commits or discards its flips. -/
  | verdictArrival (step : Nat) (commit : Bool)
  /-- COMMIT_FLIPS_WRITTEN, R327: Every registered flip is written and the device enters COMMITTED. -/
  | commitFlipsWritten
  /-- STEP_UNDECIDED, R322: No verdict VERDICT_WAIT µs after the seal raises STEP_UNDECIDED. -/
  | stepUndecided
  /-- COMMIT_SEALED, R323: Runtime commits a SEALED step. -/
  | commitSealed (a : Agent)
  /-- FAIL_SEALED, R323: Runtime discards the flips of a SEALED step and it becomes INCOMPLETE. -/
  | failSealed (a : Agent)
  /-- EXPEL, R330: Writing EXPEL isolates the ports, aborts a step and stops seals and verdicts, or restores them. -/
  | expel (a : Agent) (on : Bool)
  /-- STEP_REPORT, R334: Firmware writes the step report within 1 ms of the step's final state. -/
  | stepReport
  /-- TARGETED_TEST_START, R344: A targeted test of the erring unit starts within 5 ms of the error. -/
  | targetedTestStart (kind unit : Nat)
  /-- TARGETED_TEST_VERDICT, R345: A targeted test ends with a transient, lasting or failed verdict and records. -/
  | targetedTestVerdict (kind unit : Nat) (pass : Bool) (found : Findings)
  /-- FENCE, R348: Firmware writes the shadow map with G at the failed core and schedules the flip with a forced reconfiguration. -/
  | fence (c : Nat)
  /-- STATE_MOVE_END, R349: A logical core's state copy ends and its CRC is checked. -/
  | stateMoveEnd (core : Nat) (crcOk : Bool)
  /-- ROTATION_SLICE_START, R354: At every INTERVAL-th epoch tick firmware starts slices in eligible segments. -/
  | rotationSliceStart (seg : Nat)
  /-- SLICE_HANDOFF, R355: The tested core drains its units and moves its logical core to the spare. -/
  | sliceHandoff (seg : Nat)
  /-- SLICE_VERDICT, R356: A slice test ends and the core becomes spare or fenced. -/
  | sliceVerdict (c : Nat) (pass : Bool) (found : Findings)
  /-- SLICE_OVERRUN, R356: A slice without verdict 2 ms after its tick ends as an overrun. -/
  | sliceOverrun (c : Nat)
  /-- LIVE_ROW_SHIFT, R357: Firmware starts a live row shift with V at the exhausted row. -/
  | liveRowShift
  /-- SHIFT_DRAIN_END, R357: The drain of Race packets for moving cores ends. -/
  | shiftDrainEnd
  /-- SHIFT_RESERVE_TEST_END, R357: The reserve row's wake, march and BIST section end, or the shift is abandoned. -/
  | shiftReserveTestEnd (bad : List Nat)
  /-- LEDGER_WRITE, R337: A new ledger generation is written to the Checkpoint Store. -/
  | ledgerWrite (stored : Bool)
  /-- HEAL_TEST, R343: HEAL_CMD TEST starts the targeted test of a named unit. -/
  | healTest (a : Agent) (v : Word)
  /-- HEAL_SHIFT, R351: HEAL_CMD SHIFT performs the wanted live row shift. -/
  | healShift (a : Agent)
  /-- RETEST, R339: HEAL_CMD RETEST sets RETEST_PENDING for the next cold reset. -/
  | retest (a : Agent)
  /-- MAP_WRITE_SET_G, R364: HEAL_MAP_WRITE writes a gap offset into the shadow map. -/
  | mapWriteSetG (a : Agent) (v : Word)
  /-- MAP_WRITE_SET_V, R364: HEAL_MAP_WRITE writes V into the shadow map. -/
  | mapWriteSetV (a : Agent) (v : Word)
  /-- MAP_WRITE_FLIP, R364: HEAL_MAP_WRITE schedules the map bank flip for an epoch. -/
  | mapWriteFlip (a : Agent) (v : Word)
  /-- UNIT_HANG, R392: A liveness count that has not advanced for LIVENESS_LIMIT ms declares the unit hung. -/
  | unitHang (kind unit : Nat)
  /-- COBBLER_WATCHDOG, R393: No Cobbler kick in 250 ms freezes clocks, restarts Cobbler from ROM, captures and warm-resets. -/
  | cobblerWatchdog
  /-- HANG_COB_KICK, R393: Firmware write restarts the Cobbler watchdog. -/
  | hangCobKick (a : Agent)
  /-- CAPTURE, R396: Cobbler freezes units in scope, reads them over the debug ring and writes the capture record. -/
  | capture (trigger domain index : Nat)
  /-- DEBUG_NODE_TIMEOUT, R397: A debug ring node unanswered for 100 µs is recorded unreadable and bypassed. -/
  | debugNodeTimeout (kind : Nat) (node : NodeRead)
  /-- CAPTURE_LIMIT, R398: A capture exceeding CAPTURE_LIMIT or 256 MiB ends truncated. -/
  | captureLimit
  /-- CAPTURE_DONE, R396: The capture record is written and the reset begins. -/
  | captureDone (stored : Bool)
  /-- DOMAIN_RESET, R401: A reset domain resets what the table lists and returns to service. -/
  | domainReset (domain index : Nat)
  /-- RESET_RECOVERY_OVERRUN, R402: A domain reset not recovered within twice its time escalates to a device warm reset. -/
  | resetRecoveryOverrun (domain index : Nat)
  /-- HANG_CMD_GO, R403: HANG_CMD GO requests a reset or capture of a domain. -/
  | hangCmdGo (a : Agent) (v : Word)
  /-- REINSTATE, R406: REINSTATE clears BENCHED and the reset history. -/
  | reinstate (a : Agent)
  /-- CROSSING_RESET_NOTICE, R386: A crossing registers its other side's reset notice and discards its half. -/
  | crossingResetNotice (x : Nat)
  /-- CROSSING_RELEASE, R386: The crossing reopens after the notice is released and pointers return to zero. -/
  | crossingRelease (x : Nat)
  /-- WAKE_REQUEST, R387: An asynchronous wake starts a stopped clock within 50 ns. -/
  | wakeRequest (kind unit : Nat)
  /-- POWER_GOOD, R463: MOD_EN asserted with input in range for 5 ms starts the power stage and rail sequence. -/
  | powerGood
  /-- RAILS_IN_REGULATION, R368: All rails report regulation, PWR_OK asserts, fuses are sensed and ROM begins. -/
  | railsInRegulation
  /-- ROM_BOOT, R369: Cobbler brings up the host port, loads and checks the firmware image and reads the ledger. -/
  | romBoot (img : FwImage)
  /-- FILL_TEST_END, R371: Memory and on-die sequences end, the map is built and the device enters TRAIN or SAFE. -/
  | fillTestEnd (bad : List Defect)
  /-- TRAIN_END, R374: TRAIN ends when awaited ports are up and time is valid, or at TRAIN_WINDOW. -/
  | trainEnd
  /-- TOPOLOGY_CHECK, R380: The device checks its ports against the descriptor and decides READY, DEGRADED_READY or SAFE. -/
  | topologyCheck
  /-- BRINGUP_OVERRUN, R366: A bring-up state exceeding its limit takes the overrun action. -/
  | bringupOverrun
  /-- DEVICE_ID_WRITE, R16: A write of COB_DEVICE_ID is accepted before TOPOLOGY_CHECK and sets VALID. -/
  | deviceIdWrite (a : Agent) (v : Word)
  /-- GRANT_PERIOD, R433: Every 100 µs the Weir reads sensors and recomputes every grant. -/
  | grantPeriod (r : Readings)
  /-- THROTTLE_STEP, R434: A cluster raises or lowers its throttle level per µs or per 10 µs against its grant. -/
  | throttleStep (k draw : Nat) (slow : Bool)
  /-- FAST_LIMIT_TRIP, R435: A current sample at FAST_LIMIT lowers cluster grants within 2 µs. -/
  | fastLimitTrip (sample : Nat)
  /-- FAST_LIMIT_STAGE2, R435: Samples still at FAST_LIMIT 50 µs later drop units to FLOOR and voltages to floor. -/
  | fastLimitStage2 (sample : Nat)
  /-- FAST_LIMIT_STAGE3, R435: Average draw above BUDGET for 10 periods schedules an operating point 50 MHz lower. -/
  | fastLimitStage3 (draws : List Nat)
  /-- WEIR_OP_REQ, R437: A frequency request is armed and the idle PLL locks, raising floors for an increase. -/
  | weirOpReq (a : Agent) (v : Word)
  /-- AVS_REPORT, R439: Critical-path monitors report slack and the cluster rail moves by 2.5 mV. -/
  | avsReport (k target : Nat) (slacks : List Int)
  /-- EQ_ADAPT, R440: A lane adjusts one equalisation tap by one step. -/
  | eqAdapt (port lane tap : Nat) (up : Bool)
  /-- PHY_EYE_ADJUST, R441: A memory PHY moves its reference or phase one step away from corrected errors. -/
  | phyEyeAdjust (k pc corrected : Nat) (up : Bool)
  /-- POWER_STAGE_SHUTDOWN, R461: A shutdown cause holds in a 100 ns sample and every rail is removed. -/
  | powerStageShutdown (s : PowerSample)
  /-- MOD_EN_DEASSERT, R465: MOD_EN deasserted gives 2 ms warning, reset notices and power-down. -/
  | modEnDeassert
  /-- COLD_RESET_PIN, R467: COLD_RESET# low for 1 ms or more requests a device cold reset. -/
  | coldResetPin (ns : Nat)
  /-- SMB_IDENT, R469: SMBus command returns COB_IDENT. -/
  | smbIdent
  /-- SMB_SERIAL, R469: SMBus command returns COB_SERIAL. -/
  | smbSerial
  /-- SMB_STATE, R469: SMBus command returns bring-up state and BENCHED. -/
  | smbState
  /-- SMB_VIN, R469: SMBus command returns input voltage. -/
  | smbVin
  /-- SMB_IIN, R469: SMBus command returns input current. -/
  | smbIin
  /-- SMB_PIN, R469: SMBus command returns input power. -/
  | smbPin
  /-- SMB_IIN_PEAK, R469: SMBus command returns the peak current sample. -/
  | smbIinPeak
  /-- SMB_JUNCTION, R469: SMBus command returns the hottest junction. -/
  | smbJunction
  /-- SMB_COOLANT, R469: SMBus command returns inlet and outlet temperatures. -/
  | smbCoolant
  /-- SMB_HBM_MAX, R469: SMBus command returns the hottest HBM stack. -/
  | smbHbmMax
  /-- SMB_SHUTDOWN, R469: SMBus command returns the shutdown word. -/
  | smbShutdown
  /-- SMB_ALERTS, R470: SMBus command reads or clears alert bits. -/
  | smbAlerts (clear : Option Byte)
  /-- SMB_ALERT_RESPONSE, R468: The target answers the SMBus alert response address. -/
  | smbAlertResponse
  /-- CMD_NOP, R416: Host command NOP. -/
  | cmdNop (h : Hdr)
  /-- REG_READ, R417: Host command reads registers, locally or on a remote device. -/
  | regRead (h : Hdr) (offs : List Nat)
  /-- REG_WRITE, R417: Host command writes registers in order, stopping at the first refusal. -/
  | regWrite (h : Hdr) (es : List (Nat × Word))
  /-- WINDOW_OPEN, R413: Host command opens a memory window and returns an rkey. -/
  | windowOpen (h : Hdr) (base len access : Nat)
  /-- WINDOW_CLOSE, R414: Host command closes a window once its operations are answered. -/
  | windowClose (h : Hdr) (rkey : Nat)
  /-- IMAGE_LOAD, R421: Host command checks and loads a placement image. -/
  | imageLoad (h : Hdr) (addr len regions variant : Nat)
  /-- START, R423: Host command schedules the start of regions at a tick. -/
  | startCmd (h : Hdr) (regions tick : Nat)
  /-- ABORT, R424: Host command cancels a pending start or aborts cores to LOADED. -/
  | abortCmd (h : Hdr) (regions : Nat)
  /-- TOPOLOGY, R418: Host command replaces the held topology descriptor. -/
  | topology (h : Hdr) (d : List Byte)
  /-- ROUTING, R418: Host command schedules a routing mode for an epoch. -/
  | routing (h : Hdr) (mode epoch : Nat)
  /-- FW_UPDATE, R428: Host command checks and writes a firmware image in place. -/
  | fwUpdate (h : Hdr) (addr : Nat) (span : FwSpan)
  /-- IDENTITY, R430: Host command returns the certificate chain. -/
  | identity (h : Hdr)
  /-- ATTEST, R431: Host command returns a signed attestation quote. -/
  | attest (h : Hdr) (nonce : List Byte)
  /-- EVENTS, R419: Host command makes its queue pair the event queue pair. -/
  | events (h : Hdr) (enable : Nat)
  /-- ROM_LOAD, R429: Mask-ROM loader command takes an image chunk and starts a checked image. -/
  | romLoad (h : Hdr) (off : Nat) (last : Bool) (chunk : List Byte)
  /-- EVENT_RECORD_SEND, R419: Cobbler sends logged event records to the event queue pair. -/
  | eventRecordSend
  /-- RDMA_WRITE, R414: An RDMA WRITE into a window is carried as Race WRITE packets. -/
  | rdmaWrite (qp rkey addr : Nat) (data : List Byte)
  /-- RDMA_READ, R414: An RDMA READ from a window is carried as Race READ packets. -/
  | rdmaRead (qp rkey addr len : Nat)
  /-- CM_CONNECT_REQUEST, R410: A connection request creates a queue pair or is rejected. -/
  | cmConnectRequest (qp : Nat)
  /-- ECN_MARKED_RECEIVE, R412: A congestion-marked packet draws a congestion notification packet. -/
  | ecnMarkedReceive (qp : Nat)
  /-- CNP_RECEIVE, R412: A congestion notification halves the queue pair's rate. -/
  | cnpReceive (qp : Nat)
  /-- RATE_RECOVERY, R412: Every 55 µs without notification the rate rises by 5 % of line rate. -/
  | rateRecovery (qp : Nat)
  /-- HOST_LINK_DOWN, R409: The host link goes down and queue pairs, windows and commands end. -/
  | hostLinkDown
  /-- HOST_LINK_RETRAIN, R407: A down host port tries to train again every 1 s. -/
  | hostLinkRetrain (lanes : Nat)
  /-- PTP_SYNC, R425: A PTP message updates fabric time under the slave clock. -/
  | ptpSync (offset : Int)
  /-- PTP_HOLDOVER, R425: No Sync for 3 s enters HOLDOVER. -/
  | ptpHoldover
  /-- CKS_WRITE, R450: Store request writes an object and commits its directory entry. -/
  | cksWrite (i : Nat)
  /-- CKS_READ, R452: Store request reads an object or system region into device memory. -/
  | cksRead (i : Nat)
  /-- CKS_DELETE, R450: Store request frees an object's space. -/
  | cksDelete (i : Nat)
  /-- CKS_STAT, R452: Store request writes an object's directory entry. -/
  | cksStat (i : Nat)
  /-- CKS_REQUEST_COMPLETE, R453: A store request completes with an entry in the completion queue. -/
  | cksRequestComplete (i : Nat)
  /-- CKS_MOUNT, R457: At power-up the store reads its directory and sampled pages and enters READY or FAILED. -/
  | cksMount (dirOk : Bool) (weak : List Nat)
  /-- CKS_REFRESH, R455: A block reaching HORIZON or needing heavy correction is rewritten. -/
  | cksRefresh (b : Nat)
  /-- WEAR_LEVEL_MOVE, R454: Static data moves when the highest erase count exceeds the mean by 256. -/
  | wearLevelMove
  /-- BLOCK_RETIRE, R456: A failing block is retired after its readable data is moved. -/
  | blockRetire (b : Nat)
  /-- CKS_STATE, R457: The store changes state to READ_ONLY or FAILED. -/
  | cksState
  /-- CKS_RING_START, R449: The store controller takes the next request from its ring. -/
  | cksRingStart
  /-- COUNTER_WINDOW_OPEN, R445: The counter window opens at START. -/
  | counterWindowOpen
  /-- COUNTER_FREEZE, R445: Counters freeze at FREEZE and settle 2 µs later. -/
  | counterFreeze
  /-- CNT_ARM, R445: CNT_CTRL ARM schedules a counting window. -/
  | cntArm (a : Agent) (v : Word)
  /-- CNT_CLEAR, R446: CNT_CTRL CLEAR zeroes every counter. -/
  | cntClear (a : Agent)
  /-- CNT_SEL_WRITE, R446: A change of a counter's select clears that counter. -/
  | cntSelWrite (a : Agent) (off : Nat) (v : Word)
  /-- ERR_LATCHED_CLEAR, R70: Clearing CORE_ERR_STATUS.LATCHED clears the error record and EXTRA. -/
  | errLatchedClear (a : Agent) (c : Nat) (v : Word)
  /-- MEM_LATCHED_CLEAR, R271: Clearing HBM_ECC_COUNT.LATCHED clears the records and EXTRA. -/
  | memLatchedClear (a : Agent) (k : Nat) (v : Word)
  /-- CORE_BANK_GATE_WRITE, R64: Runtime or firmware write of bank gates outside RUNNING. -/
  | coreBankGateWrite (a : Agent) (c : Nat) (v : Word)
  /-- STITCH_ROUTE_WRITE, R182: A route-entry write is checked and applied. -/
  | stitchRouteWrite (a : Agent) (c i : Nat) (v : Word)
  /-- FORCE_RECONFIG_ARM, R206: COB_STITCH_FORCE ARM schedules a forced reconfiguration for an epoch. -/
  | forceReconfigArm (a : Agent) (v : Word)
  /-- RACE_REQ_ARM, R219: COB_RACE_REQ ARM schedules a service, routing or bank flip change. -/
  | raceReqArm (a : Agent) (v : Word)
  /-- NUMERICS_LEVEL_REQ, R149: COB_NUMERICS_LEVEL write schedules a level for an epoch. -/
  | numericsLevelReq (a : Agent) (v : Word)
  /-- WELT_RING_START, R258: Writing START resumes a STOPPED ring from HEAD. -/
  | weltRingStart (a : Agent) (e r : Nat) (v : Word)
  /-- REGISTER_WRITE, R7: A write to a register without behaviour of its own, under access codes and refusals. -/
  | registerWrite (a : Agent) (off size : Nat) (v : Word)
  /-- FORD_PORT_ENABLE, R290: A write of FORD_CTRL.ENABLE starts a DISABLED port's training, or sends RESET_NOTICE and takes the port to DISABLED with DOWN_REASON disabled. -/
  | fordPortEnable (a : Agent) (p : Nat) (v : Word)
  /-- MEM_TRAINING_END, R370: An HBM3E or LPDDR5X interface finishes its training and the controller passes from TRAINING to FILLING, starting its fill and saving its settings. -/
  | memTrainingEnd (k : Nat) (ok : Bool)
  /-- FORD_FRAME_SEND, R277: At each frame time a port transmits a data, idle or training frame, taking the next SEQ and keeping an FKIND 0 frame for retry. -/
  | fordFrameSend (p : Nat)
deriving DecidableEq, Repr

end Sys2Proof
end

