-- ==== Sys2Proof/Decode.lean ====
section
/-!
DEFINITION. Commands spelled by table bits. No row of the opcode table of this block gives bits (R73 spells the words of a core's
program, which the core fetches from its own instruction memory), so no word spells a command.
-/
namespace Sys2Proof

/-- The command a word of `nbits` bits spells: none, since the table gives no row bits. -/
def decodeTableWord (_nbits _w : Nat) : Option Instr := none

end Sys2Proof
end

