-- ==== Sys2Proof/Config.lean ====
section
/-!
DEFINITION. What an implementation, a part or an image fixes, and the free values: constants without a value, so that
nothing proved about the model can rest on one.
-/
namespace Sys2Proof

/-- COB_SERIAL.SERIAL, per part (00, COB_SERIAL). -/
opaque Config.serial : Word
/-- Blown anti-rollback fuses of the part at reset (SEC_ROLLBACK.FUSED, 14 R427). -/
opaque Config.rollback : BitVec 16
/-- Whether anti-rollback fuse i blows when it is to (14 R427). -/
opaque Config.fuseBlows : Nat → Bool
/-- The factory fuse map (11 R335, R336). -/
opaque Config.fuseMap : List Defect
/-- HEAL_ROT_DIR0–12 at reset, per part (11 R353). -/
opaque Config.rotDir : Nat → Word
/-- The FLOOR of WEIR_GRANTu at 800 MHz plus 50 MHz steps: holder and frequency code (15 R433). -/
opaque Config.floorCur : Nat → Nat → BitVec 16
/-- The fused floor voltage of cluster k at a frequency code, in mV (15 R439). -/
opaque Config.floorVolt : Nat → Nat → BitVec 16
/-- WEIR_AVSk.VOLT at reset, per part, in mV. -/
opaque Config.volt : Nat → BitVec 16
/-- CKS_WEAR.SPARE and RETIRED at reset, per part. -/
opaque Config.cksSpare : BitVec 16
opaque Config.cksRetired : BitVec 16
/-- The output of router s toward router j in a table that must not use some of its links, as an index into the others: firmware builds the
tables (07 R219, 11 R343). -/
opaque Config.detour : Nat → Nat → Nat
/-- Mask ROM: the generator seed of a section of a unit kind's pattern set, and the MISR signature it must produce (11 R340). -/
opaque Config.bistSeed : Nat → Nat → BitVec 61
opaque Config.bistSignature : Nat → Nat → Word
/-- The 384-byte signature of the security block for a SHA-256 digest (14 R430, R431): no register or command reads the private key. -/
opaque Config.sign : List Byte → List Byte
/-- Bytes 0–29 of the header that firmware writes for a scale table it cannot restore, ENTRIES apart, by the table's address: 04 R136 does
not say where firmware has them from. -/
opaque Config.tableHeader : Nat → List Byte
/-- The DER encoding of certificate i of the identity key: 0 the device's, 1 the module CA's, 2 the root's (14 R430). -/
opaque Config.cert : Nat → List Byte
/-- The modulus of the identity public key, 384 bytes big-endian (09 R292, 14 R430). -/
opaque Config.modulus : List Byte
/-- The modulus of the firmware key, whose SHA-256 is fused (14 R426). -/
opaque Config.fwKey : List Byte
/-- The firmware image the module is delivered with (14 R427). -/
opaque Config.firmware : List Byte
/-- The time in ns after which a remote register access without an answer ends, which 14 R415 does not state. -/
opaque Config.remoteWait : Nat
/-- The n-th nonce of the security block. -/
opaque Config.nonce : Nat → List Byte
/-- Flits a Ford port's transmit queue holds for one pool, which 09 R286 does not state. -/
opaque Config.fordTx : Nat
/-- The ERR_BOUND of the peer at the n-th exchange, which no field of a TIME_RSP carries (09 R299, R300). -/
opaque Config.peerBound : Nat → BitVec 16
/-- The strap pins ADDR0–ADDR2 (17 R467). -/
opaque Config.strap : BitVec 3
/-- The retention age in equivalent hours of a block written so many ns ago: the flash temperature is not observed (16 R455). -/
opaque Config.flashAge : Nat → Nat
/-- The n-th free lane: a value the spec does not state (bfxunpack of an integer block under exponent FFh). -/
opaque Config.freeLane : Nat → Lane
/-- The set link that word i takes under CHUNK 0, which R254 does not state. -/
opaque Config.chunkZero : Nat → Nat
/-- The n-th free number. -/
opaque Config.freeNat : Nat → Nat

end Sys2Proof
end

