-- ==== Sys2Proof/Machine/Drs.lean ====
section
/-!
DEFINITION. The device register space (DRS): every register table of the chapters, row by row.
A `RegRow` gives a register its in-block offset, its copies, the agents its heading names (R10), its reset value and
its fields with their access codes (R7, Table — Access codes). A bit in no field is reserved (R9).
Offsets of the CORE_, CLU_, RACE_, HBM_/LPD_ and FORD_ rows count from the block of their unit (R33); those of the
device rows count from the start of the DRS. A `Fld` names one field of one register.
Fields whose reset column says "per part", "per image" or "per router" are completed by `resetOf` in Machine/Regs.lean.
-/
namespace Sys2Proof.Machine

/-- Rows of the DEV registers, part 0. -/
def rowsDEV0 : List RegRow := [
  ⟨"COB_IDENT", 0x0, 1, 0x8, .both, 0x5741010910021810, [(63, 48, .ro), (47, 40, .ro), (39, 32, .ro), (31, 28, .ro), (27, 24, .ro), (23, 16, .ro), (15, 8, .ro), (7, 4, .ro)]⟩,
  ⟨"COB_SERIAL", 0x8, 1, 0x8, .both, 0x0, [(63, 0, .ro)]⟩,
  ⟨"COB_FW_VERSION", 0x10, 1, 0x8, .both, 0x0, [(63, 48, .ro), (47, 32, .ro), (31, 16, .ro), (15, 0, .ro)]⟩,
  ⟨"COB_DEVICE_ID", 0x18, 1, 0x8, .both, 0x0, [(63, 63, .ro), (13, 9, .rws), (8, 4, .rws), (3, 0, .rws)]⟩,
  ⟨"COB_JOB_SEED", 0x400, 1, 0x8, .both, 0x0, [(63, 0, .rws)]⟩,
  ⟨"COB_NUMERICS_LEVEL", 0x408, 1, 0x8, .both, 0x10000000001, [(63, 48, .ro), (43, 40, .ro), (31, 16, .rw), (3, 0, .rw)]⟩,
  ⟨"COB_NUM_REGION", 0x480, 16, 0x8, .both, 0x80, [(10, 10, .rw), (9, 9, .rw), (8, 8, .rw), (7, 0, .rw)]⟩,
  ⟨"COB_STITCH_FORCE", 0x500, 1, 0x8, .both, 0x0, [(63, 48, .ro), (47, 32, .rw), (1, 1, .rw), (0, 0, .w1s)]⟩,
  ⟨"COB_RACE_STATUS", 0x520, 1, 0x8, .both, 0x0, [(63, 48, .ro), (7, 4, .ro), (3, 3, .ro), (0, 0, .ro)]⟩,
  ⟨"COB_RACE_REQ", 0x528, 1, 0x8, .firmware, 0x0, [(63, 48, .rw), (7, 4, .rw), (3, 3, .rw), (2, 2, .rw), (0, 0, .w1s)]⟩,
  ⟨"COB_MEM_MAP", 0x600, 1, 0x8, .both, 0x2, [(3, 0, .rws)]⟩,
  ⟨"COB_FORD_TORUS", 0x700, 1, 0x8, .both, 0x0, [(20, 16, .rws), (13, 8, .rws), (5, 0, .rws)]⟩,
  ⟨"COB_FORD_DIR", 0x710, 6, 0x8, .firmware, 0x0, [(63, 63, .ro), (51, 32, .rw), (19, 0, .rw)]⟩,
  ⟨"FT_NOW", 0x200000, 1, 0x8, .both, 0x0, [(63, 0, .ro)]⟩,
  ⟨"FT_SOURCE", 0x200008, 1, 0x8, .both, 0x1f, [(4, 0, .rws)]⟩,
  ⟨"FT_STATUS", 0x200010, 1, 0x8, .both, 0xffff00000000, [(63, 63, .ro), (62, 62, .ro), (61, 61, .ro), (60, 60, .ro), (47, 32, .ro), (31, 0, .ro)]⟩,
  ⟨"COB_STEP_NEXT", 0x800, 1, 0x8, .both, 0x0, [(63, 63, .w1s), (47, 0, .rw)]⟩,
  ⟨"COB_STEP_START", 0x808, 1, 0x8, .both, 0x0, [(63, 0, .rw)]⟩,
  ⟨"COB_STEP_CFG", 0x810, 1, 0x8, .both, 0x3e80400, [(63, 32, .rw), (31, 16, .rw), (14, 8, .rw), (7, 0, .rw)]⟩,
  ⟨"COB_STEP_ROOT", 0x818, 1, 0x8, .both, 0x0, [(13, 0, .rws)]⟩,
  ⟨"COB_STEP_STATUS", 0x820, 1, 0x8, .both, 0x0, [(63, 16, .ro), (15, 8, .ro), (3, 0, .ro)]⟩,
  ⟨"COB_STEP_COMMITTED", 0x828, 1, 0x8, .both, 0x0, [(63, 63, .rws), (47, 0, .rws)]⟩,
  ⟨"COB_STEP_DECISION", 0x830, 1, 0x8, .both, 0x0, [(63, 62, .ro), (47, 0, .ro)]⟩,
  ⟨"COB_STEP_CMD", 0x838, 1, 0x8, .both, 0x0, [(2, 2, .rw), (1, 1, .w1s), (0, 0, .w1s)]⟩,
  ⟨"COB_STEP_SEALS", 0x840, 1, 0x8, .both, 0x0, [(63, 48, .ro), (47, 32, .ro), (14, 0, .ro)]⟩,
  ⟨"FT_EPOCH_CFG", 0x200018, 1, 0x8, .both, 0x1f4, [(16, 0, .rws)]⟩,
  ⟨"FT_EPOCH_BASE", 0x200020, 1, 0x8, .both, 0x0, [(63, 0, .rws)]⟩,
  ⟨"FT_EPOCH", 0x200028, 1, 0x8, .both, 0x0, [(63, 48, .ro), (47, 0, .ro)]⟩,
  ⟨"FT_EPOCH_START", 0x200030, 1, 0x8, .both, 0x0, [(63, 0, .ro)]⟩,
  ⟨"FT_APPLY_STATUS", 0x200038, 1, 0x8, .both, 0x0, [(63, 48, .ro), (47, 32, .ro)]⟩,
  ⟨"HEAL_STATUS", 0x300000, 1, 0x8, .both, 0x0, [(63, 60, .ro), (59, 56, .ro), (55, 55, .ro), (54, 54, .ro), (53, 53, .ro), (52, 52, .ro), (51, 51, .ro), (50, 50, .ro), (49, 49, .ro), (47, 32, .ro), (31, 16, .ro), (15, 0, .ro)]⟩,
  ⟨"HEAL_POLICY", 0x300008, 1, 0x8, .both, 0xc000000300015180, [(63, 63, .rw), (62, 62, .rw), (35, 32, .rw), (31, 0, .rw)]⟩,
  ⟨"HEAL_ROT_CFG", 0x300010, 1, 0x8, .both, 0xc00000c800000068, [(63, 63, .rw), (62, 62, .rw), (61, 61, .rw), (47, 32, .rw), (6, 0, .rw)]⟩,
  ⟨"HEAL_ROT_QUIET", 0x300018, 1, 0x8, .both, 0x0, [(63, 32, .rw), (31, 0, .rw)]⟩,
  ⟨"HEAL_ROT_STATUS", 0x300020, 1, 0x8, .both, 0x0, [(63, 32, .ro), (31, 16, .ro), (15, 0, .ro)]⟩,
  ⟨"HEAL_CMD", 0x300028, 1, 0x8, .both, 0x0, [(63, 63, .w1s), (62, 62, .w1s), (61, 61, .w1s), (39, 32, .rw), (31, 0, .rw)]⟩,
  ⟨"HEAL_TEST_RESULT", 0x300030, 1, 0x8, .both, 0x0, [(63, 60, .ro), (47, 40, .ro), (39, 32, .ro), (31, 0, .ro)]⟩,
  ⟨"HEAL_TEST_TIME", 0x300038, 1, 0x8, .both, 0x0, [(63, 0, .ro)]⟩,
  ⟨"HEAL_MAP_CTRL", 0x300040, 1, 0x8, .both, 0x0, [(63, 48, .ro), (47, 32, .ro), (9, 9, .ro), (8, 8, .ro), (7, 4, .ro), (3, 0, .ro)]⟩,
  ⟨"HEAL_MAP_WRITE", 0x300048, 1, 0x8, .firmware, 0x0, [(63, 63, .wo), (62, 62, .wo), (61, 61, .wo), (60, 45, .wo), (44, 41, .wo), (40, 34, .wo), (33, 31, .wo), (30, 26, .wo)]⟩]

/-- Rows of the DEV registers, part 1. -/
def rowsDEV1 : List RegRow := [
  ⟨"HEAL_LEDGER", 0x300050, 1, 0x8, .both, 0x0, [(63, 48, .ro), (47, 32, .ro), (31, 16, .ro), (15, 0, .ro)]⟩,
  ⟨"HEAL_UNHOSTED", 0x300060, 4, 0x8, .both, 0x0, [(15, 15, .ro), (31, 31, .ro), (47, 47, .ro), (63, 63, .ro), (13, 0, .ro), (29, 16, .ro), (45, 32, .ro), (61, 48, .ro)]⟩,
  ⟨"HEAL_ROT_DIR", 0x300100, 13, 0x8, .both, 0x0, [(63, 0, .ro)]⟩,
  ⟨"HEAL_MAP_GAP0", 0x301000, 104, 0x8, .both, 0x0, [(4, 0, .ro), (9, 5, .ro), (14, 10, .ro), (19, 15, .ro), (24, 20, .ro), (29, 25, .ro), (34, 30, .ro), (39, 35, .ro)]⟩,
  ⟨"HEAL_MAP_GAP1", 0x301800, 104, 0x8, .both, 0x0, [(4, 0, .ro), (9, 5, .ro), (14, 10, .ro), (19, 15, .ro), (24, 20, .ro), (29, 25, .ro), (34, 30, .ro), (39, 35, .ro)]⟩,
  ⟨"COB_BRINGUP", 0x900, 1, 0x8, .both, 0x0, [(23, 16, .ro), (9, 9, .ro), (8, 8, .ro), (7, 4, .ro), (3, 0, .ro)]⟩,
  ⟨"COB_BRINGUP_TIME", 0x908, 1, 0x8, .both, 0x0, [(63, 0, .ro)]⟩,
  ⟨"COB_BRINGUP_DUR", 0x910, 1, 0x8, .both, 0x0, [(63, 48, .ro), (47, 32, .ro), (31, 16, .ro), (15, 0, .ro)]⟩,
  ⟨"COB_BRINGUP_CFG", 0x918, 1, 0x8, .both, 0x1e00, [(23, 8, .rws), (0, 0, .rws)]⟩,
  ⟨"COB_XING_STATUS", 0x920, 1, 0x8, .both, 0x0, [(63, 48, .ro), (31, 0, .ro)]⟩,
  ⟨"COB_TOPO_STATUS", 0x928, 1, 0x8, .both, 0x0, [(63, 44, .ro), (43, 24, .ro), (10, 10, .ro), (9, 9, .ro), (8, 8, .ro), (7, 7, .ro), (3, 0, .ro)]⟩,
  ⟨"COB_TOPO_PORT", 0x940, 20, 0x8, .both, 0x0, [(36, 32, .ro), (29, 16, .ro), (15, 12, .ro), (11, 8, .ro), (4, 4, .ro), (3, 0, .ro)]⟩,
  ⟨"HANG_CORE_WD", 0x400000, 1, 0x8, .both, 0x1000000, [(31, 0, .rw)]⟩,
  ⟨"HANG_TIMEOUTS", 0x400008, 1, 0x8, .both, 0x2800c80000003e8, [(63, 54, .rw), (53, 37, .rw), (19, 0, .rw)]⟩,
  ⟨"HANG_ESCALATE", 0x400010, 1, 0x8, .both, 0x300000384, [(39, 32, .rws), (31, 0, .rws)]⟩,
  ⟨"HANG_STATUS", 0x400018, 1, 0x8, .both, 0x0, [(63, 63, .ro), (62, 62, .ro), (61, 61, .ro), (39, 32, .ro), (31, 16, .ro), (15, 0, .ro)]⟩,
  ⟨"HANG_CMD", 0x400020, 1, 0x8, .both, 0x0, [(63, 63, .w1s), (62, 62, .rw), (61, 61, .w1s), (34, 32, .rw), (31, 0, .rw)]⟩,
  ⟨"HANG_CAPTURE", 0x400028, 1, 0x8, .both, 0x64000000000000, [(63, 63, .ro), (62, 62, .ro), (61, 48, .rw), (47, 32, .ro), (31, 0, .ro)]⟩,
  ⟨"HANG_CAPTURE_TIME", 0x400030, 1, 0x8, .both, 0x0, [(63, 0, .ro)]⟩,
  ⟨"HANG_COB_KICK", 0x400038, 1, 0x8, .firmware, 0x0, [(0, 0, .wo)]⟩,
  ⟨"HANG_RESET_TIME", 0x400080, 16, 0x8, .both, 0x0, [(63, 0, .ro)]⟩,
  ⟨"HOST_LINK_STATUS", 0xb000000, 1, 0x8, .both, 0x0, [(63, 48, .ro), (36, 26, .ro), (8, 8, .ro), (7, 4, .ro), (3, 0, .ro)]⟩,
  ⟨"HOST_LINK_CFG", 0xb000008, 1, 0x8, .firmware, 0x3, [(15, 4, .rws), (2, 0, .rws)]⟩,
  ⟨"HOST_PTP_CFG", 0xb000010, 1, 0x8, .both, 0x640000, [(31, 16, .rws), (8, 8, .rws), (7, 0, .rws)]⟩,
  ⟨"HOST_CMD_STATS", 0xb000018, 1, 0x8, .both, 0x0, [(63, 32, .ro), (31, 16, .ro), (15, 0, .ro)]⟩,
  ⟨"SEC_ID_FPR", 0xd000000, 4, 0x8, .both, 0x0, [(63, 0, .ro)]⟩,
  ⟨"SEC_ROLLBACK", 0xd000020, 1, 0x8, .both, 0x0, [(8, 8, .ro), (7, 0, .ro)]⟩,
  ⟨"SEC_FW_MEASURE", 0xd000028, 4, 0x8, .both, 0x0, [(63, 0, .ro)]⟩,
  ⟨"WEIR_BUDGET", 0x100000, 1, 0x8, .both, 0x12341158, [(31, 16, .rw), (15, 0, .rw)]⟩,
  ⟨"WEIR_STATUS", 0x100008, 1, 0x8, .both, 0x0, [(63, 60, .ro), (54, 48, .ro), (47, 32, .ro)]⟩,
  ⟨"WEIR_TELEM", 0x100010, 1, 0x8, .both, 0x0, [(63, 48, .ro), (47, 32, .ro), (31, 16, .ro), (15, 0, .ro)]⟩,
  ⟨"WEIR_THERMAL", 0x100018, 1, 0x8, .both, 0x73695f, [(63, 57, .ro), (56, 48, .ro), (47, 40, .ro), (39, 32, .ro), (31, 24, .ro), (23, 16, .rw), (15, 8, .rw), (7, 0, .rw)]⟩,
  ⟨"WEIR_OP_REQ", 0x100020, 1, 0x8, .both, 0x3000, [(63, 48, .rw), (15, 8, .rw), (0, 0, .w1s)]⟩,
  ⟨"WEIR_OP_STATUS", 0x100028, 1, 0x8, .both, 0x3000, [(63, 48, .ro), (47, 47, .ro), (15, 8, .ro)]⟩,
  ⟨"WEIR_GRANT", 0x101000, 144, 0x8, .both, 0x0, [(63, 48, .ro), (47, 32, .ro), (31, 16, .ro), (15, 12, .ro), (8, 0, .ro)]⟩,
  ⟨"WEIR_AVS", 0x102000, 104, 0x8, .both, 0x0, [(63, 48, .ro), (47, 32, .ro), (31, 16, .ro)]⟩,
  ⟨"CNT_SEL", 0xe000000, 64, 0x10, .both, 0x0, [(63, 63, .rw), (62, 62, .rw), (57, 48, .rw), (47, 40, .rw), (31, 0, .rw)]⟩,
  ⟨"CNT_VAL", 0xe000008, 64, 0x10, .both, 0x0, [(63, 63, .ro), (47, 0, .ro)]⟩,
  ⟨"CNT_CTRL", 0xe001000, 1, 0x8, .both, 0x0, [(63, 63, .ro), (62, 62, .ro), (2, 2, .w1s), (1, 1, .rw), (0, 0, .w1s)]⟩,
  ⟨"CNT_START", 0xe001008, 1, 0x8, .both, 0x0, [(63, 0, .rw)]⟩]

/-- Rows of the DEV registers, part 2. -/
def rowsDEV2 : List RegRow := [
  ⟨"CNT_FREEZE", 0xe001010, 1, 0x8, .both, 0x0, [(63, 0, .rw)]⟩,
  ⟨"CKS_STATUS", 0xc000000, 1, 0x8, .both, 0x0, [(63, 48, .ro), (47, 32, .ro), (31, 8, .ro), (3, 0, .ro)]⟩,
  ⟨"CKS_WEAR", 0xc000008, 1, 0x8, .both, 0x0, [(63, 56, .ro), (55, 44, .ro), (43, 32, .ro), (31, 16, .ro), (15, 0, .ro)]⟩,
  ⟨"CKS_RETENTION", 0xc000010, 1, 0x8, .both, 0x2d0, [(63, 32, .ro), (31, 16, .ro), (15, 0, .rws)]⟩,
  ⟨"CKS_RING_BASE", 0xc000018, 1, 0x8, .both, 0x4, [(47, 6, .rw), (3, 0, .rw)]⟩,
  ⟨"CKS_RING_CTRL", 0xc000020, 1, 0x8, .both, 0x0, [(63, 63, .rw), (31, 16, .ro), (15, 0, .rw)]⟩,
  ⟨"CKS_CQ_BASE", 0xc000028, 1, 0x8, .both, 0x4, [(47, 5, .rw), (4, 0, .rw)]⟩,
  ⟨"CKS_CQ_PTR", 0xc000030, 1, 0x8, .both, 0x0, [(31, 16, .ro), (15, 0, .rw)]⟩]

/-- All DEV rows (R33). -/
def rowsDEV : List RegRow := rowsDEV0 ++ rowsDEV1 ++ rowsDEV2

/-- Rows of the CORE registers, part 0. -/
def rowsCORE0 : List RegRow := [
  ⟨"CORE_STATE", 0x0, 1, 0x8, .both, 0x0, [(19, 4, .ro), (3, 0, .ro)]⟩,
  ⟨"CORE_IDENTITY", 0x8, 1, 0x8, .both, 0x0, [(63, 63, .ro), (62, 60, .ro), (47, 32, .ro), (13, 0, .ro)]⟩,
  ⟨"CORE_PROG_REGION", 0x10, 1, 0x8, .both, 0x0, [(3, 0, .rw)]⟩,
  ⟨"CORE_PC", 0x18, 1, 0x8, .both, 0x0, [(63, 32, .ro), (19, 17, .ro), (16, 16, .ro), (11, 0, .ro)]⟩,
  ⟨"CORE_BANK_GATE", 0x20, 1, 0x8, .both, 0xff00, [(23, 16, .ro), (15, 8, .ro), (7, 0, .rw)]⟩,
  ⟨"CORE_SPILL_CFG", 0x28, 1, 0x8, .both, 0x5e00000000004, [(50, 32, .ro), (4, 0, .rw)]⟩,
  ⟨"CORE_REMOTE_TIMEOUT", 0x30, 1, 0x8, .both, 0x2000, [(19, 0, .rw)]⟩,
  ⟨"CORE_ERR_STATUS", 0x38, 1, 0x8, .both, 0x0, [(23, 16, .ro), (0, 0, .w1c)]⟩,
  ⟨"CORE_ERR_REC0", 0x40, 1, 0x8, .both, 0x0, [(63, 56, .ro), (55, 52, .ro), (51, 38, .ro), (37, 26, .ro), (25, 24, .ro), (23, 12, .ro)]⟩,
  ⟨"CORE_ERR_REC1", 0x48, 1, 0x8, .both, 0x0, [(63, 0, .ro)]⟩,
  ⟨"CORE_ERR_REC2", 0x50, 1, 0x8, .both, 0x0, [(63, 56, .ro), (47, 0, .ro)]⟩,
  ⟨"CORE_ERR_REC3", 0x58, 1, 0x8, .both, 0x0, [(63, 48, .ro), (47, 0, .ro)]⟩,
  ⟨"CORE_ECC_COUNT", 0x60, 1, 0x8, .both, 0x0, [(47, 32, .ro), (31, 0, .ro)]⟩,
  ⟨"CORE_SLU_CFG", 0x800, 8, 0x40, .both, 0x104010000000000, [(63, 63, .rw), (62, 62, .rw), (61, 61, .rw), (59, 56, .rw), (55, 48, .rw), (47, 32, .rw), (15, 0, .rw)]⟩,
  ⟨"CORE_SLU_VERDICT", 0x808, 8, 0x40, .both, 0xffffff0000000000, [(63, 40, .ro), (21, 16, .rw), (13, 0, .rw)]⟩,
  ⟨"CORE_SLU_STEP", 0x810, 8, 0x40, .both, 0x0, [(47, 0, .ro)]⟩,
  ⟨"CORE_SLU_PROGRESS", 0x818, 8, 0x40, .both, 0x0, [(63, 40, .ro), (39, 16, .ro), (15, 0, .ro)]⟩,
  ⟨"CORE_SLU_SKIPPED", 0x820, 8, 0x40, .both, 0x0, [(63, 32, .ro), (31, 0, .ro)]⟩,
  ⟨"CORE_SLU_AUDITED", 0x828, 8, 0x40, .both, 0x0, [(63, 32, .ro), (31, 0, .ro)]⟩,
  ⟨"CORE_SLU_MISSES", 0x830, 8, 0x40, .both, 0x0, [(63, 32, .ro), (31, 0, .ro)]⟩,
  ⟨"CORE_SLU_LOST", 0x838, 8, 0x40, .both, 0x0, [(63, 32, .ro), (31, 0, .ro)]⟩,
  ⟨"CORE_STITCH_GEN", 0x100, 1, 0x8, .both, 0x0, [(48, 48, .ro), (47, 32, .ro), (15, 0, .ro)]⟩,
  ⟨"CORE_EDDY_CFG", 0x108, 1, 0x8, .both, 0x10000001000, [(51, 32, .rw), (19, 0, .rw)]⟩,
  ⟨"CORE_EDDY_STATUS", 0x110, 1, 0x8, .both, 0x0, [(52, 49, .ro), (48, 48, .ro), (47, 32, .ro), (19, 10, .ro), (9, 0, .ro)]⟩,
  ⟨"CORE_STITCH_DISCARD", 0x118, 1, 0x8, .both, 0x0, [(63, 48, .ro), (47, 32, .ro), (31, 16, .ro), (15, 0, .ro)]⟩,
  ⟨"CORE_STITCH_FORCED", 0x120, 1, 0x8, .both, 0x0, [(63, 32, .ro), (31, 0, .ro)]⟩,
  ⟨"CORE_STITCH_RETRY", 0x128, 1, 0x8, .both, 0x0, [(63, 48, .ro), (47, 32, .ro), (31, 16, .ro), (15, 0, .ro)]⟩,
  ⟨"CORE_STITCH_ROUTE", 0x200, 64, 0x8, .both, 0x0, [(63, 63, .rw), (59, 55, .rw), (54, 52, .rw)]⟩,
  ⟨"CORE_STITCH_INQ", 0x400, 32, 0x8, .both, 0x0, [(29, 20, .ro), (19, 10, .ro), (9, 8, .ro), (7, 7, .ro), (6, 6, .ro), (3, 0, .ro)]⟩,
  ⟨"CORE_STITCH_OUTQ", 0x500, 32, 0x8, .both, 0x8, [(12, 12, .ro), (11, 10, .ro), (9, 0, .ro)]⟩,
  ⟨"CORE_MQ_STATUS", 0x600, 1, 0x8, .both, 0x0, [(32, 32, .ro), (29, 24, .ro), (21, 16, .ro), (13, 8, .ro), (5, 0, .ro)]⟩,
  ⟨"CORE_TAG_QUEUE", 0xa00, 128, 0x8, .both, 0x0, [(63, 0, .rw)]⟩,
  ⟨"CORE_TAG_VALID", 0xe00, 64, 0x8, .both, 0x0, [(63, 0, .rw)]⟩,
  ⟨"CORE_SPAD_REMAP", 0x700, 32, 0x8, .firmware, 0x0, [(63, 63, .rws), (62, 62, .ro), (9, 0, .rws)]⟩,
  ⟨"CORE_SPAD_FLIP", 0x640, 8, 0x8, .both, 0x0, [(15, 15, .rw), (31, 31, .rw), (47, 47, .rw), (63, 63, .rw), (14, 8, .rw), (30, 24, .rw), (46, 40, .rw), (62, 56, .rw), (7, 0, .rw), (23, 16, .rw), (39, 32, .rw), (55, 48, .rw)]⟩,
  ⟨"CORE_SPAD_FLIP_ARM", 0x680, 1, 0x8, .both, 0x0, [(15, 8, .w1c), (7, 0, .w1s)]⟩,
  ⟨"CORE_SPAD_SCRUB", 0x688, 1, 0x8, .both, 0x0, [(63, 32, .ro), (31, 0, .ro)]⟩,
  ⟨"CORE_TEST_STATUS", 0x608, 1, 0x8, .both, 0x0, [(63, 60, .ro), (59, 56, .ro), (55, 54, .ro), (47, 0, .ro)]⟩]

/-- All CORE rows (R33). -/
def rowsCORE : List RegRow := rowsCORE0

/-- Rows of the CLU registers, part 0. -/
def rowsCLU0 : List RegRow := [
  ⟨"CLU_EDDY_CFG", 0x8000, 1, 0x8, .both, 0x3ff01, [(17, 8, .rw), (0, 0, .rw)]⟩,
  ⟨"CLU_EDDY_LOG0", 0x8008, 1, 0x8, .both, 0x0, [(63, 48, .ro), (47, 32, .ro), (27, 24, .ro), (21, 19, .ro), (18, 17, .ro), (13, 0, .ro)]⟩,
  ⟨"CLU_EDDY_LOG1", 0x8010, 1, 0x8, .both, 0x0, [(63, 0, .ro)]⟩,
  ⟨"CLU_MSG_STATS", 0x8100, 1, 0x8, .both, 0x0, [(63, 48, .ro), (47, 32, .ro), (31, 16, .ro), (15, 0, .ro)]⟩,
  ⟨"CLU_CONF_CFG", 0x9000, 64, 0x20, .both, 0x0, [(63, 62, .ro), (61, 61, .rw), (60, 59, .rw), (55, 44, .rw), (43, 29, .rw), (28, 9, .rw), (8, 0, .rw)]⟩,
  ⟨"CLU_CONF_DELIVER", 0x9008, 64, 0x20, .both, 0x0, [(63, 62, .rw), (61, 58, .rw), (57, 54, .rw), (53, 42, .rw), (37, 19, .rw), (13, 0, .rw)]⟩,
  ⟨"CLU_CONF_TIME", 0x9010, 64, 0x20, .both, 0x0, [(31, 0, .rw)]⟩,
  ⟨"CLU_CONF_STATUS", 0x9018, 64, 0x20, .both, 0x0, [(63, 16, .ro), (15, 8, .ro), (7, 0, .ro)]⟩,
  ⟨"CLU_CONF_RED", 0xa000, 64, 0x8, .both, 0x200000000000000, [(63, 63, .rw), (62, 62, .rw), (61, 54, .rw), (53, 42, .rw), (41, 28, .rw), (27, 27, .rw), (26, 13, .rw)]⟩,
  ⟨"CLU_CNT_SEL", 0xb000, 8, 0x10, .both, 0x0, [(63, 63, .rw), (9, 0, .rw)]⟩,
  ⟨"CLU_CNT_VAL", 0xb008, 8, 0x10, .both, 0x0, [(63, 63, .ro), (47, 0, .ro)]⟩]

/-- All CLU rows (R33). -/
def rowsCLU : List RegRow := rowsCLU0

/-- Rows of the RACE registers, part 0. -/
def rowsRACE0 : List RegRow := [
  ⟨"RACE_CTRL", 0x0, 1, 0x8, .firmware, 0x0, [(63, 48, .ro), (47, 32, .ro), (31, 16, .ro), (15, 8, .ro), (0, 0, .ro)]⟩,
  ⟨"RACE_ERR", 0x8, 1, 0x8, .firmware, 0x0, [(63, 48, .ro), (47, 32, .ro), (31, 24, .ro), (23, 16, .ro), (15, 8, .ro)]⟩,
  ⟨"RACE_ROUTE", 0x1000, 104, 0x8, .firmware, 0x0, [(7, 7, .rw), (6, 4, .rw), (3, 3, .rw), (2, 0, .rw)]⟩]

/-- All RACE rows (R33). -/
def rowsRACE : List RegRow := rowsRACE0

/-- Rows of the MEM registers, part 0. -/
def rowsMEM0 : List RegRow := [
  ⟨"HBM_STATUS", 0x0, 1, 0x8, .both, 0x0, [(63, 32, .ro), (31, 16, .ro), (3, 0, .ro)]⟩,
  ⟨"HBM_ECC_COUNT", 0x8, 1, 0x8, .both, 0x0, [(63, 32, .ro), (31, 16, .ro), (15, 8, .ro), (0, 0, .w1c)]⟩,
  ⟨"HBM_UE_REC0", 0x10, 1, 0x8, .both, 0x0, [(63, 60, .ro), (59, 56, .ro), (55, 42, .ro), (41, 33, .ro), (32, 21, .ro), (15, 0, .ro)]⟩,
  ⟨"HBM_UE_REC1", 0x18, 1, 0x8, .both, 0x0, [(47, 0, .ro)]⟩,
  ⟨"HBM_UE_REC2", 0x20, 1, 0x8, .both, 0x0, [(63, 0, .ro)]⟩,
  ⟨"HBM_UE_REC3", 0x28, 1, 0x8, .both, 0x0, [(63, 48, .ro), (47, 0, .ro)]⟩,
  ⟨"HBM_FLIP", 0x40, 2, 0x8, .both, 0x0, [(15, 15, .rw), (31, 31, .rw), (47, 47, .rw), (63, 63, .rw), (14, 8, .rw), (30, 24, .rw), (46, 40, .rw), (62, 56, .rw), (7, 0, .rw), (23, 16, .rw), (39, 32, .rw), (55, 48, .rw)]⟩,
  ⟨"HBM_FLIP_CTRL", 0x50, 1, 0x8, .both, 0x0, [(63, 63, .w1s), (62, 62, .rw), (61, 61, .w1c), (36, 6, .rw)]⟩,
  ⟨"HBM_SCRUB", 0x60, 1, 0x8, .both, 0xe10, [(63, 32, .ro), (31, 16, .ro), (15, 0, .rw)]⟩,
  ⟨"HBM_FILL", 0x68, 1, 0x8, .firmware, 0x0, [(63, 63, .w1s), (62, 62, .rw), (61, 61, .ro), (31, 16, .ro), (15, 0, .ro)]⟩,
  ⟨"HBM_REMAP", 0x1000, 256, 0x8, .firmware, 0x0, [(63, 63, .rws), (62, 62, .ro), (36, 6, .rws)]⟩,
  ⟨"HBM_WELT_RING_BASE", 0x2000, 16, 0x10, .both, 0x4, [(47, 6, .rw), (4, 0, .rw)]⟩,
  ⟨"HBM_WELT_RING_CTRL", 0x2008, 16, 0x10, .both, 0x0, [(63, 62, .ro), (61, 61, .rw), (60, 60, .rw), (59, 59, .rw), (58, 58, .w1s), (57, 52, .rw), (51, 38, .rw), (31, 16, .rw), (15, 0, .rw)]⟩,
  ⟨"HBM_WELT_CQ_BASE", 0x3000, 1, 0x8, .both, 0x4, [(47, 5, .rw), (4, 0, .rw)]⟩,
  ⟨"HBM_WELT_CQ_PTR", 0x3008, 1, 0x8, .both, 0x0, [(31, 16, .ro), (15, 0, .rw)]⟩,
  ⟨"HBM_WELT_STATUS", 0x3010, 1, 0x8, .both, 0x0, [(40, 32, .ro), (31, 16, .ro), (15, 0, .ro)]⟩]

/-- All MEM rows (R33). -/
def rowsMEM : List RegRow := rowsMEM0

/-- Rows of the FORD registers, part 0. -/
def rowsFORD0 : List RegRow := [
  ⟨"FORD_CTRL", 0x0, 1, 0x8, .both, 0x800010807, [(40, 40, .w1s), (39, 32, .rw), (23, 16, .rw), (15, 8, .rw), (2, 2, .rw), (1, 1, .rw), (0, 0, .rw)]⟩,
  ⟨"FORD_STATE", 0x8, 1, 0x8, .both, 0x0, [(63, 48, .ro), (47, 16, .ro), (15, 12, .ro), (11, 9, .ro), (8, 8, .ro), (7, 4, .ro), (3, 0, .ro)]⟩,
  ⟨"FORD_LANES", 0x10, 1, 0x8, .both, 0x0, [(15, 8, .ro), (7, 0, .ro)]⟩,
  ⟨"FORD_MARGIN", 0x18, 1, 0x8, .both, 0x0, [(7, 0, .ro), (15, 8, .ro), (23, 16, .ro), (31, 24, .ro), (39, 32, .ro), (47, 40, .ro), (55, 48, .ro), (63, 56, .ro)]⟩,
  ⟨"FORD_PEER", 0x20, 1, 0x8, .both, 0x0, [(63, 63, .ro), (62, 62, .ro), (61, 61, .w1c), (60, 60, .w1c), (20, 16, .ro), (13, 0, .ro)]⟩,
  ⟨"FORD_PEER_KEY", 0x28, 4, 0x8, .both, 0x0, [(63, 0, .ro)]⟩,
  ⟨"FORD_LINK_ERR", 0x48, 1, 0x8, .both, 0x0, [(63, 32, .ro), (31, 16, .ro), (15, 0, .ro)]⟩,
  ⟨"FORD_RETRY", 0x50, 1, 0x8, .both, 0x0, [(63, 32, .ro), (31, 16, .ro), (15, 0, .ro)]⟩,
  ⟨"FORD_DELAY", 0x58, 1, 0x8, .both, 0x0, [(63, 32, .ro), (31, 0, .ro)]⟩,
  ⟨"FORD_SAVED", 0x60, 1, 0x8, .firmware, 0x0, [(63, 63, .rws), (62, 0, .ro)]⟩,
  ⟨"FORD_DIGEST_TX", 0x80, 2, 0x8, .both, 0x0, [(63, 0, .ro)]⟩,
  ⟨"FORD_DIGEST_RX", 0x90, 2, 0x8, .both, 0x0, [(63, 0, .ro)]⟩,
  ⟨"FORD_DIGEST_STEP", 0xa0, 1, 0x8, .both, 0x0, [(63, 48, .ro), (47, 0, .ro)]⟩]

/-- All FORD rows (R33). -/
def rowsFORD : List RegRow := rowsFORD0

def Fld.COB_IDENT_VENDOR : Fld := ⟨0x0, 63, 48⟩
def Fld.COB_IDENT_ARCH : Fld := ⟨0x0, 47, 40⟩
def Fld.COB_IDENT_MEMBER : Fld := ⟨0x0, 39, 32⟩
def Fld.COB_IDENT_DIE_MAJOR : Fld := ⟨0x0, 31, 28⟩
def Fld.COB_IDENT_DIE_MINOR : Fld := ⟨0x0, 27, 24⟩
def Fld.COB_IDENT_MODULE_ISSUE : Fld := ⟨0x0, 23, 16⟩
def Fld.COB_IDENT_POWER_CLASS : Fld := ⟨0x0, 15, 8⟩
def Fld.COB_IDENT_COOLING : Fld := ⟨0x0, 7, 4⟩
def Fld.COB_SERIAL_SERIAL : Fld := ⟨0x8, 63, 0⟩
def Fld.COB_FW_VERSION_MAJOR : Fld := ⟨0x10, 63, 48⟩
def Fld.COB_FW_VERSION_MINOR : Fld := ⟨0x10, 47, 32⟩
def Fld.COB_FW_VERSION_BUILD : Fld := ⟨0x10, 31, 16⟩
def Fld.COB_FW_VERSION_ROLLBACK_INDEX : Fld := ⟨0x10, 15, 0⟩
def Fld.COB_DEVICE_ID_VALID : Fld := ⟨0x18, 63, 63⟩
def Fld.COB_DEVICE_ID_X : Fld := ⟨0x18, 13, 9⟩
def Fld.COB_DEVICE_ID_Y : Fld := ⟨0x18, 8, 4⟩
def Fld.COB_DEVICE_ID_Z : Fld := ⟨0x18, 3, 0⟩
def Fld.CORE_STATE_STATE_EPOCH : Fld := ⟨0x0, 19, 4⟩
def Fld.CORE_STATE_STATE : Fld := ⟨0x0, 3, 0⟩
def Fld.CORE_IDENTITY_HOLDS_LOGICAL : Fld := ⟨0x8, 63, 63⟩
def Fld.CORE_IDENTITY_ROLE : Fld := ⟨0x8, 62, 60⟩
def Fld.CORE_IDENTITY_MAP_EPOCH : Fld := ⟨0x8, 47, 32⟩
def Fld.CORE_IDENTITY_LOGICAL_ID : Fld := ⟨0x8, 13, 0⟩
def Fld.CORE_PROG_REGION_REGION : Fld := ⟨0x10, 3, 0⟩
def Fld.CORE_PC_STALL_RUN : Fld := ⟨0x18, 63, 32⟩
def Fld.CORE_PC_BLOCK : Fld := ⟨0x18, 19, 17⟩
def Fld.CORE_PC_ISSUE_BLOCKED : Fld := ⟨0x18, 16, 16⟩
def Fld.CORE_PC_PC : Fld := ⟨0x18, 11, 0⟩
def Fld.CORE_BANK_GATE_WAKING : Fld := ⟨0x20, 23, 16⟩
def Fld.CORE_BANK_GATE_POWERED : Fld := ⟨0x20, 15, 8⟩
def Fld.CORE_BANK_GATE_GATE : Fld := ⟨0x20, 7, 0⟩
def Fld.CORE_SPILL_CFG_BASE : Fld := ⟨0x28, 50, 32⟩
def Fld.CORE_SPILL_CFG_SIZE : Fld := ⟨0x28, 4, 0⟩
def Fld.CORE_REMOTE_TIMEOUT_CYCLES : Fld := ⟨0x30, 19, 0⟩
def Fld.CORE_ERR_STATUS_EXTRA : Fld := ⟨0x38, 23, 16⟩
def Fld.CORE_ERR_STATUS_LATCHED : Fld := ⟨0x38, 0, 0⟩
def Fld.CORE_ERR_REC0_CODE : Fld := ⟨0x40, 63, 56⟩
def Fld.CORE_ERR_REC0_REGION : Fld := ⟨0x40, 55, 52⟩
def Fld.CORE_ERR_REC0_LOGICAL_ID : Fld := ⟨0x40, 51, 38⟩
def Fld.CORE_ERR_REC0_PC : Fld := ⟨0x40, 37, 26⟩
def Fld.CORE_ERR_REC0_ID_KIND : Fld := ⟨0x40, 25, 24⟩
def Fld.CORE_ERR_REC0_ID : Fld := ⟨0x40, 23, 12⟩
def Fld.CORE_ERR_REC1_FABRIC_TIME : Fld := ⟨0x48, 63, 0⟩
def Fld.CORE_ERR_REC2_REASON : Fld := ⟨0x50, 63, 56⟩
def Fld.CORE_ERR_REC2_ADDRESS : Fld := ⟨0x50, 47, 0⟩
def Fld.CORE_ERR_REC3_EPOCH : Fld := ⟨0x58, 63, 48⟩
def Fld.CORE_ERR_REC3_STEP : Fld := ⟨0x58, 47, 0⟩
def Fld.CORE_ECC_COUNT_UNCORRECTABLE : Fld := ⟨0x60, 47, 32⟩
def Fld.CORE_ECC_COUNT_CORRECTED : Fld := ⟨0x60, 31, 0⟩
def Fld.COB_JOB_SEED_SEED : Fld := ⟨0x400, 63, 0⟩
def Fld.COB_NUMERICS_LEVEL_APPLIED_EPOCH : Fld := ⟨0x408, 63, 48⟩
def Fld.COB_NUMERICS_LEVEL_APPLIED_LEVEL : Fld := ⟨0x408, 43, 40⟩
def Fld.COB_NUMERICS_LEVEL_REQ_EPOCH : Fld := ⟨0x408, 31, 16⟩
def Fld.COB_NUMERICS_LEVEL_REQ_LEVEL : Fld := ⟨0x408, 3, 0⟩
def Fld.COB_NUM_REGION_CHECKED : Fld := ⟨0x480, 10, 10⟩
def Fld.COB_NUM_REGION_NF_ACTION : Fld := ⟨0x480, 9, 9⟩
def Fld.COB_NUM_REGION_RANGE_ACTION : Fld := ⟨0x480, 8, 8⟩
def Fld.COB_NUM_REGION_RANGE_EXP : Fld := ⟨0x480, 7, 0⟩
def Fld.CORE_SLU_CFG_VALID : Fld := ⟨0x800, 63, 63⟩
def Fld.CORE_SLU_CFG_ROLE : Fld := ⟨0x800, 62, 62⟩
def Fld.CORE_SLU_CFG_STRICT : Fld := ⟨0x800, 61, 61⟩
def Fld.CORE_SLU_CFG_LAG : Fld := ⟨0x800, 59, 56⟩
def Fld.CORE_SLU_CFG_LIMIT : Fld := ⟨0x800, 55, 48⟩
def Fld.CORE_SLU_CFG_WINDOW : Fld := ⟨0x800, 47, 32⟩
def Fld.CORE_SLU_CFG_LAYER : Fld := ⟨0x800, 15, 0⟩
def Fld.CORE_SLU_VERDICT_FALLBACK_FROM : Fld := ⟨0x808, 63, 40⟩
def Fld.CORE_SLU_VERDICT_FLAG : Fld := ⟨0x808, 21, 16⟩
def Fld.CORE_SLU_VERDICT_CORE : Fld := ⟨0x808, 13, 0⟩
def Fld.CORE_SLU_STEP_STEP : Fld := ⟨0x810, 47, 0⟩
def Fld.CORE_SLU_PROGRESS_ORDINAL : Fld := ⟨0x818, 63, 40⟩
def Fld.CORE_SLU_PROGRESS_RESOLVED : Fld := ⟨0x818, 39, 16⟩
def Fld.CORE_SLU_PROGRESS_WIN_MISSES : Fld := ⟨0x818, 15, 0⟩
def Fld.CORE_SLU_SKIPPED_LAST : Fld := ⟨0x820, 63, 32⟩
def Fld.CORE_SLU_SKIPPED_CUR : Fld := ⟨0x820, 31, 0⟩
def Fld.CORE_SLU_AUDITED_LAST : Fld := ⟨0x828, 63, 32⟩
def Fld.CORE_SLU_AUDITED_CUR : Fld := ⟨0x828, 31, 0⟩
def Fld.CORE_SLU_MISSES_LAST : Fld := ⟨0x830, 63, 32⟩
def Fld.CORE_SLU_MISSES_CUR : Fld := ⟨0x830, 31, 0⟩
def Fld.CORE_SLU_LOST_LAST : Fld := ⟨0x838, 63, 32⟩
def Fld.CORE_SLU_LOST_CUR : Fld := ⟨0x838, 31, 0⟩
def Fld.CORE_STITCH_GEN_WAITING_SEALS : Fld := ⟨0x100, 48, 48⟩
def Fld.CORE_STITCH_GEN_FORCE_COUNT : Fld := ⟨0x100, 47, 32⟩
def Fld.CORE_STITCH_GEN_CFG_GEN : Fld := ⟨0x100, 15, 0⟩
def Fld.CORE_EDDY_CFG_PROBE_HOLD : Fld := ⟨0x108, 51, 32⟩
def Fld.CORE_EDDY_CFG_THRESHOLD : Fld := ⟨0x108, 19, 0⟩
def Fld.CORE_EDDY_STATUS_SERIAL : Fld := ⟨0x110, 52, 49⟩
def Fld.CORE_EDDY_STATUS_PROBE_OUT : Fld := ⟨0x110, 48, 48⟩
def Fld.CORE_EDDY_STATUS_SPILLS : Fld := ⟨0x110, 47, 32⟩
def Fld.CORE_EDDY_STATUS_USED : Fld := ⟨0x110, 19, 10⟩
def Fld.CORE_EDDY_STATUS_RESERVED : Fld := ⟨0x110, 9, 0⟩
def Fld.CORE_STITCH_DISCARD_TAKEN : Fld := ⟨0x118, 63, 48⟩
def Fld.CORE_STITCH_DISCARD_ROUTE_MISS : Fld := ⟨0x118, 47, 32⟩
def Fld.CORE_STITCH_DISCARD_AHEAD : Fld := ⟨0x118, 31, 16⟩
def Fld.CORE_STITCH_DISCARD_STALE : Fld := ⟨0x118, 15, 0⟩
def Fld.CORE_STITCH_FORCED_UNCAPTURED : Fld := ⟨0x120, 63, 32⟩
def Fld.CORE_STITCH_FORCED_DISCARDED : Fld := ⟨0x120, 31, 0⟩
def Fld.CORE_STITCH_RETRY_WEST : Fld := ⟨0x128, 63, 48⟩
def Fld.CORE_STITCH_RETRY_SOUTH : Fld := ⟨0x128, 47, 32⟩
def Fld.CORE_STITCH_RETRY_EAST : Fld := ⟨0x128, 31, 16⟩
def Fld.CORE_STITCH_RETRY_NORTH : Fld := ⟨0x128, 15, 0⟩
def Fld.CORE_STITCH_ROUTE_VALID : Fld := ⟨0x200, 63, 63⟩
def Fld.CORE_STITCH_ROUTE_OUT_MASK : Fld := ⟨0x200, 59, 55⟩
def Fld.CORE_STITCH_ROUTE_OUT_STREAM : Fld := ⟨0x200, 54, 52⟩
def Fld.CORE_STITCH_INQ_ALLOW : Fld := ⟨0x400, 29, 20⟩
def Fld.CORE_STITCH_INQ_SEG : Fld := ⟨0x400, 19, 10⟩
def Fld.CORE_STITCH_INQ_A_GEN : Fld := ⟨0x400, 9, 8⟩
def Fld.CORE_STITCH_INQ_SEAL_HELD : Fld := ⟨0x400, 7, 7⟩
def Fld.CORE_STITCH_INQ_SEAL_AT_HEAD : Fld := ⟨0x400, 6, 6⟩
def Fld.CORE_STITCH_INQ_OCC : Fld := ⟨0x400, 3, 0⟩
def Fld.CORE_STITCH_OUTQ_ROUTED : Fld := ⟨0x500, 12, 12⟩
def Fld.CORE_STITCH_OUTQ_GEN : Fld := ⟨0x500, 11, 10⟩
def Fld.CORE_STITCH_OUTQ_CREDITS : Fld := ⟨0x500, 9, 0⟩
def Fld.CLU_EDDY_CFG_HOP_LIMIT : Fld := ⟨0x8000, 17, 8⟩
def Fld.CLU_EDDY_CFG_SPILL_EN : Fld := ⟨0x8000, 0, 0⟩
def Fld.CLU_EDDY_LOG0_SPILLS : Fld := ⟨0x8008, 63, 48⟩
def Fld.CLU_EDDY_LOG0_CANCELLED : Fld := ⟨0x8008, 47, 32⟩
def Fld.CLU_EDDY_LOG0_WORDS : Fld := ⟨0x8008, 27, 24⟩
def Fld.CLU_EDDY_LOG0_STREAM : Fld := ⟨0x8008, 21, 19⟩
def Fld.CLU_EDDY_LOG0_LINK : Fld := ⟨0x8008, 18, 17⟩
def Fld.CLU_EDDY_LOG0_CORE : Fld := ⟨0x8008, 13, 0⟩
def Fld.CLU_EDDY_LOG1_FABRIC_TIME : Fld := ⟨0x8010, 63, 0⟩
def Fld.COB_STITCH_FORCE_APPLIED_EPOCH : Fld := ⟨0x500, 63, 48⟩
def Fld.COB_STITCH_FORCE_REQ_EPOCH : Fld := ⟨0x500, 47, 32⟩
def Fld.COB_STITCH_FORCE_CAPTURE_OLD : Fld := ⟨0x500, 1, 1⟩
def Fld.COB_STITCH_FORCE_ARM : Fld := ⟨0x500, 0, 0⟩
def Fld.COB_RACE_STATUS_APPLIED_EPOCH : Fld := ⟨0x520, 63, 48⟩
def Fld.COB_RACE_STATUS_SERVICE : Fld := ⟨0x520, 7, 4⟩
def Fld.COB_RACE_STATUS_ROUTING : Fld := ⟨0x520, 3, 3⟩
def Fld.COB_RACE_STATUS_ACTIVE_BANK : Fld := ⟨0x520, 0, 0⟩
def Fld.COB_RACE_REQ_REQ_EPOCH : Fld := ⟨0x528, 63, 48⟩
def Fld.COB_RACE_REQ_REQ_SERVICE : Fld := ⟨0x528, 7, 4⟩
def Fld.COB_RACE_REQ_REQ_ROUTING : Fld := ⟨0x528, 3, 3⟩
def Fld.COB_RACE_REQ_FLIP : Fld := ⟨0x528, 2, 2⟩
def Fld.COB_RACE_REQ_ARM : Fld := ⟨0x528, 0, 0⟩
def Fld.RACE_CTRL_FLIP_EPOCH : Fld := ⟨0x0, 63, 48⟩
def Fld.RACE_CTRL_APPLIED_EPOCH : Fld := ⟨0x0, 47, 32⟩
def Fld.RACE_CTRL_OLD_IN_FLIGHT : Fld := ⟨0x0, 31, 16⟩
def Fld.RACE_CTRL_HELD_LINKS : Fld := ⟨0x0, 15, 8⟩
def Fld.RACE_CTRL_ACTIVE_BANK : Fld := ⟨0x0, 0, 0⟩
def Fld.RACE_ERR_RETRIES : Fld := ⟨0x8, 63, 48⟩
def Fld.RACE_ERR_MERGES : Fld := ⟨0x8, 47, 32⟩
def Fld.RACE_ERR_RESIDUE_FAULTS : Fld := ⟨0x8, 31, 24⟩
def Fld.RACE_ERR_EPOCH_DROPS : Fld := ⟨0x8, 23, 16⟩
def Fld.RACE_ERR_BAD_PACKETS : Fld := ⟨0x8, 15, 8⟩
def Fld.RACE_ROUTE_ADAPT1 : Fld := ⟨0x1000, 7, 7⟩
def Fld.RACE_ROUTE_OUT1 : Fld := ⟨0x1000, 6, 4⟩
def Fld.RACE_ROUTE_ADAPT0 : Fld := ⟨0x1000, 3, 3⟩
def Fld.RACE_ROUTE_OUT0 : Fld := ⟨0x1000, 2, 0⟩
def Fld.CLU_MSG_STATS_BOUNCES : Fld := ⟨0x8100, 63, 48⟩
def Fld.CLU_MSG_STATS_BUSY : Fld := ⟨0x8100, 47, 32⟩
def Fld.CLU_MSG_STATS_RESET_DISCARDS : Fld := ⟨0x8100, 31, 16⟩
def Fld.CLU_MSG_STATS_ERRORS : Fld := ⟨0x8100, 15, 0⟩
def Fld.CLU_CONF_CFG_STATE : Fld := ⟨0x9000, 63, 62⟩
def Fld.CLU_CONF_CFG_ENABLE : Fld := ⟨0x9000, 61, 61⟩
def Fld.CLU_CONF_CFG_KIND : Fld := ⟨0x9000, 60, 59⟩
def Fld.CLU_CONF_CFG_TAG : Fld := ⟨0x9000, 55, 44⟩
def Fld.CLU_CONF_CFG_EXPECTED : Fld := ⟨0x9000, 43, 29⟩
def Fld.CLU_CONF_CFG_FIRST_BLOCK : Fld := ⟨0x9000, 28, 9⟩
def Fld.CLU_CONF_CFG_BLOCKS : Fld := ⟨0x9000, 8, 0⟩
def Fld.CLU_CONF_DELIVER_DELIVER_MODE : Fld := ⟨0x9008, 63, 62⟩
def Fld.CLU_CONF_DELIVER_SPAN_LO : Fld := ⟨0x9008, 61, 58⟩
def Fld.CLU_CONF_DELIVER_SPAN_HI : Fld := ⟨0x9008, 57, 54⟩
def Fld.CLU_CONF_DELIVER_DELIVER_TAG : Fld := ⟨0x9008, 53, 42⟩
def Fld.CLU_CONF_DELIVER_DELIVER_OFFSET : Fld := ⟨0x9008, 37, 19⟩
def Fld.CLU_CONF_DELIVER_CORE : Fld := ⟨0x9008, 13, 0⟩
def Fld.CLU_CONF_TIME_OFFSET : Fld := ⟨0x9010, 31, 0⟩
def Fld.CLU_CONF_STATUS_STEP : Fld := ⟨0x9018, 63, 16⟩
def Fld.CLU_CONF_STATUS_SHORT : Fld := ⟨0x9018, 15, 8⟩
def Fld.CLU_CONF_STATUS_DELIVERY_BOUNCES : Fld := ⟨0x9018, 7, 0⟩
def Fld.CORE_MQ_STATUS_OPEN : Fld := ⟨0x600, 32, 32⟩
def Fld.CORE_MQ_STATUS_MQ3 : Fld := ⟨0x600, 29, 24⟩
def Fld.CORE_MQ_STATUS_MQ2 : Fld := ⟨0x600, 21, 16⟩
def Fld.CORE_MQ_STATUS_MQ1 : Fld := ⟨0x600, 13, 8⟩
def Fld.CORE_MQ_STATUS_MQ0 : Fld := ⟨0x600, 5, 0⟩
def Fld.CORE_TAG_QUEUE_QUEUE : Fld := ⟨0xa00, 63, 0⟩
def Fld.CORE_TAG_VALID_VALID : Fld := ⟨0xe00, 63, 0⟩
def Fld.COB_MEM_MAP_GRANULE : Fld := ⟨0x600, 3, 0⟩
def Fld.HBM_STATUS_ODECC_CORRECTED : Fld := ⟨0x0, 63, 32⟩
def Fld.HBM_STATUS_ODECC_FAILED : Fld := ⟨0x0, 31, 16⟩
def Fld.HBM_STATUS_STATE : Fld := ⟨0x0, 3, 0⟩
def Fld.HBM_ECC_COUNT_CORRECTED : Fld := ⟨0x8, 63, 32⟩
def Fld.HBM_ECC_COUNT_UNCORRECTABLE : Fld := ⟨0x8, 31, 16⟩
def Fld.HBM_ECC_COUNT_EXTRA : Fld := ⟨0x8, 15, 8⟩
def Fld.HBM_ECC_COUNT_LATCHED : Fld := ⟨0x8, 0, 0⟩
def Fld.HBM_UE_REC0_SOURCE : Fld := ⟨0x10, 63, 60⟩
def Fld.HBM_UE_REC0_REGION : Fld := ⟨0x10, 59, 56⟩
def Fld.HBM_UE_REC0_CORE : Fld := ⟨0x10, 55, 42⟩
def Fld.HBM_UE_REC0_NODE : Fld := ⟨0x10, 41, 33⟩
def Fld.HBM_UE_REC0_TAG : Fld := ⟨0x10, 32, 21⟩
def Fld.HBM_UE_REC0_TXN : Fld := ⟨0x10, 15, 0⟩
def Fld.HBM_UE_REC1_ADDRESS : Fld := ⟨0x18, 47, 0⟩
def Fld.HBM_UE_REC2_FABRIC_TIME : Fld := ⟨0x20, 63, 0⟩
def Fld.HBM_UE_REC3_EPOCH : Fld := ⟨0x28, 63, 48⟩
def Fld.HBM_UE_REC3_STEP : Fld := ⟨0x28, 47, 0⟩
def Fld.HBM_FLIP_VALID : Fld := ⟨0x40, 15, 15⟩
def Fld.HBM_FLIP_INDEX : Fld := ⟨0x40, 14, 8⟩
def Fld.HBM_FLIP_PATTERN : Fld := ⟨0x40, 7, 0⟩
def Fld.HBM_FLIP_CTRL_ARM : Fld := ⟨0x50, 63, 63⟩
def Fld.HBM_FLIP_CTRL_MATCH_EN : Fld := ⟨0x50, 62, 62⟩
def Fld.HBM_FLIP_CTRL_APPLIED : Fld := ⟨0x50, 61, 61⟩
def Fld.HBM_FLIP_CTRL_BLOCK : Fld := ⟨0x50, 36, 6⟩
def Fld.HBM_SCRUB_LAST_LAP : Fld := ⟨0x60, 63, 32⟩
def Fld.HBM_SCRUB_LAPS : Fld := ⟨0x60, 31, 16⟩
def Fld.HBM_SCRUB_LIMIT : Fld := ⟨0x60, 15, 0⟩
def Fld.HBM_FILL_START : Fld := ⟨0x68, 63, 63⟩
def Fld.HBM_FILL_MODE : Fld := ⟨0x68, 62, 62⟩
def Fld.HBM_FILL_BUSY : Fld := ⟨0x68, 61, 61⟩
def Fld.HBM_FILL_FAILS : Fld := ⟨0x68, 31, 16⟩
def Fld.HBM_FILL_ELAPSED : Fld := ⟨0x68, 15, 0⟩
def Fld.HBM_REMAP_VALID : Fld := ⟨0x1000, 63, 63⟩
def Fld.HBM_REMAP_ACTIVE : Fld := ⟨0x1000, 62, 62⟩
def Fld.HBM_REMAP_BLOCK : Fld := ⟨0x1000, 36, 6⟩
def Fld.HBM_WELT_RING_BASE_BASE : Fld := ⟨0x2000, 47, 6⟩
def Fld.HBM_WELT_RING_BASE_SIZE_LOG2 : Fld := ⟨0x2000, 4, 0⟩
def Fld.HBM_WELT_RING_CTRL_STATE : Fld := ⟨0x2008, 63, 62⟩
def Fld.HBM_WELT_RING_CTRL_ENABLE : Fld := ⟨0x2008, 61, 61⟩
def Fld.HBM_WELT_RING_CTRL_REPEAT : Fld := ⟨0x2008, 60, 60⟩
def Fld.HBM_WELT_RING_CTRL_TAIL_SRC : Fld := ⟨0x2008, 59, 59⟩
def Fld.HBM_WELT_RING_CTRL_START : Fld := ⟨0x2008, 58, 58⟩
def Fld.HBM_WELT_RING_CTRL_TAIL_FLAG : Fld := ⟨0x2008, 57, 52⟩
def Fld.HBM_WELT_RING_CTRL_TAIL_CORE : Fld := ⟨0x2008, 51, 38⟩
def Fld.HBM_WELT_RING_CTRL_HEAD : Fld := ⟨0x2008, 31, 16⟩
def Fld.HBM_WELT_RING_CTRL_TAIL : Fld := ⟨0x2008, 15, 0⟩
def Fld.HBM_WELT_CQ_BASE_BASE : Fld := ⟨0x3000, 47, 5⟩
def Fld.HBM_WELT_CQ_BASE_SIZE_LOG2 : Fld := ⟨0x3000, 4, 0⟩
def Fld.HBM_WELT_CQ_PTR_WRITE : Fld := ⟨0x3008, 31, 16⟩
def Fld.HBM_WELT_CQ_PTR_READ : Fld := ⟨0x3008, 15, 0⟩
def Fld.HBM_WELT_STATUS_OUTSTANDING : Fld := ⟨0x3010, 40, 32⟩
def Fld.HBM_WELT_STATUS_STOPPED : Fld := ⟨0x3010, 31, 16⟩
def Fld.HBM_WELT_STATUS_RUNNING : Fld := ⟨0x3010, 15, 0⟩
def Fld.CORE_SPAD_REMAP_VALID : Fld := ⟨0x700, 63, 63⟩
def Fld.CORE_SPAD_REMAP_ACTIVE : Fld := ⟨0x700, 62, 62⟩
def Fld.CORE_SPAD_REMAP_CODEWORD : Fld := ⟨0x700, 9, 0⟩
def Fld.CORE_SPAD_FLIP_VALID : Fld := ⟨0x640, 15, 15⟩
def Fld.CORE_SPAD_FLIP_INDEX : Fld := ⟨0x640, 14, 8⟩
def Fld.CORE_SPAD_FLIP_PATTERN : Fld := ⟨0x640, 7, 0⟩
def Fld.CORE_SPAD_FLIP_ARM_APPLIED : Fld := ⟨0x680, 15, 8⟩
def Fld.CORE_SPAD_FLIP_ARM_ARM : Fld := ⟨0x680, 7, 0⟩
def Fld.CORE_SPAD_SCRUB_LAST_LAP : Fld := ⟨0x688, 63, 32⟩
def Fld.CORE_SPAD_SCRUB_LAPS : Fld := ⟨0x688, 31, 0⟩
def Fld.COB_FORD_TORUS_Z_SIZE : Fld := ⟨0x700, 20, 16⟩
def Fld.COB_FORD_TORUS_Y_SIZE : Fld := ⟨0x700, 13, 8⟩
def Fld.COB_FORD_TORUS_X_SIZE : Fld := ⟨0x700, 5, 0⟩
def Fld.COB_FORD_DIR_ACTIVE_BANK : Fld := ⟨0x710, 63, 63⟩
def Fld.COB_FORD_DIR_MASK1 : Fld := ⟨0x710, 51, 32⟩
def Fld.COB_FORD_DIR_MASK0 : Fld := ⟨0x710, 19, 0⟩
def Fld.FORD_CTRL_ACCEPT_PEER : Fld := ⟨0x0, 40, 40⟩
def Fld.FORD_CTRL_MARGIN_MIN : Fld := ⟨0x0, 39, 32⟩
def Fld.FORD_CTRL_RETRAIN_DELAY : Fld := ⟨0x0, 23, 16⟩
def Fld.FORD_CTRL_KEEPALIVE_LIMIT : Fld := ⟨0x0, 15, 8⟩
def Fld.FORD_CTRL_FAST_PATH : Fld := ⟨0x0, 2, 2⟩
def Fld.FORD_CTRL_AUTO_RETRAIN : Fld := ⟨0x0, 1, 1⟩
def Fld.FORD_CTRL_ENABLE : Fld := ⟨0x0, 0, 0⟩
def Fld.FORD_STATE_TRAIN_COUNT : Fld := ⟨0x8, 63, 48⟩
def Fld.FORD_STATE_SESSION : Fld := ⟨0x8, 47, 16⟩
def Fld.FORD_STATE_DOWN_REASON : Fld := ⟨0x8, 15, 12⟩
def Fld.FORD_STATE_PHASE : Fld := ⟨0x8, 11, 9⟩
def Fld.FORD_STATE_LANE_GROUP : Fld := ⟨0x8, 8, 8⟩
def Fld.FORD_STATE_WIDTH : Fld := ⟨0x8, 7, 4⟩
def Fld.FORD_STATE_STATE : Fld := ⟨0x8, 3, 0⟩
def Fld.FORD_LANES_ACTIVE : Fld := ⟨0x10, 15, 8⟩
def Fld.FORD_LANES_PASS : Fld := ⟨0x10, 7, 0⟩
def Fld.FORD_MARGIN_LANE : Fld := ⟨0x18, 7, 0⟩
def Fld.FORD_PEER_PEER_VALID : Fld := ⟨0x20, 63, 63⟩
def Fld.FORD_PEER_PROOF_OK : Fld := ⟨0x20, 62, 62⟩
def Fld.FORD_PEER_ID_CHANGED : Fld := ⟨0x20, 61, 61⟩
def Fld.FORD_PEER_KEY_CHANGED : Fld := ⟨0x20, 60, 60⟩
def Fld.FORD_PEER_PEER_PORT : Fld := ⟨0x20, 20, 16⟩
def Fld.FORD_PEER_PEER_ID : Fld := ⟨0x20, 13, 0⟩
def Fld.FORD_PEER_KEY_KEY : Fld := ⟨0x28, 63, 0⟩
def Fld.FORD_LINK_ERR_FEC_CORRECTED : Fld := ⟨0x48, 63, 32⟩
def Fld.FORD_LINK_ERR_FEC_UNCORR : Fld := ⟨0x48, 31, 16⟩
def Fld.FORD_LINK_ERR_CRC_FAIL : Fld := ⟨0x48, 15, 0⟩
def Fld.FORD_RETRY_REPLAYS : Fld := ⟨0x50, 63, 32⟩
def Fld.FORD_RETRY_NAKS : Fld := ⟨0x50, 31, 16⟩
def Fld.FORD_RETRY_DOWN_DISCARDS : Fld := ⟨0x50, 15, 0⟩
def Fld.FORD_DELAY_OFFSET : Fld := ⟨0x58, 63, 32⟩
def Fld.FORD_DELAY_DELAY : Fld := ⟨0x58, 31, 0⟩
def Fld.FORD_SAVED_VALID : Fld := ⟨0x60, 63, 63⟩
def Fld.FORD_SAVED_SAVED_TIME : Fld := ⟨0x60, 62, 0⟩
def Fld.FT_NOW_TIME : Fld := ⟨0x200000, 63, 0⟩
def Fld.FT_SOURCE_SOURCE : Fld := ⟨0x200008, 4, 0⟩
def Fld.FT_STATUS_VALID : Fld := ⟨0x200010, 63, 63⟩
def Fld.FT_STATUS_LOCKED : Fld := ⟨0x200010, 62, 62⟩
def Fld.FT_STATUS_HOLDOVER : Fld := ⟨0x200010, 61, 61⟩
def Fld.FT_STATUS_IN_SPEC : Fld := ⟨0x200010, 60, 60⟩
def Fld.FT_STATUS_ERR_BOUND : Fld := ⟨0x200010, 47, 32⟩
def Fld.FT_STATUS_OFFSET : Fld := ⟨0x200010, 31, 0⟩
def Fld.COB_STEP_NEXT_ARM : Fld := ⟨0x800, 63, 63⟩
def Fld.COB_STEP_NEXT_STEP : Fld := ⟨0x800, 47, 0⟩
def Fld.COB_STEP_START_TICK : Fld := ⟨0x808, 63, 0⟩
def Fld.COB_STEP_CFG_SEAL_OFFSET : Fld := ⟨0x810, 63, 32⟩
def Fld.COB_STEP_CFG_VERDICT_WAIT : Fld := ⟨0x810, 31, 16⟩
def Fld.COB_STEP_CFG_DIGEST_N : Fld := ⟨0x810, 14, 8⟩
def Fld.COB_STEP_CFG_SEAL_BAR : Fld := ⟨0x810, 7, 0⟩
def Fld.COB_STEP_ROOT_ROOT : Fld := ⟨0x818, 13, 0⟩
def Fld.COB_STEP_STATUS_STEP : Fld := ⟨0x820, 63, 16⟩
def Fld.COB_STEP_STATUS_CAUSE : Fld := ⟨0x820, 15, 8⟩
def Fld.COB_STEP_STATUS_STATE : Fld := ⟨0x820, 3, 0⟩
def Fld.COB_STEP_COMMITTED_VALID : Fld := ⟨0x828, 63, 63⟩
def Fld.COB_STEP_COMMITTED_STEP : Fld := ⟨0x828, 47, 0⟩
def Fld.COB_STEP_DECISION_VERDICT : Fld := ⟨0x830, 63, 62⟩
def Fld.COB_STEP_DECISION_STEP : Fld := ⟨0x830, 47, 0⟩
def Fld.COB_STEP_CMD_EXPEL : Fld := ⟨0x838, 2, 2⟩
def Fld.COB_STEP_CMD_FAIL_SEALED : Fld := ⟨0x838, 1, 1⟩
def Fld.COB_STEP_CMD_COMMIT_SEALED : Fld := ⟨0x838, 0, 0⟩
def Fld.COB_STEP_SEALS_FAILS : Fld := ⟨0x840, 63, 48⟩
def Fld.COB_STEP_SEALS_EXCESS : Fld := ⟨0x840, 47, 32⟩
def Fld.COB_STEP_SEALS_COUNT : Fld := ⟨0x840, 14, 0⟩
def Fld.CLU_CONF_RED_SCREEN : Fld := ⟨0xa000, 63, 63⟩
def Fld.CLU_CONF_RED_FWD_SCREEN : Fld := ⟨0xa000, 62, 62⟩
def Fld.CLU_CONF_RED_FACTOR : Fld := ⟨0xa000, 61, 54⟩
def Fld.CLU_CONF_RED_FWD_TAG : Fld := ⟨0xa000, 53, 42⟩
def Fld.CLU_CONF_RED_FWD_CORE : Fld := ⟨0xa000, 41, 28⟩
def Fld.CLU_CONF_RED_FWD_OFFDEV : Fld := ⟨0xa000, 27, 27⟩
def Fld.CLU_CONF_RED_FWD_DEV : Fld := ⟨0xa000, 26, 13⟩
def Fld.FORD_DIGEST_TX_CRC : Fld := ⟨0x80, 63, 0⟩
def Fld.FORD_DIGEST_RX_CRC : Fld := ⟨0x90, 63, 0⟩
def Fld.FORD_DIGEST_STEP_STRAY : Fld := ⟨0xa0, 63, 48⟩
def Fld.FORD_DIGEST_STEP_STEP : Fld := ⟨0xa0, 47, 0⟩
def Fld.FT_EPOCH_CFG_PERIOD : Fld := ⟨0x200018, 16, 0⟩
def Fld.FT_EPOCH_BASE_T0 : Fld := ⟨0x200020, 63, 0⟩
def Fld.FT_EPOCH_CURRENT : Fld := ⟨0x200028, 63, 48⟩
def Fld.FT_EPOCH_COUNT : Fld := ⟨0x200028, 47, 0⟩
def Fld.FT_EPOCH_START_TICK : Fld := ⟨0x200030, 63, 0⟩
def Fld.FT_APPLY_STATUS_OLDEST : Fld := ⟨0x200038, 63, 48⟩
def Fld.FT_APPLY_STATUS_LAGGARDS : Fld := ⟨0x200038, 47, 32⟩
def Fld.HEAL_STATUS_GEOMETRY : Fld := ⟨0x300000, 63, 60⟩
def Fld.HEAL_STATUS_V : Fld := ⟨0x300000, 59, 56⟩
def Fld.HEAL_STATUS_SHIFTING : Fld := ⟨0x300000, 55, 55⟩
def Fld.HEAL_STATUS_SHIFT_WANTED : Fld := ⟨0x300000, 54, 54⟩
def Fld.HEAL_STATUS_LEDGER_LOST : Fld := ⟨0x300000, 53, 53⟩
def Fld.HEAL_STATUS_LEDGER_FULL : Fld := ⟨0x300000, 52, 52⟩
def Fld.HEAL_STATUS_MEM_DEGRADED : Fld := ⟨0x300000, 51, 51⟩
def Fld.HEAL_STATUS_RETEST_PENDING : Fld := ⟨0x300000, 50, 50⟩
def Fld.HEAL_STATUS_SAFE_AT_RESET : Fld := ⟨0x300000, 49, 49⟩
def Fld.HEAL_STATUS_UNHOSTED : Fld := ⟨0x300000, 47, 32⟩
def Fld.HEAL_STATUS_NO_SPARE : Fld := ⟨0x300000, 31, 16⟩
def Fld.HEAL_STATUS_TESTS : Fld := ⟨0x300000, 15, 0⟩
def Fld.HEAL_POLICY_AUTO_FENCE : Fld := ⟨0x300008, 63, 63⟩
def Fld.HEAL_POLICY_AUTO_SHIFT : Fld := ⟨0x300008, 62, 62⟩
def Fld.HEAL_POLICY_TRANSIENT_LIMIT : Fld := ⟨0x300008, 35, 32⟩
def Fld.HEAL_POLICY_TRANSIENT_WINDOW : Fld := ⟨0x300008, 31, 0⟩
def Fld.HEAL_ROT_CFG_ENABLE : Fld := ⟨0x300010, 63, 63⟩
def Fld.HEAL_ROT_CFG_BETWEEN : Fld := ⟨0x300010, 62, 62⟩
def Fld.HEAL_ROT_CFG_IN_STEP : Fld := ⟨0x300010, 61, 61⟩
def Fld.HEAL_ROT_CFG_INTERVAL : Fld := ⟨0x300010, 47, 32⟩
def Fld.HEAL_ROT_CFG_PARALLEL : Fld := ⟨0x300010, 6, 0⟩
def Fld.HEAL_ROT_QUIET_OFFSET : Fld := ⟨0x300018, 63, 32⟩
def Fld.HEAL_ROT_QUIET_LEN : Fld := ⟨0x300018, 31, 0⟩
def Fld.HEAL_ROT_STATUS_SLICES : Fld := ⟨0x300020, 63, 32⟩
def Fld.HEAL_ROT_STATUS_FAILS : Fld := ⟨0x300020, 31, 16⟩
def Fld.HEAL_ROT_STATUS_OVERRUNS : Fld := ⟨0x300020, 15, 0⟩
def Fld.HEAL_CMD_TEST : Fld := ⟨0x300028, 63, 63⟩
def Fld.HEAL_CMD_SHIFT : Fld := ⟨0x300028, 62, 62⟩
def Fld.HEAL_CMD_RETEST : Fld := ⟨0x300028, 61, 61⟩
def Fld.HEAL_CMD_KIND : Fld := ⟨0x300028, 39, 32⟩
def Fld.HEAL_CMD_UNIT : Fld := ⟨0x300028, 31, 0⟩
def Fld.HEAL_TEST_RESULT_VERDICT : Fld := ⟨0x300030, 63, 60⟩
def Fld.HEAL_TEST_RESULT_TEST : Fld := ⟨0x300030, 47, 40⟩
def Fld.HEAL_TEST_RESULT_KIND : Fld := ⟨0x300030, 39, 32⟩
def Fld.HEAL_TEST_RESULT_UNIT : Fld := ⟨0x300030, 31, 0⟩
def Fld.HEAL_TEST_TIME_FABRIC_TIME : Fld := ⟨0x300038, 63, 0⟩
def Fld.HEAL_MAP_CTRL_MAP_EPOCH : Fld := ⟨0x300040, 63, 48⟩
def Fld.HEAL_MAP_CTRL_REQ_EPOCH : Fld := ⟨0x300040, 47, 32⟩
def Fld.HEAL_MAP_CTRL_PENDING : Fld := ⟨0x300040, 9, 9⟩
def Fld.HEAL_MAP_CTRL_ACTIVE_BANK : Fld := ⟨0x300040, 8, 8⟩
def Fld.HEAL_MAP_CTRL_V1 : Fld := ⟨0x300040, 7, 4⟩
def Fld.HEAL_MAP_CTRL_V0 : Fld := ⟨0x300040, 3, 0⟩
def Fld.HEAL_MAP_WRITE_FLIP : Fld := ⟨0x300048, 63, 63⟩
def Fld.HEAL_MAP_WRITE_SET_V : Fld := ⟨0x300048, 62, 62⟩
def Fld.HEAL_MAP_WRITE_SET_G : Fld := ⟨0x300048, 61, 61⟩
def Fld.HEAL_MAP_WRITE_EPOCH : Fld := ⟨0x300048, 60, 45⟩
def Fld.HEAL_MAP_WRITE_V : Fld := ⟨0x300048, 44, 41⟩
def Fld.HEAL_MAP_WRITE_PROW : Fld := ⟨0x300048, 40, 34⟩
def Fld.HEAL_MAP_WRITE_CCOL : Fld := ⟨0x300048, 33, 31⟩
def Fld.HEAL_MAP_WRITE_G : Fld := ⟨0x300048, 30, 26⟩
def Fld.HEAL_LEDGER_FUSE_RECORDS : Fld := ⟨0x300050, 63, 48⟩
def Fld.HEAL_LEDGER_FIELD_RECORDS : Fld := ⟨0x300050, 47, 32⟩
def Fld.HEAL_LEDGER_TRANSIENT_RECORDS : Fld := ⟨0x300050, 31, 16⟩
def Fld.HEAL_LEDGER_GENERATION : Fld := ⟨0x300050, 15, 0⟩
def Fld.HEAL_UNHOSTED_VALID : Fld := ⟨0x300060, 15, 15⟩
def Fld.HEAL_UNHOSTED_ID : Fld := ⟨0x300060, 13, 0⟩
def Fld.HEAL_ROT_DIR_EAST : Fld := ⟨0x300100, 63, 0⟩
def Fld.HEAL_MAP_GAP0_G : Fld := ⟨0x301000, 4, 0⟩
def Fld.HEAL_MAP_GAP1_G : Fld := ⟨0x301800, 4, 0⟩
def Fld.CORE_TEST_STATUS_LAST_VERDICT : Fld := ⟨0x608, 63, 60⟩
def Fld.CORE_TEST_STATUS_NEXT_SECTION : Fld := ⟨0x608, 59, 56⟩
def Fld.CORE_TEST_STATUS_NEXT_BACKGROUND : Fld := ⟨0x608, 55, 54⟩
def Fld.CORE_TEST_STATUS_LAST_TIME : Fld := ⟨0x608, 47, 0⟩
def Fld.COB_BRINGUP_SAFE_CAUSE : Fld := ⟨0x900, 23, 16⟩
def Fld.COB_BRINGUP_BOOT_FAULT : Fld := ⟨0x900, 9, 9⟩
def Fld.COB_BRINGUP_FAST : Fld := ⟨0x900, 8, 8⟩
def Fld.COB_BRINGUP_RESET_KIND : Fld := ⟨0x900, 7, 4⟩
def Fld.COB_BRINGUP_STATE : Fld := ⟨0x900, 3, 0⟩
def Fld.COB_BRINGUP_TIME_ENTRY : Fld := ⟨0x908, 63, 0⟩
def Fld.COB_BRINGUP_DUR_CHECK : Fld := ⟨0x910, 63, 48⟩
def Fld.COB_BRINGUP_DUR_TRAIN : Fld := ⟨0x910, 47, 32⟩
def Fld.COB_BRINGUP_DUR_FILL_TEST : Fld := ⟨0x910, 31, 16⟩
def Fld.COB_BRINGUP_DUR_ROM : Fld := ⟨0x910, 15, 0⟩
def Fld.COB_BRINGUP_CFG_TRAIN_WINDOW : Fld := ⟨0x918, 23, 8⟩
def Fld.COB_BRINGUP_CFG_FILL_MODE : Fld := ⟨0x918, 0, 0⟩
def Fld.COB_XING_STATUS_NOTICES : Fld := ⟨0x920, 63, 48⟩
def Fld.COB_XING_STATUS_DISCARDS : Fld := ⟨0x920, 31, 0⟩
def Fld.COB_TOPO_STATUS_ACCEPTED : Fld := ⟨0x928, 63, 44⟩
def Fld.COB_TOPO_STATUS_FAILED : Fld := ⟨0x928, 43, 24⟩
def Fld.COB_TOPO_STATUS_DIR_EMPTY : Fld := ⟨0x928, 10, 10⟩
def Fld.COB_TOPO_STATUS_TIME_OK : Fld := ⟨0x928, 9, 9⟩
def Fld.COB_TOPO_STATUS_ID_OK : Fld := ⟨0x928, 8, 8⟩
def Fld.COB_TOPO_STATUS_DESC_HELD : Fld := ⟨0x928, 7, 7⟩
def Fld.COB_TOPO_STATUS_RESULT : Fld := ⟨0x928, 3, 0⟩
def Fld.COB_TOPO_PORT_SEEN_PORT : Fld := ⟨0x940, 36, 32⟩
def Fld.COB_TOPO_PORT_SEEN_ID : Fld := ⟨0x940, 29, 16⟩
def Fld.COB_TOPO_PORT_WIDTH : Fld := ⟨0x940, 15, 12⟩
def Fld.COB_TOPO_PORT_STATE : Fld := ⟨0x940, 11, 8⟩
def Fld.COB_TOPO_PORT_ACCEPTED : Fld := ⟨0x940, 4, 4⟩
def Fld.COB_TOPO_PORT_RESULT : Fld := ⟨0x940, 3, 0⟩
def Fld.HANG_CORE_WD_CYCLES : Fld := ⟨0x400000, 31, 0⟩
def Fld.HANG_TIMEOUTS_LIVENESS_LIMIT : Fld := ⟨0x400008, 63, 54⟩
def Fld.HANG_TIMEOUTS_AGE_LIMIT : Fld := ⟨0x400008, 53, 37⟩
def Fld.HANG_TIMEOUTS_WELT_TIMEOUT : Fld := ⟨0x400008, 19, 0⟩
def Fld.HANG_ESCALATE_LIMIT : Fld := ⟨0x400010, 39, 32⟩
def Fld.HANG_ESCALATE_WINDOW : Fld := ⟨0x400010, 31, 0⟩
def Fld.HANG_STATUS_BENCHED : Fld := ⟨0x400018, 63, 63⟩
def Fld.HANG_STATUS_HISTORY_LOST : Fld := ⟨0x400018, 62, 62⟩
def Fld.HANG_STATUS_CAPTURING : Fld := ⟨0x400018, 61, 61⟩
def Fld.HANG_STATUS_IN_WINDOW : Fld := ⟨0x400018, 39, 32⟩
def Fld.HANG_STATUS_LIVENESS_HUNG : Fld := ⟨0x400018, 31, 16⟩
def Fld.HANG_STATUS_WD_EXPIRIES : Fld := ⟨0x400018, 15, 0⟩
def Fld.HANG_CMD_GO : Fld := ⟨0x400020, 63, 63⟩
def Fld.HANG_CMD_CAPTURE_ONLY : Fld := ⟨0x400020, 62, 62⟩
def Fld.HANG_CMD_REINSTATE : Fld := ⟨0x400020, 61, 61⟩
def Fld.HANG_CMD_DOMAIN : Fld := ⟨0x400020, 34, 32⟩
def Fld.HANG_CMD_INDEX : Fld := ⟨0x400020, 31, 0⟩
def Fld.HANG_CAPTURE_CAPTURE_LOST : Fld := ⟨0x400028, 63, 63⟩
def Fld.HANG_CAPTURE_TRUNCATED : Fld := ⟨0x400028, 62, 62⟩
def Fld.HANG_CAPTURE_CAPTURE_LIMIT : Fld := ⟨0x400028, 61, 48⟩
def Fld.HANG_CAPTURE_UNREADABLE : Fld := ⟨0x400028, 47, 32⟩
def Fld.HANG_CAPTURE_CAPTURE_ID : Fld := ⟨0x400028, 31, 0⟩
def Fld.HANG_CAPTURE_TIME_END_TIME : Fld := ⟨0x400030, 63, 0⟩
def Fld.HANG_COB_KICK_KICK : Fld := ⟨0x400038, 0, 0⟩
def Fld.HANG_RESET_TIME_STAMP : Fld := ⟨0x400080, 63, 0⟩
def Fld.HOST_LINK_STATUS_DOWN_COUNT : Fld := ⟨0xb000000, 63, 48⟩
def Fld.HOST_LINK_STATUS_QPS : Fld := ⟨0xb000000, 36, 26⟩
def Fld.HOST_LINK_STATUS_LANE_GROUP : Fld := ⟨0xb000000, 8, 8⟩
def Fld.HOST_LINK_STATUS_WIDTH : Fld := ⟨0xb000000, 7, 4⟩
def Fld.HOST_LINK_STATUS_STATE : Fld := ⟨0xb000000, 3, 0⟩
def Fld.HOST_LINK_CFG_VLAN : Fld := ⟨0xb000008, 15, 4⟩
def Fld.HOST_LINK_CFG_PFC_PRIO : Fld := ⟨0xb000008, 2, 0⟩
def Fld.HOST_PTP_CFG_ASYM_NS : Fld := ⟨0xb000010, 31, 16⟩
def Fld.HOST_PTP_CFG_IPV6 : Fld := ⟨0xb000010, 8, 8⟩
def Fld.HOST_PTP_CFG_DOMAIN : Fld := ⟨0xb000010, 7, 0⟩
def Fld.HOST_CMD_STATS_COMMANDS : Fld := ⟨0xb000018, 63, 32⟩
def Fld.HOST_CMD_STATS_FAILED : Fld := ⟨0xb000018, 31, 16⟩
def Fld.HOST_CMD_STATS_EVENTS_UNSENT : Fld := ⟨0xb000018, 15, 0⟩
def Fld.SEC_ID_FPR_FPR : Fld := ⟨0xd000000, 63, 0⟩
def Fld.SEC_ROLLBACK_BLOW_FAILED : Fld := ⟨0xd000020, 8, 8⟩
def Fld.SEC_ROLLBACK_FUSED : Fld := ⟨0xd000020, 7, 0⟩
def Fld.SEC_FW_MEASURE_DIGEST : Fld := ⟨0xd000028, 63, 0⟩
def Fld.WEIR_BUDGET_FAST_LIMIT : Fld := ⟨0x100000, 31, 16⟩
def Fld.WEIR_BUDGET_BUDGET : Fld := ⟨0x100000, 15, 0⟩
def Fld.WEIR_STATUS_STAGE : Fld := ⟨0x100008, 63, 60⟩
def Fld.WEIR_STATUS_THROTTLED : Fld := ⟨0x100008, 54, 48⟩
def Fld.WEIR_STATUS_TRIPS : Fld := ⟨0x100008, 47, 32⟩
def Fld.WEIR_TELEM_VIN : Fld := ⟨0x100010, 63, 48⟩
def Fld.WEIR_TELEM_IIN : Fld := ⟨0x100010, 47, 32⟩
def Fld.WEIR_TELEM_PIN : Fld := ⟨0x100010, 31, 16⟩
def Fld.WEIR_TELEM_IIN_PEAK : Fld := ⟨0x100010, 15, 0⟩
def Fld.WEIR_THERMAL_HOTTEST : Fld := ⟨0x100018, 63, 57⟩
def Fld.WEIR_THERMAL_JUNCTION : Fld := ⟨0x100018, 56, 48⟩
def Fld.WEIR_THERMAL_INLET : Fld := ⟨0x100018, 47, 40⟩
def Fld.WEIR_THERMAL_OUTLET : Fld := ⟨0x100018, 39, 32⟩
def Fld.WEIR_THERMAL_HBM_MAX : Fld := ⟨0x100018, 31, 24⟩
def Fld.WEIR_THERMAL_CRIT : Fld := ⟨0x100018, 23, 16⟩
def Fld.WEIR_THERMAL_THROTTLE : Fld := ⟨0x100018, 15, 8⟩
def Fld.WEIR_THERMAL_HOT : Fld := ⟨0x100018, 7, 0⟩
def Fld.WEIR_OP_REQ_REQ_EPOCH : Fld := ⟨0x100020, 63, 48⟩
def Fld.WEIR_OP_REQ_FREQ : Fld := ⟨0x100020, 15, 8⟩
def Fld.WEIR_OP_REQ_ARM : Fld := ⟨0x100020, 0, 0⟩
def Fld.WEIR_OP_STATUS_APPLIED_EPOCH : Fld := ⟨0x100028, 63, 48⟩
def Fld.WEIR_OP_STATUS_DEFERRED : Fld := ⟨0x100028, 47, 47⟩
def Fld.WEIR_OP_STATUS_FREQ : Fld := ⟨0x100028, 15, 8⟩
def Fld.WEIR_GRANT_DEMAND : Fld := ⟨0x101000, 63, 48⟩
def Fld.WEIR_GRANT_FLOOR : Fld := ⟨0x101000, 47, 32⟩
def Fld.WEIR_GRANT_GRANT : Fld := ⟨0x101000, 31, 16⟩
def Fld.WEIR_GRANT_THROTTLE : Fld := ⟨0x101000, 15, 12⟩
def Fld.WEIR_GRANT_TEMP : Fld := ⟨0x101000, 8, 0⟩
def Fld.WEIR_AVS_RAISES : Fld := ⟨0x102000, 63, 48⟩
def Fld.WEIR_AVS_VOLT : Fld := ⟨0x102000, 47, 32⟩
def Fld.WEIR_AVS_FLOOR : Fld := ⟨0x102000, 31, 16⟩
def Fld.CLU_CNT_SEL_ENABLE : Fld := ⟨0xb000, 63, 63⟩
def Fld.CLU_CNT_SEL_CODE : Fld := ⟨0xb000, 9, 0⟩
def Fld.CLU_CNT_VAL_OVERFLOW : Fld := ⟨0xb008, 63, 63⟩
def Fld.CLU_CNT_VAL_COUNT : Fld := ⟨0xb008, 47, 0⟩
def Fld.CNT_SEL_ENABLE : Fld := ⟨0xe000000, 63, 63⟩
def Fld.CNT_SEL_FILTER_EN : Fld := ⟨0xe000000, 62, 62⟩
def Fld.CNT_SEL_CODE : Fld := ⟨0xe000000, 57, 48⟩
def Fld.CNT_SEL_FILTER_KIND : Fld := ⟨0xe000000, 47, 40⟩
def Fld.CNT_SEL_FILTER_UNIT : Fld := ⟨0xe000000, 31, 0⟩
def Fld.CNT_VAL_OVERFLOW : Fld := ⟨0xe000008, 63, 63⟩
def Fld.CNT_VAL_COUNT : Fld := ⟨0xe000008, 47, 0⟩
def Fld.CNT_CTRL_SETTLED : Fld := ⟨0xe001000, 63, 63⟩
def Fld.CNT_CTRL_COUNTING : Fld := ⟨0xe001000, 62, 62⟩
def Fld.CNT_CTRL_CLEAR : Fld := ⟨0xe001000, 2, 2⟩
def Fld.CNT_CTRL_WINDOWED : Fld := ⟨0xe001000, 1, 1⟩
def Fld.CNT_CTRL_ARM : Fld := ⟨0xe001000, 0, 0⟩
def Fld.CNT_START_TICK : Fld := ⟨0xe001008, 63, 0⟩
def Fld.CNT_FREEZE_TICK : Fld := ⟨0xe001010, 63, 0⟩
def Fld.CKS_STATUS_LOG_OVERWRITTEN : Fld := ⟨0xc000000, 63, 48⟩
def Fld.CKS_STATUS_LOG_LOST : Fld := ⟨0xc000000, 47, 32⟩
def Fld.CKS_STATUS_FREE_GB : Fld := ⟨0xc000000, 31, 8⟩
def Fld.CKS_STATUS_STATE : Fld := ⟨0xc000000, 3, 0⟩
def Fld.CKS_WEAR_LIFE_USED : Fld := ⟨0xc000008, 63, 56⟩
def Fld.CKS_WEAR_MEAN_ERASE : Fld := ⟨0xc000008, 55, 44⟩
def Fld.CKS_WEAR_MAX_ERASE : Fld := ⟨0xc000008, 43, 32⟩
def Fld.CKS_WEAR_SPARE : Fld := ⟨0xc000008, 31, 16⟩
def Fld.CKS_WEAR_RETIRED : Fld := ⟨0xc000008, 15, 0⟩
def Fld.CKS_RETENTION_BACKLOG : Fld := ⟨0xc000010, 63, 32⟩
def Fld.CKS_RETENTION_OLDEST : Fld := ⟨0xc000010, 31, 16⟩
def Fld.CKS_RETENTION_HORIZON : Fld := ⟨0xc000010, 15, 0⟩
def Fld.CKS_RING_BASE_BASE : Fld := ⟨0xc000018, 47, 6⟩
def Fld.CKS_RING_BASE_SIZE_LOG2 : Fld := ⟨0xc000018, 3, 0⟩
def Fld.CKS_RING_CTRL_ENABLE : Fld := ⟨0xc000020, 63, 63⟩
def Fld.CKS_RING_CTRL_HEAD : Fld := ⟨0xc000020, 31, 16⟩
def Fld.CKS_RING_CTRL_TAIL : Fld := ⟨0xc000020, 15, 0⟩
def Fld.CKS_CQ_BASE_BASE : Fld := ⟨0xc000028, 47, 5⟩
def Fld.CKS_CQ_BASE_SIZE_LOG2 : Fld := ⟨0xc000028, 4, 0⟩
def Fld.CKS_CQ_PTR_WRITE : Fld := ⟨0xc000030, 31, 16⟩
def Fld.CKS_CQ_PTR_READ : Fld := ⟨0xc000030, 15, 0⟩

end Sys2Proof.Machine
end

