-- ==== Sys2Proof/Machine/Map.lean ====
section
/-!
DEFINITION. Sparse maps in one canonical form (rising keys, no entry equal to what an unlisted key reads as), and the
bit-field, byte-order and sign helpers of the model.
-/
namespace Sys2Proof

/-- What key `k` reads as: `d` where it is not listed. -/
def NMap.get {α : Type} (d : α) : NMap α → Nat → α
  | [], _ => d
  | (i, x) :: m, k => if i = k then x else NMap.get d m k

/-- `m` without key `k`. -/
def NMap.del {α : Type} : NMap α → Nat → NMap α
  | [], _ => []
  | (i, x) :: m, k => if i = k then NMap.del m k else (i, x) :: NMap.del m k

/-- `m` with `k` listed as `v`, keys rising. -/
def NMap.put {α : Type} : NMap α → Nat → α → NMap α
  | [], k, v => [(k, v)]
  | (i, x) :: m, k, v =>
    if k < i then (k, v) :: (i, x) :: m else if i = k then (k, v) :: m else (i, x) :: NMap.put m k v

/-- Write `v` at `k`; writing the default removes the entry. -/
def NMap.set {α : Type} [DecidableEq α] (d : α) (m : NMap α) (k : Nat) (v : α) : NMap α :=
  if v = d then NMap.del m k else NMap.put m k v

/-- The canonical form: keys rise strictly and no entry holds the default. -/
def NMap.wf {α : Type} [DecidableEq α] (d : α) : NMap α → Bool
  | [] => true
  | [(_, x)] => decide (x ≠ d)
  | (i, x) :: (j, y) :: m => decide (x ≠ d) && decide (i < j) && NMap.wf d ((j, y) :: m)

namespace Machine

/-- Bits [hi:lo] of a word as a number. -/
def bits {w : Nat} (x : BitVec w) (hi lo : Nat) : Nat := x.toNat / 2 ^ lo % 2 ^ (hi + 1 - lo)

/-- Bit `i` of a word. -/
def bit {w : Nat} (x : BitVec w) (i : Nat) : Bool := x.getLsbD i

/-- Bit `i` of a number. -/
def nbit (x i : Nat) : Bool := x.testBit i

/-- `x` with bits [hi:lo] replaced by the low bits of `v`. -/
def putBits (x : Word) (hi lo v : Nat) : Word :=
  let m : Nat := (2 ^ (hi + 1 - lo) - 1) * 2 ^ lo
  (x &&& ~~~(BitVec.ofNat 64 m)) ||| (BitVec.ofNat 64 (v * 2 ^ lo) &&& BitVec.ofNat 64 m)

/-- 1 for true, 0 for false. -/
def b2n (b : Bool) : Nat := if b then 1 else 0

/-- The two's complement value of the low `w` bits of `x`. -/
def signed (w x : Nat) : Int := if x % 2 ^ w ≥ 2 ^ (w - 1) then (x % 2 ^ w : Int) - 2 ^ w else (x % 2 ^ w : Int)

/-- The low `w` bits of an integer. -/
def wrap (w : Nat) (x : Int) : Nat := (x % 2 ^ w).toNat

/-- `n` bytes of `x`, lowest first (little-endian). -/
def leBytes : Nat → Nat → List Byte
  | 0, _ => []
  | n + 1, x => BitVec.ofNat 8 x :: leBytes n (x / 256)

/-- The number that bytes, lowest first, spell. -/
def ofBytes : List Byte → Nat
  | [] => 0
  | b :: bs => b.toNat + 256 * ofBytes bs

/-- `n` items of a list from position `i`. -/
def slice {α : Type} (l : List α) (i n : Nat) : List α := (l.drop i).take n

/-- Item `i` of a list of bytes, 0 past its end. -/
def byteAt (l : List Byte) (i : Nat) : Nat := (l.getD i 0).toNat

/-- ⌈a / b⌉. -/
def ceilDiv (a b : Nat) : Nat := (a + b - 1) / b

/-- The list split in runs of `n` (at most `fuel` runs). -/
def chunks {α : Type} (n : Nat) : Nat → List α → List (List α)
  | 0, _ => []
  | fuel + 1, l => if l.isEmpty then [] else l.take n :: chunks n fuel (l.drop n)

/-- The first item of a list that satisfies `p`, taken out. -/
def takeFirst {α : Type} (p : α → Bool) : List α → Option (α × List α)
  | [] => none
  | x :: l => if p x then some (x, l) else (takeFirst p l).map fun r => (r.1, x :: r.2)

end Machine
end Sys2Proof
end

