-- ==== Sys2Proof/Machine/Hash.lean ====
section
/-!
DEFINITION. Check values: the CRC-32 of IEEE 802.3 (02 R68), the CRC-64 of shard and port digests (10 R327, R328), and SHA-256 (13
R400, 14 R426), and RSA signatures (14 R430).
-/
namespace Sys2Proof.Machine

/-! ### CRC -/

/-- One bit of the reflected CRC-32. -/
def crc32Bit (x : BitVec 32) : BitVec 32 := if x.getLsbD 0 then (x >>> 1) ^^^ 0xEDB88320 else x >>> 1
def crc32Byte (x : BitVec 32) (b : Byte) : BitVec 32 :=
  (List.range 8).foldl (fun x _ => crc32Bit x) (x ^^^ b.setWidth 32)
/-- CRC-32 with the IEEE 802.3 polynomial. -/
def crc32 (bs : List Byte) : Nat := (~~~(bs.foldl crc32Byte 0xFFFFFFFF)).toNat

/-- One byte of a CRC-64, most significant bit first. -/
def crc64Byte (poly x : BitVec 64) (b : Byte) : BitVec 64 :=
  (List.range 8).foldl (fun x _ => if x.getLsbD 63 then (x <<< 1) ^^^ poly else x <<< 1) (x ^^^ (b.setWidth 64 <<< 56))
/-- The register of a CRC-64 after more bytes; it starts with all ones. -/
def crc64Run (poly x : BitVec 64) (bs : List Byte) : BitVec 64 := bs.foldl (crc64Byte poly) x
/-- A CRC-64 with initial value and final XOR all ones. -/
def crc64 (poly : BitVec 64) (bs : List Byte) : BitVec 64 := ~~~(crc64Run poly 0xFFFFFFFFFFFFFFFF bs)
def polyEcma : BitVec 64 := 0x42F0E1EBA9EA3693
def polyIso : BitVec 64 := 0x1B

/-! ### SHA-256

Its constants come from the primes as FIPS 180-4 defines them, and a block's working words are kept as two histories: every word
that entered the chain a–d and every word that entered the chain e–h, newest first. -/

/-- The largest x below 2^n + lo with x^k ≤ y, found bit by bit from the top. -/
def rootFrom (k y : Nat) : Nat → Nat → Nat
  | 0, lo => lo
  | n + 1, lo => rootFrom k y n (if (lo + 2 ^ n) ^ k ≤ y then lo + 2 ^ n else lo)

/-- The first `n` primes, tried from `m` up with the ones found before. -/
def primesFrom : Nat → Nat → List Nat → List Nat
  | 0, _, found => found
  | fuel + 1, m, found => primesFrom fuel (m + 1) (if found.all fun p => m % p != 0 then found ++ [m] else found)

/-- The first 32 fractional bits of the k-th root of p. -/
def rootFraction (k p : Nat) : BitVec 32 := BitVec.ofNat 32 (rootFrom k (p * 2 ^ (32 * k)) 40 0)

/-- The 64 round constants: cube roots of the primes up to 311. -/
def roundKeys : List (BitVec 32) := (primesFrom 310 2 []).map (rootFraction 3)
/-- The initial chains: square roots of the first eight primes. -/
def chainStart : List (BitVec 32) := (primesFrom 18 2 []).map (rootFraction 2)

/-- The exclusive or of two rotations of a word and a third word. -/
def twist (i j : Nat) (third x : BitVec 32) : BitVec 32 := third ^^^ x.rotateRight i ^^^ x.rotateRight j

/-- The message words of a block, newest first: each later one from those 2, 7, 15 and 16 places before it. -/
def extendWords : Nat → List (BitVec 32) → List (BitVec 32)
  | 0, ws => ws
  | n + 1, ws =>
    let back := fun (i : Nat) => ws.getD (i - 1) 0
    extendWords n ((back 16 + back 7 + twist 7 18 (back 15 >>> 3) (back 15) + twist 17 19 (back 2 >>> 10) (back 2)) :: ws)

/-- One round: the message word with its key enters both chains. -/
def chainRound (c : List (BitVec 32) × List (BitVec 32)) (kw : BitVec 32) : List (BitVec 32) × List (BitVec 32) :=
  let up := fun (i : Nat) => c.1.getD i 0
  let dn := fun (i : Nat) => c.2.getD i 0
  let chosen := dn 2 ^^^ (dn 0 &&& (dn 1 ^^^ dn 2))
  let most := (up 0 &&& (up 1 ||| up 2)) ||| (up 1 &&& up 2)
  let t := kw + dn 3 + chosen + twist 6 11 ((dn 0).rotateRight 25) (dn 0)
  ((t + most + twist 2 13 ((up 0).rotateRight 22) (up 0)) :: c.1, (up 3 + t) :: c.2)

/-- The chaining value after one block of 64 bytes. -/
def hashBlock (h : List (BitVec 32)) (block : List Byte) : List (BitVec 32) :=
  let ws := (chunks 4 16 block).foldl (fun ws bs => BitVec.ofNat 32 (ofBytes bs.reverse) :: ws) []
  let e := (roundKeys.zip (extendWords 48 ws).reverse).foldl (fun c x => chainRound c (x.1 + x.2)) (h.take 4, h.drop 4)
  h.zipWith (· + ·) (e.1.take 4 ++ e.2.take 4)

/-- The SHA-256 of a byte string, 32 bytes: one bit set, zeros, and the length in bits up to a whole block. -/
def sha256 (bs : List Byte) : List Byte :=
  let blocks := ceilDiv (bs.length + 9) 64
  let tail := 0x80 :: List.replicate (64 * blocks - 9 - bs.length) 0 ++ (leBytes 8 (8 * bs.length)).reverse
  ((chunks 64 blocks (bs ++ tail)).foldl hashBlock chainStart).flatMap fun x => (leBytes 4 x.toNat).reverse

/-! ### RSASSA-PKCS1-v1_5 with SHA-256 (14 R426, R430) -/

/-- Bytes as a number, the first one most significant. -/
def ofBytesBE (bs : List Byte) : Nat := bs.foldl (fun a b => a * 256 + b.toNat) 0

/-- x to the power 65,537 modulo n: sixteen squarings, and x once more. -/
def pow65537 (n x : Nat) : Nat := (List.range 16).foldl (fun y _ => y * y % n) x * x % n

/-- What the scheme encodes for a SHA-256 digest in 384 bytes; its 19 bytes that name the hash are those of the scheme's own text, which
the manual names and does not print (PRESUMED, log 110). -/
def pkcs1Block (digest : List Byte) : List Byte :=
  [0, 1] ++ List.replicate 330 0xFF ++
  [0, 0x30, 0x31, 0x30, 0x0D, 0x06, 0x09, 0x60, 0x86, 0x48, 0x01, 0x65, 0x03, 0x04, 0x02, 0x01, 0x05, 0x00, 0x04, 0x20] ++ digest

/-- A 384-byte signature verifies for a digest under a modulus. -/
def rsaVerify (modulus digest sig : List Byte) : Bool :=
  let n := ofBytesBE modulus
  let s := ofBytesBE sig
  sig.length == 384 && decide (s < n) && pow65537 n s == ofBytesBE (pkcs1Block digest)

end Sys2Proof.Machine
end

