-- ==== Sys2Proof/Machine/State.lean ====
section
/-!
DEFINITION. The state of the block as plain data: the device register space, 14,144 cores (a silicon part and the
logical core each hosts), gateways, routers, memory controllers, Ford ports, memory, the map, steps, epochs, healing,
capture, Cobbler, the host port, the Checkpoint Store, the Weir and the power stage; and the queue of waiting commands.
A sparse map (`NMap`) lists the keys that do not read as their default.
-/
namespace Sys2Proof.Machine

/-! ### A core -/

/-- The core states (02 R35, Table — Core states). -/
inductive CState where
  | empty | loading | loaded | running | done | faulted | hung | underTest | offline
deriving DecidableEq, Repr

/-- An accumulator tile a0–a3: its kind (R97), saturation mark (R122), clear count and first-clear mark of the step
(R130), group additions since the last clear (R130), and the 512 elements at index 32r + c. -/
structure Tile where
  isInt   : Bool := false
  sat     : Bool := false
  clears  : Nat := 0
  cleared : Bool := false
  groups  : Nat := 0
  elems   : NMap Lane := []
deriving DecidableEq, Repr

/-- The source a stream counter is bound to (02 Table — Stream counter sources); `q` is 8 × link + stream. -/
inductive Bind where
  | unbound | inS (q : Nat) | outS (q : Nat) | mq (k : Nat)
deriving DecidableEq, Repr

/-- An active hardware loop: its counter, first and last instruction of its body (R46, R82). -/
structure Loop where
  k     : Nat
  start : Nat
  stop  : Nat
deriving DecidableEq, Repr

/-- A word in an inbound stitch queue and the outputs that have taken it: bit 0 LOCAL, 1 N, 2 E, 3 S, 4 W (R181); of a word in the
spill ring, the stored symbols in error of its codeword (R262, R266). -/
structure SWord where
  w     : StitchWord
  taken : Nat := 0
  errs  : List (Nat × Nat) := []
deriving DecidableEq, Repr

/-- An inbound stitch stream: queue of at most 8, spill segment, allowance S, arrival generation A (R180, R187, R197), whether
a spill is moving its queue and the fabric time it began. -/
structure InQ where
  q     : List SWord := []
  seg   : List SWord := []
  allow : Nat := 0
  agen  : Nat := 0
  spill : Bool := false
  spillAt : Nat := 0
deriving DecidableEq, Repr

/-- An outbound stitch stream: credits, generation, and the completion tags of seals that wait for a credit (R103, R184, R186). -/
structure OutQ where
  credits : Nat := 8
  gen     : Nat := 0
  wait    : List Nat := []
deriving DecidableEq, Repr

/-- A register an instruction writes (R40 (c)): scalar, vector, predicate, accumulator tile. -/
inductive Reg where
  | s (n : Nat) | v (n : Nat) | p (n : Nat) | a (n : Nat)
deriving DecidableEq, Repr

/-- What a class VR instruction does when it executes: write a register, or send a word on an outbound stream (R77). -/
inductive RegW where
  | s (n : Nat) (x : Word) | v (n : Nat) (x : Line) | p (n : Nat) (x : BitVec 16) | send (q : Nat) (x : Line)
deriving DecidableEq, Repr

/-- An instruction in the vector or matrix unit (R41), with what it captured at issue: its word, pc, completion tag
(none for class VR), the values of s[SD], s[SA], s[SB], s[SN], s[SX] (or A, B, K, SM of class M), the step number,
its region's COB_NUM_REGION value, the numerics level, and a class VR result waiting for the unit. -/
structure UOp where
  w     : Word
  pc    : Nat
  tag   : Option Nat := none
  d     : Word := 0
  a     : Word := 0
  b     : Word := 0
  n     : Word := 0
  x     : Word := 0
  step  : Nat := 0
  num   : Word := 0
  level : Nat := 1
  wr    : List RegW := []
deriving DecidableEq, Repr

/-- What an operation outside the vector and matrix units does on its answer (classes A and G). -/
inductive OpKind where
  | load (dst : Nat) (isV sx : Bool) (size : Nat)
  | store | msg | conf | flagSet
  | flagWait (core flag : Nat) (v : Word)
  | bar (id : Nat)
  | seals
  | verdict
  | verdictRead (core flag : Nat)
deriving DecidableEq, Repr

/-- A class A or G operation in flight (R43): tag, issuing pc, packets still to inject, injected packets with the
answers each still awaits, packets answered BUSY, the transactions of units sent again and not answered, the status so far, the first
error reason, the address of a remote access, and the scratchpad offset of an uncorrectable codeword met by the sending gateway
(R237). Its packets name logical cores and spans; the gateway translates them as it injects (R22). -/
structure Op where
  tag    : Nat
  pc     : Nat
  kind   : OpKind
  todo   : List Packet := []
  out    : List (Packet × Nat) := []
  busy   : List Packet := []
  again  : List Nat := []
  st     : Nat := 0
  reason : Nat := 0
  addr   : Nat := 0
  ue     : Option Nat := none
deriving DecidableEq, Repr

/-- A scratchpad move of a stream instruction in progress: bytes [lo, hi) and whether it writes them (R87). -/
structure Move where
  lo     : Nat
  hi     : Nat
  writes : Bool
deriving DecidableEq, Repr

/-- An image load in progress: TOTAL and CRC-32 of its first packet and the instructions received (R68, R253). -/
structure Load where
  total : Nat
  crc   : Nat
  got   : Nat := 0
deriving DecidableEq, Repr

/-- The logical core: everything that moves when its state moves (R201, R234, R349, R475). -/
structure LCore where
  state  : CState := .empty
  s      : NMap Word := []
  v      : NMap Line := []
  p      : NMap (BitVec 16) := []
  lc     : NMap Nat := []
  loops  : List Loop := []
  sc     : NMap Bind := []
  pc     : Nat := 0
  ctPend : Nat := 0
  ctStat : NMap Nat := []
  tiles  : NMap Tile := []
  imem   : NMap Word := []
  badPar : List Nat := []
  load   : Option Load := none
  step   : Nat := 0
  spad   : NMap Byte := []
  mq     : NMap (List Line) := []
  vu     : List UOp := []
  mu     : List UOp := []
  ops    : List Op := []
  moves  : List Move := []
  inq    : NMap InQ := []
  outq   : NMap OutQ := []
  probe  : Option Nat := none
  verdict : Option Word := none
  regs   : NMap Word := []
deriving DecidableEq, Repr

/-- The silicon of a physical core: what stays when the logical core moves (R475). `errs` lists the stored symbols in
error of each scratchpad codeword as (position, pattern) (R260, R262), `fold` the fold it was encoded with where that is another
codeword's (R261), `reach` the faults of the bank's decoders: the XOR of a codeword's index and the one an access to it meets (R262); `fails` counts failed checks of the word awaited
on each inbound link and `dead` holds the links that forward no word any more (R176, R177); `tx` keeps the last 8 words
per outbound link (R176); `lane` holds probes, with their links, that the router has not passed on (R194); `pcHeld` is the PC when the core last left RUNNING (R477); `scrub`, `lapAt`, `laps` are each bank's scrub position, start of the lap and last lap (R269, R270);
`moving` stands while the state of its new logical core is on its way (R349); `eccAt` is CORRECTED at its last slice (R354). -/
structure Silicon where
  stall   : Nat := 0
  pcHeld  : Nat := 0
  block   : Nat := 0
  blocked : Bool := false
  epochIn : Nat := 0
  powered : Nat := 0xFF
  waking  : Option Nat := none
  errs    : NMap (List (Nat × Nat)) := []
  fold    : NMap (Option Nat) := []
  reach   : NMap Nat := []
  tx      : NMap (List StitchWord) := []
  txSeq   : NMap Nat := []
  awaits  : NMap (Option Nat) := []
  lane    : List (Nat × Probe) := []
  fails   : NMap Nat := []
  dead    : Nat := 0
  scrub   : NMap Nat := []
  lapAt   : NMap Nat := []
  laps    : NMap Nat := []
  testing : Bool := false
  fenced  : Bool := false
  moving  : Bool := false
  eccAt   : Nat := 0
  regs    : NMap Word := []
deriving DecidableEq, Repr

structure Core where
  log : LCore := {}
  sil : Silicon := {}
deriving DecidableEq, Repr

/-! ### Gateways, routers -/

/-- A barrier entry of a gateway (07 R235). -/
structure Bar where
  valid   : Bool := false
  members : Nat := 0
  root    : Nat := 0
  awaits  : Nat := 0
  colSpan : Option (Nat × Nat) := none
  rowSpan : Option (Nat × Nat) := none
  entered : Nat := 0
  arrived : Nat := 0
deriving DecidableEq, Repr

/-- A block of a confluence entry (R238–R240): sum, residue, flag byte, count, whether delivered (1 with its full count, 2 at
the deadline), the source a forward keeps (R309), and the recorded norms (R312). -/
structure ConfBlock where
  sum    : List Int := []
  resid  : Nat := 0
  flags  : Nat := 0
  count  : Nat := 0
  done   : Nat := 0
  src    : Option (Bool × Nat × Nat) := none
  norms  : List (Nat × Nat × Nat) := []
deriving DecidableEq, Repr

/-- A confluence entry beyond its registers: blocks of the step, delivery writes that wait for a waking bank as (core, block,
offset, bytes), delivery posts that wait as (core, entry) (R241), blocks delivered short, and the step's start tick. -/
structure Conf where
  blocks : NMap ConfBlock := []
  writes : List (Nat × Nat × Nat × List Byte) := []
  posts  : List (Nat × Line) := []
  shortN : Nat := 0
  start  : Nat := 0
deriving DecidableEq, Repr

/-- A cluster gateway: flags, barriers, confluence entries, forwarded blocks that await their answer or wait after BUSY, each with
its entry (R231, R309), and cores reported to its Eddy watcher. -/
structure Gateway where
  flags  : NMap Word := []
  bars   : NMap Bar := []
  conf   : NMap Conf := []
  fwd    : List (Nat × Packet) := []
  fwdBusy : List (Nat × Packet) := []
  probes : List Nat := []
deriving DecidableEq, Repr

/-- A packet at a holding point with the fabric time (ns) and order of its arrival (R209, R390). -/
structure QPkt where
  p  : Packet
  at_ : Nat
deriving DecidableEq, Repr

/-- A merge entry: the node, device and TXN of the two inputs (R224). -/
structure Merge where
  ins : List (Nat × Nat × Nat)
deriving DecidableEq, Repr

/-- How a packet enters its router: as it stands, stamped as its node's own, or stamped but for its step, which a forwarded block
keeps (R211, R309). -/
inductive Entry where
  | asIs | own | ownStep
deriving DecidableEq, Repr

/-- A Race router: queues by 2 × input port + VC (ports 0 local, 1 A, 2 B, 3 N, 4 E, 5 S, 6 W), the packets under way to each of
them, the last packets sent on each output that make up 18 flits, merge entries, failed checks per input link and the packet
whose replay each link awaits (R208, R210, R224). -/
structure Router where
  q      : NMap (List QPkt) := []
  fly    : NMap (List Packet) := []
  tx     : NMap (List Packet) := []
  merges : NMap (Option Merge) := []
  fails  : NMap Nat := []
  awaits : NMap (Option Packet) := []
deriving DecidableEq, Repr

/-! ### Memory controllers and Welt engines -/

/-- A Welt descriptor started and not completed: ring, HEAD count, its 64 bytes, the fabric time it started, whether its
operation has run, its status, reason, bytes moved, edge seals done, and the fabric time since which a request of it has been out
(08 R249–R258). -/
structure Desc where
  ring   : Nat
  index  : Nat
  bytes  : List Byte
  at_    : Nat
  ran    : Bool := false
  status : Nat := 0
  reason : Nat := 0
  moved  : Nat := 0
  seals  : Nat := 0
  asked  : Option Nat := none
deriving DecidableEq, Repr

/-- An edge stream of an HBM engine: words taken in, credits and generation (R254, R255), by 8 × edge link + stream. -/
structure Edge where
  inq     : List StitchWord := []
  agen    : Nat := 0
  credits : Nat := 8
  gen     : Nat := 0
deriving DecidableEq, Repr

/-- A memory controller with its Welt engine: started descriptors, the flip list (10 R327), edge streams, the last words sent
per edge link and the next SEQ (R176), REPEAT rings running a pass, scrub position and the start of the lap (R269), whether the lap is
reported slow (R270), blocks whose last read needed correction (R263), the fabric time a fill started, saved training settings
(12 R370), whether a failed self-refresh has lost the contents (R268), the rings that firmware enabled (12 R383), and two faults of the
silicon that no command writes: how the stack answers the reads to come (on-die ECC status or a parity failure, R244) and whether it
fails to keep its contents in self-refresh. -/
structure MemCtl where
  descs   : List Desc := []
  flips   : List Nat := []
  edges   : NMap Edge := []
  edgeTx  : NMap (List StitchWord) := []
  edgeSeq : NMap Nat := []
  passing : Nat := 0
  scrub   : Nat := 0
  lapAt   : Nat := 0
  slow    : Bool := false
  suspect : List Nat := []
  fillAt  : Nat := 0
  saved   : Bool := false
  lost    : Bool := false
  fwRings : Nat := 0
  dram    : List Nat := []
  noRefresh : Bool := false
deriving DecidableEq, Repr

/-! ### Ford ports -/

/-- A recorded peer: device id, port, fingerprint, and the direction 0–5 the descriptor gives the port, else 6 (09 R293; 12 R381). -/
structure Peer where
  devId : Nat
  port  : Nat
  key   : List Byte
  dir   : Nat := 6
deriving DecidableEq, Repr

/-- A Ford port beyond its registers: next SEQ, last good SEQ, NAK (1 to send, 2 sent and waiting for the replay), retry buffer of
FKIND 0 frames, resends of its oldest, frames to resend, credits held and credits to return by 2 × VC + class, receive pools,
transmit queues, the packet being sent and the one being received (pool, flits left, packet), link control slots to send,
recorded peer, the peer seen, exchanges, keepalives, times (R278–R299). -/
structure Port where
  seq     : Nat := 0
  ack     : Nat := 0xFFFF
  nak     : Nat := 0
  retry   : List Frame := []
  resent  : Nat := 0
  replay  : List Frame := []
  credits : NMap Nat := []
  give    : NMap Nat := []
  pools   : NMap (List QPkt) := []
  tx      : NMap (List QPkt) := []
  txPart  : Option (Nat × Nat × Packet) := none
  part    : Option (Nat × Nat × Packet) := none
  phaseAt : Nat := 0
  ctrl    : List Slot := []
  unlocked : Nat := 0
  nonce   : List Byte := []
  peer    : Option Peer := none
  seen    : Option Ident := none
  exch    : Nat := 0
  pend    : NMap Nat := []
  delays  : List Int := []
  keepTx  : Nat := 0
  keepAt  : Nat := 0
  ackAt   : Nat := 0
  downAt  : Nat := 0
  changed : Bool := false
  expelled : Bool := false
  merges  : NMap (Option Merge) := []
deriving DecidableEq, Repr

/-! ### The map, steps, healing, capture -/

/-- One bank of the map: gap offsets G by segment index prow × 8 + pccol where not 16, and V (01 R19, R20). -/
structure MapBank where
  gaps : NMap Nat := []
  v    : Nat := 12
deriving DecidableEq, Repr

/-- The map's two banks, the active one, a flip scheduled (epoch), the unhosted logical cores, and the logical cores whose
state does not move at the flip (R22, R348, R352, R364). -/
structure Map where
  bank0  : MapBank := {}
  bank1  : MapBank := {}
  active : Bool := false
  flip   : Option Nat := none
  noMove : List Nat := []
  unhosted : List Nat := []
  last   : Nat := 0
deriving DecidableEq, Repr

/-- A targeted test waiting or begun: unit kind, index and sub-index, fabric time and code of the error, the TEST code of its records,
whether the routing tables have been set to flip around the unit, in place (11 R335, R343–R351). -/
structure Test where
  kind    : Nat
  unit    : Nat
  sub     : Nat := 0
  at_     : Nat
  code    : Nat := 0
  test    : Nat := 4
  avoid   : Bool := false
  inPlace : Bool := false
  begun   : Bool := false
deriving DecidableEq, Repr

/-- A rotation slice: its core, the fabric time of its tick and whether it still hands off (R354–R356). -/
structure Slice where
  core  : Nat
  at_   : Nat
  moved : Bool
deriving DecidableEq, Repr

/-- A live row shift in progress: the exhausted row, its phase (1 waits for e1, 2 drains, 3 tests the reserve row, 4 waits for the
ledger, 5 waits for e2), the failed core and the fabric time it started (R357). -/
structure Shift where
  row   : Nat
  phase : Nat
  lost  : Option Nat
  since : Nat
deriving DecidableEq, Repr

/-- The logic BIST of a unit: its pattern generator and its MISR, as its last section left them (R340). -/
structure Bist where
  gen  : BitVec 61 := 0
  misr : Word := 0
deriving DecidableEq, Repr

/-- A ledger generation in the Checkpoint Store with the DIGEST it was written with (R336). -/
structure Ledger where
  gen       : Nat
  written   : Nat
  field     : List Defect
  transient : List Defect
  retest    : Bool
  digest    : List Byte
deriving DecidableEq, Repr

/-- Healing beyond its registers: field and transient records, whether they differ from the stored generation, RETEST_PENDING, faults
found with the field section full, the stored generations, each unit's BIST by kind × 2^16 + unit, the next march background of a
gateway and its router, tests, slices, a physical cluster row that wants a shift with the core that failed, the shift that runs, the
next segment of the round robin, and 256 × the epoch count of the present slice epoch + its slices (R335–R357). -/
structure Heal where
  field     : List Defect := []
  transient : List Defect := []
  dirty     : Bool := false
  retest    : Bool := false
  unwritten : List Defect := []
  ledgers   : List Ledger := []
  bist      : NMap Bist := []
  background : NMap Nat := []
  tests     : List Test := []
  slices    : List Slice := []
  want      : Option (Nat × Option Nat) := none
  shift     : Option Shift := none
  next      : Nat := 0
  begun     : Nat := 0
deriving DecidableEq, Repr

/-- What a step report says of its step beside the Sluice entries (R334): its number, final state, cause and END_TIME; its spills as
(logical core, 8 × link + stream, words, allowance, start), blocks short, PLAUSIBILITY, NONFINITE_CONTRIB and adder events. -/
structure StepDue where
  step   : Nat
  state  : Nat
  cause  : Nat
  endAt  : Nat
  spills : List (Nat × Nat × Nat × Nat × Nat)
  shorts : Nat
  plaus  : Nat
  nonfin : Nat
  adders : Nat
deriving DecidableEq, Repr

/-- A step that a new one overtook while it was SEALED or COMMITTING (R316): its report, whether a COMMIT verdict is registered, and the
flips each engine has still to write. -/
structure Late where
  due   : StepDue
  go    : Bool
  flips : NMap (List Nat)
deriving DecidableEq, Repr

/-- The step beyond its registers (10 R315–R334): the step number in force at every unit, the seal barrier's release, own seal sent,
own failing seal sent, first verdict registered, sealing time, the start tick, an overtaken step (R316), reports due, no verdict
reported, and the counts that the step's report will carry (as in StepDue). -/
structure StepSt where
  inForce  : Nat := 0
  barDone  : Bool := false
  sealedAt : Nat := 0
  sent     : Bool := false
  failSent : Bool := false
  acted    : Bool := false
  start    : Nat := 0
  late     : Option Late := none
  due      : List StepDue := []
  undecided : Bool := false
  spills   : List (Nat × Nat × Nat × Nat × Nat) := []
  shorts   : Nat := 0
  plaus    : Nat := 0
  nonfin   : Nat := 0
  adders   : Nat := 0
deriving DecidableEq, Repr

/-- An event record (13 R394, Table — Event record): code, unit kind, region, unit, logical id, pc, id kind, id, time,
step, epoch, DETAIL bytes. -/
structure Event where
  code   : Nat
  kind   : Nat
  region : Nat := 0
  unit   : Nat := 0
  lid    : Nat := 0x3FFF
  pc     : Option Nat := none
  idKind : Nat := 0
  id     : Nat := 0
  time   : Nat := 0
  step   : Nat := 0
  epoch  : Nat := 0
  detail : List Byte := []
deriving DecidableEq, Repr

/-- A capture running (13 R396–R400): trigger, domain, index, the fabric time it began, the triggers that joined it, each trigger's
event as (code, unit kind, unit, time), units unreadable or truncated, the bytes read of a truncated one, whether it was cut and the sections read by then, whether its scope holds
only stitch words (R395), and the words copied. -/
structure Capture where
  trigger : Nat
  domain  : Nat
  index   : Nat
  since   : Nat
  joined  : List (Nat × Nat × Nat) := []
  trigs   : List (Nat × Nat × Nat × Nat) := []
  missing : List (Nat × Nat) := []
  part    : List (Nat × Nat × Nat) := []
  cut     : Option Nat := none
  words   : Bool := false
  copied  : Option (List Byte) := none
deriving DecidableEq, Repr

/-- A unit that missed an epoch's changes (R363): the epoch it has applied, and whether it missed a forced reconfiguration. -/
structure Lag where
  kind  : Nat
  unit  : Nat
  epoch : Nat
  force : Bool := false
deriving DecidableEq, Repr

/-- A domain reset under way: domain, index, the fabric time it began. -/
structure Reset where
  domain : Nat
  index  : Nat
  since  : Nat
deriving DecidableEq, Repr

/-- Cobbler: event log, how many of its records were sent or counted as not sent, held topology descriptor, firmware running, the pending START (tick,
region mask, queue pair, sequence), by region the scale tables it declares, the logical cores it places and the variant loaded
(1 probe), the last kick, capture, resets under way, those that wait as (domain, index, time of the request), crossings whose other side is in
reset, units whose clock is stopped, units that lag (R363), whether held words are being copied (R204), a numerics level that
has not applied, counted resets since the history began, whether the descriptor was received in SAFE, and the epoch at which the
device enters READY or (true) DEGRADED_READY (R382), the index to which an image with ADVANCE set blows the fuses (14 R427), the
epoch at which the direction tables last flipped (R287), whether the device has left TRAIN since the last cold reset (R300), and whether a reset has discarded merge entries since the last forced
reconfiguration (R224). -/
structure Cob where
  log     : List Event := []
  sent    : Nat := 0
  desc    : Option (List Byte) := none
  fw      : Bool := false
  start   : Option (Nat × Nat × Nat × Nat) := none
  tables  : NMap (List Nat) := []
  placed  : NMap (List Nat) := []
  variant : NMap Nat := []
  kickAt  : Nat := 0
  capture : Option Capture := none
  resets  : List Reset := []
  waiting : List (Nat × Nat × Nat) := []
  xings   : List Nat := []
  asleep  : List (Nat × Nat) := []
  suspects : List (Nat × Nat) := []
  lag     : List Lag := []
  copying : Bool := false
  level   : Bool := false
  counted : Nat := 0
  keepDesc : Bool := false
  readyAt : Option (Bool × Nat) := none
  advance : Option Nat := none
  dirFlip : Option Nat := none
  mergeLost : Bool := false
  trained : Bool := false
deriving DecidableEq, Repr

/-! ### Host port, Checkpoint Store, Weir, power -/

/-- A host command (14 R416) or RDMA operation (14 R414) that runs or waits on a queue pair. -/
inductive HostOp where
  | nop (h : Hdr)
  | regRead (h : Hdr) (offs : List Nat)
  | regWrite (h : Hdr) (es : List (Nat × Word))
  | windowOpen (h : Hdr) (base len access : Nat)
  | windowClose (h : Hdr) (rkey : Nat)
  | imageLoad (h : Hdr) (addr len regions variant : Nat)
  | start (h : Hdr) (regions tick : Nat)
  | abort (h : Hdr) (regions : Nat)
  | topology (h : Hdr) (x : List Byte)
  | routing (h : Hdr) (mode epoch : Nat)
  | fwUpdate (h : Hdr) (addr len : Nat) (written : Bool)
  | identity (h : Hdr)
  | attest (h : Hdr) (nonce : List Byte)
  | events (h : Hdr) (enable : Nat)
  | romLoad (h : Hdr) (off : Nat) (last : Bool) (chunk : List Byte)
  | write (qp rkey addr : Nat) (data : List Byte)
  | read (qp rkey addr len : Nat)
deriving DecidableEq, Repr

/-- A queue pair: error state, rate in 10^-9 of the line rate, fabric times of the last notification sent and of the last rate change,
whether a command runs that has not completed, and the commands and RDMA operations that wait (14 R410–R412). -/
structure QP where
  err  : Bool := false
  rate : Nat := 10 ^ 9
  cnpAt : Option Nat := none
  last : Nat := 0
  busy : Bool := false
  cmds : List HostOp := []
deriving DecidableEq, Repr

/-- A remote register command (14 R417): queue pair, sequence, opcode, target device, entries still to send (the first one is out under
`txn` since a fabric time), values read, refused entries, and the index of the entry that is out. -/
structure RemOp where
  qp      : Nat
  seq     : Nat
  op      : Nat
  target  : Nat
  txn     : Nat := 0
  since   : Nat := 0
  todo    : List (Nat × Word) := []
  vals    : List Word := []
  refused : List Nat := []
  index   : Nat := 0
deriving DecidableEq, Repr

/-- A memory window: rkey, base, length, access bits, queue pair (R413). -/
structure Window where
  rkey   : Nat
  base   : Nat
  len    : Nat
  access : Nat
  qp     : Nat
deriving DecidableEq, Repr

/-- A response of the host port: queue pair, sequence, opcode, status, DETAIL, fabric time, body (R415). -/
structure Resp where
  qp     : Nat
  seq    : Nat
  op     : Nat
  status : Nat
  detail : Nat := 0
  time   : Nat := 0
  body   : List Byte := []
deriving DecidableEq, Repr

/-- The host port: queue pairs, open windows, the next rkey, the event queue pair, the chunks of ROM_LOAD, remote register commands,
the last 16 PTP offsets, the fabric time of the last Sync, the one from which a port that did not train tries again, and whether a
priority pause is out (14 R407–R432). -/
structure HostP where
  qps     : NMap (Option QP) := []
  windows : List Window := []
  nextKey : Nat := 1
  evQp    : Option Nat := none
  romBuf  : List Byte := []
  remote  : List RemOp := []
  ptp     : List Int := []
  syncAt  : Nat := 0
  retryAt : Nat := 0
  paused  : Bool := false
deriving DecidableEq, Repr

/-- An object of the CHECKPOINT region (16 R450): id, data, step, digest, fabric time of the write, its erase blocks in order, and the
offset of the first byte that cannot be read. -/
structure Obj where
  id    : Nat
  bytes : List Byte
  step  : Nat
  digest : List Byte
  time  : Nat
  blks  : List Nat := []
  bad   : Option Nat := none
deriving DecidableEq, Repr

/-- A store request started and not completed: ring count, its bytes, whether it has run, status, reason, bytes moved. -/
structure CksReq where
  index  : Nat
  bytes  : List Byte
  ran    : Bool := false
  status : Nat := 0
  reason : Nat := 0
  moved  : Nat := 0
deriving DecidableEq, Repr

/-- An erase block (16 R454–R456): erases, fabric time written, retired, whether an object holds it. -/
structure Nand where
  erase : Nat := 0
  at_   : Nat := 0
  bad   : Bool := false
  used  : Bool := false
deriving DecidableEq, Repr

/-- The Checkpoint Store: CHECKPOINT objects, requests, erase blocks, blocks that wait for a refresh, free blocks of the READ_ONLY
reserve, capture records by CAPTURE_ID, the firmware image and whether a failed write left it invalid, and the length of the event log when the store stopped taking its
records (16 R448–R458). -/
structure Cks where
  objs  : List Obj := []
  reqs  : List CksReq := []
  blks  : NMap Nand := []
  weak  : List Nat := []
  reserve : Nat := 60
  captures : List (Nat × List Byte) := []
  fw    : List Byte := []
  fwBad : Bool := false
  logEnd : Option Nat := none
deriving DecidableEq, Repr

/-- The Weir beyond its registers (15 R433–R445): the fabric time of the last trip, the time of the last grant recomputation with the
grants before it, whether the increase of WEIR_OP_REQ has been put off, the reserve of the last grant period, whether one has been
completed, by holder the grant periods of thermal trimming, the clusters reported hot (1 temperature, 2 voltage), whether CRIT is in
force, by cluster the good slack reports in a row and the half mV above WEIR_AVS.VOLT, equalisation taps by port, lane and tap, PHY
positions by controller and pseudo-channel, by lane and by pseudo-channel one more than the fabric time of the last step, and the fabric
time at which the counters froze. -/
structure Weir where
  tripAt  : Option Nat := none
  before  : Option (Nat × NMap Nat) := none
  deferred : Bool := false
  reserve : Nat := 0
  valid   : Bool := false
  trim    : NMap Nat := []
  hot     : NMap Nat := []
  crit    : Bool := false
  good    : NMap Nat := []
  half    : NMap Nat := []
  taps    : NMap Int := []
  phys    : NMap Int := []
  tapAt   : NMap Nat := []
  physAt  : NMap Nat := []
  frozenAt : Nat := 0
deriving DecidableEq, Repr

/-- The power stage and the sideband (17 R461–R470): MOD_EN, rails in regulation, PWR_OK, the shutdown word and FIRST, whether a
restart is latched, the THERM_TRIP line, the alert byte, and whether the stage runs. -/
structure Power where
  modEn    : Bool := false
  good     : Bool := false
  rails    : Bool := false
  pwrOk    : Bool := false
  shutdown : Nat := 0
  first    : Nat := 0
  latched  : Bool := false
  thermTrip : Bool := false
  alerts   : Nat := 0
deriving DecidableEq, Repr

/-- What the last command put on a link, a lane, a port or the sideband, or answered: not held by the block itself. A stitch word
names the physical core the wiring takes it to (R24, R27). -/
inductive Out where
  | word (c link : Nat) (dest : Option Nat) (w : StitchWord)
  | credit (c link stream count gen : Nat)
  | replay (c link seq : Nat)
  | probe (c link : Nat) (p : Probe)
  | flit (r out : Nat) (p : Packet)
  | flitReplay (r port : Nat)
  | edge (e link dest : Nat) (w : StitchWord)
  | edgeCredit (e link stream count gen : Nat)
  | frame (p : Nat) (f : Frame)
  | resp (r : Resp)
  | events (qp : Nat) (es : List Event)
  | rdma (qp status : Nat) (data : List Byte)
  | cnp (qp : Nat)
  | pause (on : Bool)
  | smb (bytes : List Byte)
  | read (v : Word)
  | refused
  | accepted
deriving DecidableEq, Repr

/-- The block without its queue of commands. `slew` is the time correction still to make and `phase` counts ticks toward the next
one (R300); `regs` holds the registers outside the core blocks by DRS offset; `w1c` holds, for bit b of the register at offset o under
64 × o + b, one more than the Race cycle in which hardware last set it (R13); `sendq` holds, by 2 × node + VC, what a node has to
send and its regulator has not admitted (R215), each with how it enters; `fresh`
counts the free values drawn (the model's own); `out` is what the last command sent or answered. -/
structure Dev where
  now     : Word := 0
  slew    : Int := 0
  phase   : Nat := 0
  fresh   : Nat := 0
  nextTxn : Nat := 0
  out     : List Out := []
  regs    : NMap Word := []
  cores   : NMap Core := []
  gws     : NMap Gateway := []
  routers : NMap Router := []
  mems    : NMap MemCtl := []
  ports   : NMap Port := []
  mem     : List Host.Cell := []
  memErr  : NMap (List (Nat × Nat)) := []
  memFold : NMap (Option Nat) := []
  memReach : NMap Nat := []
  w1c     : NMap Nat := []
  arrived : List (Nat × QPkt) := []
  sendq   : NMap (List (Entry × Packet)) := []
  map     : Map := {}
  step    : StepSt := {}
  heal    : Heal := {}
  cob     : Cob := {}
  host    : HostP := {}
  cks     : Cks := {}
  weir    : Weir := {}
  power   : Power := {}
deriving DecidableEq, Repr

/-- The machine: the block and the commands that wait, first in, first out. -/
structure State where
  pending : List Instr := []
  dev     : Dev := {}
deriving DecidableEq, Repr

/-- Why the model stops. -/
inductive Fault where
  /-- Raised by a command that names a core, router, controller, port, queue or bank the device does not have (R14, R17):
  no such command can reach the hardware, so stopping is safe. -/
  | noSuchUnit
deriving DecidableEq, Repr

/-- Why a command has no meaning. -/
inductive Refusal where
  /-- Raised by Dispatch for a row not modelled yet: safe, since nothing is proved of it. -/
  | notModelled (mnemonic : String)
deriving DecidableEq, Repr

/-- The device right after reset: every register reads its reset value (an unlisted register of `regs` reads
`resetOf`), every core is EMPTY with the reset values of R34, memory lists nothing, the queue is empty. -/
def State.reset : State := {}

end Sys2Proof.Machine
end

