-- ==== Sys2Proof/Machine/Regs.lean ====
section
/-!
DEFINITION. The device register space: which row stands behind an offset, what it reads as at reset, and reading and
writing registers and fields (R7, R9, R33). A register that is a view of other state is computed in Machine/Views.lean.
-/
namespace Sys2Proof.Machine

/-- The row behind an offset, among rows whose offsets count from the same base. -/
def rowIn (rows : List RegRow) (off : Nat) : Option RegRow :=
  rows.find? fun r => decide (r.off ≤ off) && decide (off < r.off + r.count * r.step) && (off - r.off) % r.step == 0

/-- The unit blocks of R33: base, stride, instances. -/
def coreBase (c : Nat) : Nat := 0x04000000 + c * 0x1000
def cluBase (r : Nat) : Nat := 0x02000000 + r * 0x10000
def raceBase (r : Nat) : Nat := 0x01000000 + r * 0x10000
/-- Controllers 0–15 are the HBM stacks, 16–19 the LPDDR controllers. -/
def memBase (k : Nat) : Nat := if k < 16 then 0x08000000 + k * 0x100000 else 0x09000000 + (k - 16) * 0x100000
def fordBase (p : Nat) : Nat := 0x0A000000 + p * 0x40000

/-- The kind of block an offset lies in. -/
inductive Blk where
  | dev | race (r : Nat) | clu (r : Nat) | core (c : Nat) | mem (k : Nat) | ford (p : Nat) | hole
deriving DecidableEq, Repr

/-- The block and the offset inside it (R33, Table — DRS block map). -/
def blockOf (off : Nat) : Blk × Nat :=
  if off < 0x00500000 then (.dev, off)
  else if off < 0x01000000 then (.hole, off)
  else if off < 0x01680000 then (.race ((off - 0x01000000) / 0x10000), off % 0x10000)
  else if off < 0x02000000 then (.hole, off)
  else if off < 0x02680000 then (.clu ((off - 0x02000000) / 0x10000), off % 0x10000)
  else if off < 0x04000000 then (.hole, off)
  else if off < 0x07740000 then (.core ((off - 0x04000000) / 0x1000), off % 0x1000)
  else if off < 0x08000000 then (.hole, off)
  else if off < 0x09000000 then (.mem ((off - 0x08000000) / 0x100000), off % 0x100000)
  else if off < 0x09400000 then (.mem (16 + (off - 0x09000000) / 0x100000), off % 0x100000)
  else if off < 0x0A000000 then (.hole, off)
  else if off < 0x0A500000 then (.ford ((off - 0x0A000000) / 0x40000), off % 0x40000)
  else if off < 0x0B000000 then (.hole, off)
  else if off < 0x0F000000 then (.dev, off)
  else (.hole, off)

/-- The register row behind a DRS offset (R10: none where no register stands). LPD_REMAP has 64 entries. -/
def rowAt (off : Nat) : Option RegRow :=
  match blockOf off with
  | (.dev, o) => rowIn rowsDEV o
  | (.race _, o) => rowIn rowsRACE o
  | (.clu _, o) => rowIn rowsCLU o
  | (.core _, o) => rowIn rowsCORE o
  | (.mem k, o) => if k ≥ 16 && o ≥ 0x1200 && o < 0x2000 then none else rowIn rowsMEM o
  | (.ford _, o) => rowIn rowsFORD o
  | (.hole, _) => none

/-- The row-then-column output of router `r` toward router `j` (R216): 0 local, 1 N, 2 E, 3 S, 4 W. -/
def rowCol (r j : Nat) : Nat :=
  if r % 8 < j % 8 then 2 else if j % 8 < r % 8 then 4
  else if r / 8 < j / 8 then 3 else if j / 8 < r / 8 then 1 else 0

/-- The fuse map: up to 256 records (11 R336). -/
def fuses : List Defect := Config.fuseMap.take 256

/-- The reset value of a register of the device blocks, per-part and per-router fields included. -/
def resetDev (off : Nat) : Word :=
  let base := ((rowIn rowsDEV off).map RegRow.reset).getD 0
  if off = 0x8 then Config.serial
  else if off = 0x10 then Config.rollback.setWidth 64
  else if 0x710 ≤ off && off < 0x740 && off % 8 == 0 then BitVec.ofNat 64 (7 * 2 ^ (3 * ((off - 0x710) / 8)) * (2 ^ 32 + 1))
  else if off = 0x300050 then putBits base 63 48 fuses.length
  else if 0x300100 ≤ off && off < 0x300168 && off % 8 == 0 then Config.rotDir ((off - 0x300100) / 8)
  else if 0x101000 ≤ off && off < 0x101480 && off % 8 == 0 then
    putBits base 47 32 (Config.floorCur ((off - 0x101000) / 8) 0x30).toNat
  else if 0x102000 ≤ off && off < 0x102340 && off % 8 == 0 then
    let k := (off - 0x102000) / 8
    putBits (putBits base 47 32 (Config.volt k).toNat) 31 16 (Config.floorVolt k 0x30).toNat
  else if off = 0x0C000008 then putBits (putBits base 31 16 Config.cksSpare.toNat) 15 0 Config.cksRetired.toNat
  else if 0x0D000000 ≤ off && off < 0x0D000020 && off % 8 == 0 then
    BitVec.ofNat 64 (ofBytes (slice (sha256 Config.modulus) (off - 0x0D000000) 8))
  else if off = 0x0D000020 then BitVec.ofNat 64 (Config.rollback.toNat % 256)
  else base

/-- The reset value of the register at a DRS offset outside the core blocks; 0 where no register stands. -/
def resetOf (off : Nat) : Word :=
  match blockOf off with
  | (.race r, o) =>
    if 0x1000 ≤ o && o < 0x1340 then BitVec.ofNat 64 (rowCol r ((o - 0x1000) / 8) * 0x11)
    else ((rowIn rowsRACE o).map RegRow.reset).getD 0
  | (.dev, o) => resetDev o
  | _ => ((rowAt off).map RegRow.reset).getD 0

/-- The reset value of a core-block register. -/
def coreReset (o : Nat) : Word := ((rowIn rowsCORE o).map RegRow.reset).getD 0

/-- A register outside the core blocks. -/
def Dev.reg (d : Dev) (off : Nat) : Word := NMap.get (resetOf off) d.regs off
def Dev.setReg (d : Dev) (off : Nat) (v : Word) : Dev := { d with regs := NMap.set (resetOf off) d.regs off v }

/-- A field in the block at `base`; copy `i` at `step`. -/
def Fld.at (f : Fld) (base : Nat) : Fld := { f with off := f.off + base }
def Fld.nth (f : Fld) (step i : Nat) : Fld := { f with off := f.off + step * i }

def getF (x : Word) (f : Fld) : Nat := bits x f.hi f.lo
def setF (x : Word) (f : Fld) (v : Nat) : Word := putBits x f.hi f.lo v
/-- The largest value of a field. -/
def Fld.max (f : Fld) : Nat := 2 ^ (f.hi + 1 - f.lo) - 1

def Dev.fld (d : Dev) (f : Fld) : Nat := getF (d.reg f.off) f
def Dev.flag (d : Dev) (f : Fld) : Bool := d.fld f == 1
def Dev.setFld (d : Dev) (f : Fld) (v : Nat) : Dev := d.setReg f.off (setF (d.reg f.off) f v)
/-- A field that counts and saturates. -/
def Dev.addFld (d : Dev) (f : Fld) (n : Nat) : Dev := d.setFld f (min (d.fld f + n) f.max)

/-- The core-block registers that belong to the logical core (R475); the others are silicon. -/
def isLogical (o : Nat) : Bool :=
  o == 0x10 || o == 0x20 || o == 0x28 || o == 0x30 || (0x100 ≤ o && o < 0x600 && o != 0x128) || o == 0x600 || 0x800 ≤ o

def Core.reg (k : Core) (o : Nat) : Word :=
  NMap.get (coreReset o) (if isLogical o then k.log.regs else k.sil.regs) o
def Core.setReg (k : Core) (o : Nat) (v : Word) : Core :=
  if isLogical o then { k with log := { k.log with regs := NMap.set (coreReset o) k.log.regs o v } }
  else { k with sil := { k.sil with regs := NMap.set (coreReset o) k.sil.regs o v } }
def Core.fld (k : Core) (f : Fld) : Nat := getF (k.reg f.off) f
def Core.flag (k : Core) (f : Fld) : Bool := k.fld f == 1
def Core.setFld (k : Core) (f : Fld) (v : Nat) : Core := k.setReg f.off (setF (k.reg f.off) f v)
def Core.addFld (k : Core) (f : Fld) (n : Nat) : Core := k.setFld f (min (k.fld f + n) f.max)

/-! ### Parts of the state by index -/

def Dev.core (d : Dev) (c : Nat) : Core := NMap.get {} d.cores c
def Dev.setCore (d : Dev) (c : Nat) (k : Core) : Dev := { d with cores := NMap.set {} d.cores c k }
def Dev.modCore (d : Dev) (c : Nat) (f : Core → Core) : Dev := d.setCore c (f (d.core c))
def Dev.gw (d : Dev) (r : Nat) : Gateway := NMap.get {} d.gws r
def Dev.setGw (d : Dev) (r : Nat) (g : Gateway) : Dev := { d with gws := NMap.set {} d.gws r g }
def Dev.router (d : Dev) (r : Nat) : Router := NMap.get {} d.routers r
def Dev.setRouter (d : Dev) (r : Nat) (x : Router) : Dev := { d with routers := NMap.set {} d.routers r x }
def Dev.memc (d : Dev) (k : Nat) : MemCtl := NMap.get {} d.mems k
def Dev.setMemc (d : Dev) (k : Nat) (m : MemCtl) : Dev := { d with mems := NMap.set {} d.mems k m }
def Dev.port (d : Dev) (p : Nat) : Port := NMap.get {} d.ports p
def Dev.setPort (d : Dev) (p : Nat) (x : Port) : Dev := { d with ports := NMap.set {} d.ports p x }

def Dev.emit (d : Dev) (o : Out) : Dev := { d with out := d.out ++ [o] }

end Sys2Proof.Machine
end

