-- ==== Sys2Proof/Machine/Ecc.lean ====
section
/-!
DEFINITION. The stored-data code (08 R260–R262): Reed–Solomon over GF(2^8). The model keeps the data a store encoded and,
per codeword, the stored symbols in error as (position, pattern) and the fold it was encoded with; the code is linear, so a read
decodes that error pattern and the difference of the folds.
-/
namespace Sys2Proof.Machine

/-- Multiplication by α = 02h in GF(2^8) with polynomial 11Dh (R260). -/
def gfDouble (x : Nat) : Nat := if x ≥ 128 then (x * 2) ^^^ 0x11D else x * 2

/-- Multiplication in GF(2^8), by the bits of `b` from bit `n − 1` down. -/
def gfMulN : Nat → Nat → Nat → Nat
  | 0, _, _ => 0
  | n + 1, a, b => (if b % 2 == 1 then a else 0) ^^^ gfMulN n (gfDouble a) (b / 2)

def gfMul (a b : Nat) : Nat := gfMulN 8 a b

/-- α^n. -/
def gfPow : Nat → Nat
  | 0 => 1
  | n + 1 => gfDouble (gfPow n)

/-- 1 / a = a^254. -/
def gfInv (a : Nat) : Nat :=
  let a2 := gfMul a a; let a4 := gfMul a2 a2; let a8 := gfMul a4 a4; let a16 := gfMul a8 a8
  let a32 := gfMul a16 a16; let a64 := gfMul a32 a32; let a128 := gfMul a64 a64
  gfMul a128 (gfMul a64 (gfMul a32 (gfMul a16 (gfMul a8 (gfMul a4 a2)))))

/-- The syndromes S_k, k < c, of an error pattern: the error polynomial at α^k (R260). -/
def syndromes (c : Nat) (es : List (Nat × Nat)) : List Nat :=
  (List.range c).map fun k => es.foldl (fun s e => s ^^^ gfMul e.2 (gfPow (e.1 * k % 255))) 0

/-- The pattern of at most 2 symbols over a codeword of `len` positions that gives these syndromes (R262). -/
def locate (c len : Nat) (syn : List Nat) : Option (List (Nat × Nat)) :=
  let ok := fun es => syndromes c es == syn
  let s0 := syn.getD 0 0; let s1 := syn.getD 1 0
  match (List.range len).findSome? (fun p => if s0 ≠ 0 && ok [(p, s0)] then some [(p, s0)] else none) with
  | some es => some es
  | none =>
    (List.range len).findSome? fun p => (List.range p).findSome? fun q =>
      let ap := gfPow p; let aq := gfPow q
      let y := gfMul (s1 ^^^ gfMul s0 ap) (gfInv (ap ^^^ aq))
      let x := s0 ^^^ y
      if x ≠ 0 && y ≠ 0 && ok [(p, x), (q, y)] then some [(p, x), (q, y)] else none

/-- Two error patterns together. -/
def addErr (es fs : List (Nat × Nat)) : List (Nat × Nat) :=
  fs.foldl (fun es f =>
    let x := (es.foldl (fun s e => if e.1 = f.1 then s ^^^ e.2 else s) 0) ^^^ f.2
    let es := es.filter fun e => e.1 ≠ f.1
    if x = 0 then es else es ++ [(f.1, x)]) es

/-- Decoding by R262 of a codeword with `c` check bytes, `stored` stored positions and length `len`: none when it is
uncorrectable, else the errors left after the correction (none but after a miscorrection). -/
def rsDecode (c stored len : Nat) (es : List (Nat × Nat)) : Option (List (Nat × Nat)) :=
  let syn := syndromes c es
  if syn.all (· == 0) then some es
  else match locate c len syn with
    | some fix => if fix.all fun e => decide (e.1 < stored) then some (addErr es fix) else none
    | none => none

/-- The bytes a codeword delivers: its data with the errors left at data positions `c + i`. -/
def withErr (c : Nat) (data : List Byte) (es : List (Nat × Nat)) : List Byte :=
  es.foldl (fun l e => if c ≤ e.1 then l.set (e.1 - c) (l.getD (e.1 - c) 0 ^^^ BitVec.ofNat 8 e.2) else l) data

/-! ### Encoding, virtual symbols (R260, R261) -/

/-- A polynomial, lowest coefficient first, times (x − α^k). -/
def mulRoot (g : List Nat) (k : Nat) : List Nat :=
  List.zipWith (· ^^^ ·) (0 :: g) (g.map (gfMul (gfPow k)) ++ [0])
/-- The generator polynomial g(x) of c check bytes. -/
def genPoly (c : Nat) : List Nat := (List.range c).foldl mulRoot [1]
/-- The n virtual symbols of a fold value, lowest first. -/
def virtuals (n fold : Nat) : List Nat := (List.range n).map fun j => fold / 256 ^ j % 256
/-- One step of the division by g(x): the remainder register takes the next coefficient of m(x), highest first. -/
def divStep (g r : List Nat) (m : Nat) : List Nat :=
  let q := m ^^^ r.getLastD 0
  List.zipWith (· ^^^ ·) (0 :: r.dropLast) (g.dropLast.map (gfMul q))
/-- The c check bytes: (m(x) × x^c) mod g(x). -/
def checkBytes (c : Nat) (m : List Nat) : List Nat := m.reverse.foldl (divStep (genPoly c)) (List.replicate c 0)
/-- The whole codeword of 64 data bytes under a fold: c check bytes, the data, n virtual symbols. -/
def codeword (c n : Nat) (data : List Byte) (fold : Nat) : List Nat :=
  let m := data.map (·.toNat) ++ virtuals n fold
  checkBytes c m ++ m
/-- What a decoder that folds another value sees: the n virtual symbols that differ, as errors (R261, R262). -/
def foldErr (c n diff : Nat) : List (Nat × Nat) :=
  ((List.range n).map fun j => (c + 64 + j, diff / 256 ^ j % 256)).filter fun e => e.2 ≠ 0

/-- The error pattern that a flip register's four slots name, from their 16-bit slots (R266). -/
def flipSlots (x : Word) : List (Nat × Nat) :=
  (List.range 4).filterMap fun j =>
    let s := bits x (16 * j + 15) (16 * j)
    if s / 2 ^ 15 = 1 && s % 256 ≠ 0 then some (s / 256 % 128, s % 256) else none

end Sys2Proof.Machine
end

