-- ==== Sys2Proof/Machine/Float.lean ====
section
/-!
DEFINITION. The element formats, conversions, FP32 arithmetic, matrix group sums, stochastic rounding and the
counter-based generator of chapter 04 (R110–R130). Exact values are n × 2^u; every rounding is one explicit step.
-/
namespace Sys2Proof.Machine

/-- A value of an element format: the canonical NaN, an infinity, or ±n × 2^u exactly (R110, R112). -/
inductive FV where
  | nan | inf (neg : Bool) | fin (neg : Bool) (n : Nat) (u : Int)
deriving DecidableEq, Repr

/-- Exponent bits, mantissa bits, bias of formats 0–5 (R110, Table — Element formats). -/
def fmtE (f : Nat) : Nat := match f with | 0 => 8 | 1 => 8 | 2 => 5 | 3 => 4 | 4 => 5 | _ => 2
def fmtM (f : Nat) : Nat := match f with | 0 => 23 | 1 => 7 | 2 => 10 | 3 => 3 | 4 => 2 | _ => 1
def fmtBias (f : Nat) : Int := match f with | 0 => 127 | 1 => 127 | 2 => 15 | 3 => 7 | 4 => 15 | _ => 1
/-- The code of the largest finite magnitude of formats 0–5. -/
def fmtMax (f : Nat) : Nat :=
  match f with | 0 => 0x7F7FFFFF | 1 => 0x7F7F | 2 => 0x7BFF | 3 => 0x7E | 4 => 0x7B | _ => 7
/-- Bits of one element of a format; INT8 is 6. -/
def fmtBits (f : Nat) : Nat := match f with | 0 => 32 | 1 => 16 | 2 => 16 | 5 => 4 | _ => 8
/-- The exponent of the smallest subnormal of a format. -/
def fmtSub (f : Nat) : Int := 1 - fmtBias f - fmtM f
/-- The canonical NaN of formats 0–2 (R112). -/
def fmtNaN (f : Nat) : Nat := match f with | 0 => 0x7FC00000 | 1 => 0x7FC0 | _ => 0x7E00
/-- The sign bit's weight in a format. -/
def fmtSign (f : Nat) : Nat := 2 ^ (fmtE f + fmtM f)

/-- The value an element's bits stand for (R110, R113). -/
def decodeEl (f x : Nat) : FV :=
  if f = 6 then let v := signed 8 x; .fin (decide (v < 0)) v.natAbs 0
  else
    let m := fmtM f; let e := x / 2 ^ m % 2 ^ fmtE f; let k := x % 2 ^ m
    let neg := decide (x / fmtSign f % 2 = 1)
    if f = 3 && e == 15 && k == 7 then .nan
    else if f ≠ 3 && f ≠ 5 && e == 2 ^ fmtE f - 1 then (if k = 0 then .inf neg else .nan)
    else if e = 0 then .fin neg k (fmtSub f) else .fin neg (2 ^ m + k) (fmtSub f + e - 1)

/-- A magnitude n × 2^u cut to the grid of mantissa `m` and smallest exponent `sub`: the code below it, the remainder
and the remainder's scale as a power of two. -/
def cutMag (m : Nat) (sub : Int) (n : Nat) (u : Int) : Nat × Nat × Nat :=
  if n = 0 then (0, 0, 0)
  else
    let q := max ((n.log2 : Int) + u - m) sub
    let base := (q - sub).toNat * 2 ^ m
    if q ≤ u then (base + n * 2 ^ (u - q).toNat, 0, 0)
    else let sh := (q - u).toNat; (base + n / 2 ^ sh, n % 2 ^ sh, sh)

/-- Round to nearest, ties to an even code (R116). -/
def roundMag (m : Nat) (sub : Int) (n : Nat) (u : Int) : Nat :=
  let c := cutMag m sub n u
  if 2 * c.2.1 > 2 ^ c.2.2 || (2 * c.2.1 == 2 ^ c.2.2 && c.1 % 2 == 1 && c.2.2 ≠ 0) then c.1 + 1 else c.1

/-- Stochastic rounding of a magnitude to FP32 or BF16 with draw `d` (R125): a code past `mx` stands for hi. -/
def stochMag (f : Nat) (d n : Nat) (u : Int) : Nat :=
  let c := cutMag (fmtM f) (fmtSub f) n u
  let r := if c.1 > fmtMax f then fmtMax f + 1
    else if c.2.1 = 0 then c.1
    else if c.2.1 * 2 ^ 24 / 2 ^ c.2.2 + d ≥ 2 ^ 24 then c.1 + 1 else c.1
  if f ≠ 0 then min r (fmtMax f) else min r (fmtMax f + 1)

/-- Round-to-nearest-even of an exact value to an integer magnitude (R116, INT8). -/
def roundInt (n : Nat) (u : Int) : Nat :=
  if 0 ≤ u then n * 2 ^ u.toNat
  else
    let p := 2 ^ (-u).toNat; let q := n / p; let r := n % p
    if 2 * r > p || (2 * r == p && q % 2 == 1) then q + 1 else q

/-- Conversion of an exact value to formats 0, 1, 2 or 6, and of an element of a scaled block (3–5, saturating), with
the outcomes of R117, Table — Conversion outcomes. -/
def encodeEl (f : Nat) (v : FV) : Nat :=
  if f = 6 then
    match v with
    | .nan => 0
    | .inf neg => wrap 8 (if neg then -127 else 127)
    | .fin neg n u => let q : Int := min (roundInt n u) 127; wrap 8 (if neg then -q else q)
  else
    match v with
    | .nan => if f < 3 then fmtNaN f else 0
    | .inf neg => (if f < 3 then (2 ^ fmtE f - 1) * 2 ^ fmtM f else fmtMax f) + (if neg then fmtSign f else 0)
    | .fin neg n u =>
      let c := roundMag (fmtM f) (fmtSub f) n u
      let c := if c > fmtMax f then (if f = 0 then fmtMax f + 1 else fmtMax f) else c
      c + (if neg then fmtSign f else 0)

/-- Stochastic conversion to FP32 (f = 0) or BF16 (f = 1) with draw `d` (R125, R126). -/
def encodeStoch (f d : Nat) (v : FV) : Nat :=
  match v with
  | .fin neg n u => stochMag f d n u + (if neg then fmtSign f else 0)
  | v => encodeEl f v

/-- A value times 2^k. -/
def FV.scale (v : FV) (k : Int) : FV := match v with | .fin s n u => .fin s n (u + k) | v => v
def FV.neg (v : FV) : FV := match v with | .fin s n u => .fin (!s) n u | .inf s => .inf (!s) | .nan => .nan
def FV.abs (v : FV) : FV := match v with | .fin _ n u => .fin false n u | .inf _ => .inf false | .nan => .nan
def FV.isNaN (v : FV) : Bool := match v with | .nan => true | _ => false
def FV.isFin (v : FV) : Bool := match v with | .fin _ _ _ => true | _ => false
def FV.isZero (v : FV) : Bool := match v with | .fin _ 0 _ => true | _ => false
def FV.isNeg (v : FV) : Bool := match v with | .fin s _ _ => s | .inf s => s | .nan => false
/-- The signed mantissa at exponent `u0`, for `u0` at most the value's own exponent. -/
def FV.at (v : FV) (u0 : Int) : Int :=
  match v with | .fin s n u => let x : Int := n * 2 ^ (u - u0).toNat; if s then -x else x | _ => 0
def FV.expo (v : FV) : Int := match v with | .fin _ n u => if n = 0 then 0 else u | _ => 0

/-- Exact sum with the signed zeros of IEEE 754 addition; opposite infinities give NaN (R118, R120, R121). -/
def FV.add (a b : FV) : FV :=
  match a, b with
  | .nan, _ => .nan
  | _, .nan => .nan
  | .inf s, .inf t => if s = t then .inf s else .nan
  | .inf s, _ => .inf s
  | _, .inf t => .inf t
  | .fin s n u, .fin t m w =>
    let e := min u w
    let x := FV.at (.fin s n u) e + FV.at (.fin t m w) e
    if x = 0 then .fin (s && t) 0 0 else .fin (decide (x < 0)) x.natAbs e

/-- Exact product; an infinity times zero gives NaN. -/
def FV.mul (a b : FV) : FV :=
  match a, b with
  | .nan, _ => .nan
  | _, .nan => .nan
  | .inf s, b => if b.isZero then .nan else .inf (s != b.isNeg)
  | a, .inf t => if a.isZero then .nan else .inf (a.isNeg != t)
  | .fin s n u, .fin t m w => .fin (s != t) (n * m) (u + w)

/-- a < b on values that are not NaN; zeros are equal. -/
def FV.lt (a b : FV) : Bool :=
  match a, b with
  | .inf s, .inf t => s && !t
  | .inf s, _ => s
  | _, .inf t => !t
  | a, b => let e := min a.expo b.expo; decide (a.at e < b.at e)

/-- FP32 bits to value and back, rounding once to nearest even (R118). -/
def f32 (x : Lane) : FV := decodeEl 0 x.toNat
def toF32 (v : FV) : Lane := BitVec.ofNat 32 (encodeEl 0 v)

def fadd (a b : Lane) : Lane := toF32 ((f32 a).add (f32 b))
def fsub (a b : Lane) : Lane := toF32 ((f32 a).add (f32 b).neg)
def fmul (a b : Lane) : Lane := toF32 ((f32 a).mul (f32 b))
def ffma (a b c : Lane) : Lane := toF32 (((f32 a).mul (f32 b)).add (f32 c))
/-- Negation and absolute value change only the sign bit; a NaN gives the canonical NaN (R118). -/
def fneg (a : Lane) : Lane := if (f32 a).isNaN then 0x7FC00000 else a ^^^ 0x80000000
def fabs (a : Lane) : Lane := if (f32 a).isNaN then 0x7FC00000 else a &&& 0x7FFFFFFF
/-- The order of vmax and vmin, with −0 below +0 (R118). -/
def fbelow (a b : Lane) : Bool := (f32 a).lt (f32 b) || ((f32 a).isZero && (f32 b).isZero && (f32 a).isNeg)
def fmax (a b : Lane) : Lane := if (f32 a).isNaN || (f32 b).isNaN then 0x7FC00000 else if fbelow a b then b else a
def fmin (a b : Lane) : Lane := if (f32 a).isNaN || (f32 b).isNaN then 0x7FC00000 else if fbelow b a then b else a

/-- vcmp's FN on two lanes: 0 eq, 1 ne, 2 lt, 3 le, 4 gt, 5 ge; unordered is false, except ne (Table — Small field
codes). -/
def fcmp (fn : Nat) (a b : Lane) : Bool :=
  let x := f32 a; let y := f32 b
  if x.isNaN || y.isNaN then fn == 1
  else match fn with
    | 0 => !x.lt y && !y.lt x | 1 => x.lt y || y.lt x | 2 => x.lt y | 3 => !y.lt x | 4 => y.lt x | _ => !x.lt y

/-- The fixed tree over the 16 lane sums: neighbouring pairs first (R119). -/
def sumTree : Nat → List Lane → Lane
  | 0, l => l.headD 0
  | n + 1, l => sumTree n ((List.range (l.length / 2)).map fun i => fadd (l.getD (2 * i) 0) (l.getD (2 * i + 1) 0))

/-- vssum: element i in lane i mod 16, each lane in ascending i from +0.0, then the tree (R119). -/
def vecSum (xs : List Lane) : Lane :=
  sumTree 4 ((List.range 16).map fun l =>
    (List.range (ceilDiv (xs.length - l) 16)).foldl (fun a j => fadd a (xs.getD (16 * j + l) 0)) 0)

/-- vsamax: the largest magnitude, the canonical NaN when any element is NaN (R118). -/
def vecAmax (xs : List Lane) : Lane := xs.foldl (fun a x => fmax a (fabs x)) 0

/-! ### Scaled blocks -/

/-- The exponent of SX bits [7:0]: a signed 8-bit integer (R114). -/
def scaleExp (x : Word) : Int := signed 8 x.toNat

/-- What element `x` of format `f` under scale byte `sb` and exponent `e` stands for (R114). -/
def scaledVal (f x sb : Nat) (e : Int) : FV :=
  if sb = 0xFF then .nan else (decodeEl f x).scale ((sb : Int) - 127 + e)

/-- |a| ≤ n × 2^u for a finite a. -/
def FV.magLe (a : FV) (n : Nat) (u : Int) : Bool :=
  let e := min a.expo u; decide ((a.abs).at e ≤ FV.at (.fin false n u) e)

/-- Conversion of values, divided by 2^e, into one scaled block of format `f`: elements and scale byte (R115). -/
def toBlock (f : Nat) (e : Int) (xs : List FV) : List Nat × Nat :=
  if xs.any fun x => !x.isFin then (xs.map fun _ => 0, 0xFF)
  else
    let ys := xs.map (FV.scale · (-e))
    if ys.all FV.isZero then (ys.map fun y => if y.isNeg then fmtSign f else 0, 0x7F)
    else
      match decodeEl f (fmtMax f) with
      | .fin _ fn fu =>
        let ok := fun (x : Nat) => ys.all fun y => y.magLe fn (fu + x - 127)
        let x := ((List.range 255).find? ok).getD 254
        (ys.map fun y => encodeEl f (y.scale (127 - (x : Int))), x)
      | _ => (ys.map fun _ => 0, 0xFF)

/-! ### The counter-based generator (R128) -/

def rotl32 (x : Lane) (k : Nat) : Lane := x.rotateLeft k

/-- One round of the generator on (w0, w1, w2, w3). -/
def mixRound (k c : Lane) (w : Lane × Lane × Lane × Lane) : Lane × Lane × Lane × Lane :=
  let w0 := w.1 + k + c
  let w1 := w.2.1 ^^^ rotl32 w0 7
  let w2 := w.2.2.1 + w1
  let w3 := w.2.2.2 ^^^ rotl32 w2 13
  let w0 := w0 + w3
  (w1, w2, w3, w0)

/-- y = mix(seed, x) (R128). -/
def mix (seed : Word) (x : BitVec 128) : Lane :=
  let k0 : Lane := seed.setWidth 32; let k1 : Lane := (seed >>> 32).setWidth 32
  let w := (x.setWidth 32, (x >>> 32).setWidth 32, (x >>> 64).setWidth 32, (x >>> 96).setWidth 32)
  let w := mixRound k0 0x9e3779b9 w
  let w := mixRound k1 0x3c6ef372 w
  let w := mixRound k0 0xdaa66d2b w
  let w := mixRound k1 0x78dde6e4 w
  w.1 ^^^ w.2.1 ^^^ w.2.2.1 ^^^ w.2.2.2

/-- The counter of a draw (R129, Table — Counter fields). -/
def drawCtr (step site seq pos tile elem : Nat) : BitVec 128 :=
  BitVec.ofNat 128 (step % 2 ^ 48 + (site % 16) * 2 ^ 48 + (seq % 4096) * 2 ^ 52 + (pos % 2 ^ 16) * 2 ^ 64
    + (tile % 2 ^ 16) * 2 ^ 80 + (elem % 2 ^ 32) * 2 ^ 96)

/-- d: bits [31:8] of a generator word (R125). -/
def drawD (y : Lane) : Nat := bits y 31 8

/-! ### Matrix groups -/

/-- The exact sum G of a group's products (R120, R121). -/
def groupSum (ps : List FV) : FV :=
  if ps.any FV.isNaN then .nan
  else
    let g := ps.foldl FV.add (.fin true 0 0)
    if g.isZero then .fin (ps.all fun p => p.isZero && p.isNeg) 0 0 else g

/-- The element after one group: a + G rounded once, to nearest even, or with draw `d` in long-sum mode (R120, R124). -/
def groupAdd (draw : Option Nat) (a : Lane) (g : FV) : Lane :=
  let v := (f32 a).add g
  match draw with
  | none => toF32 v
  | some d => BitVec.ofNat 32 (encodeStoch 0 d v)

/-- The INT32 element after one group, saturated, and whether it saturated (R122). -/
def groupAddInt (a : Lane) (g : Int) : Lane × Bool :=
  let v := signed 32 a.toNat + g
  let c := max (-(2 ^ 31)) (min (2 ^ 31 - 1) v)
  (BitVec.ofNat 32 (wrap 32 c), decide (c ≠ v))

end Sys2Proof.Machine
end

