-- ==== Sys2Proof/Machine/Ops.lean ====
section
/-!
DEFINITION. The named operations every family shares: time, epochs and the map; events and counters; the scratchpad,
HBM and LPDDR with their code; packets, injection and answers; aborting a step; core errors and completion tags.
-/
namespace Sys2Proof.Machine

/-! ### Time, device, epochs -/

/-- Fabric time in ns (R6). -/
def Dev.t (d : Dev) : Nat := d.now.toNat
/-- The current Race cycle: 1.6 cycles per ns (R28). -/
def Dev.raceCycle (d : Dev) : Nat := d.t * 8 / 5
/-- Hardware sets bits of a W1C register: bit `lo` + i for each bit i of the mask (R13). -/
def Dev.markW1c (d : Dev) (off lo mask : Nat) : Dev :=
  { d with w1c := ((List.range 8).filter (nbit mask)).foldl (fun m i => NMap.set 0 m (64 * off + lo + i) (d.raceCycle + 1)) d.w1c }
/-- Hardware sets a W1C bit outside the core blocks. -/
def Dev.latch (d : Dev) (f : Fld) : Dev := (d.setFld f 1).markW1c f.off f.lo 1
/-- The bits of a W1C register that hardware has set in the present Race cycle: a write of that cycle leaves them set (R13). -/
def Dev.justSet (d : Dev) (off : Nat) : Word :=
  d.w1c.foldl (fun v e => if e.1 / 64 = off ∧ e.2 = d.raceCycle + 1 then putBits v (e.1 % 64) (e.1 % 64) 1 else v) 0
/-- The own device id (R15). -/
def Dev.devId (d : Dev) : Nat := bits (d.reg 0x18) 13 0
/-- The current epoch number (R360). -/
def Dev.epoch (d : Dev) : Nat := d.fld Fld.FT_EPOCH_CURRENT
/-- The step number in force at every unit (R315). -/
def Dev.stepNo (d : Dev) : Nat := d.step.inForce
/-- The step state of COB_STEP_STATUS (R317). -/
def Dev.stepState (d : Dev) : Nat := d.fld Fld.COB_STEP_STATUS_STATE
/-- A step is in progress from its start tick until it leaves RUNNING (R315). -/
def Dev.inProgress (d : Dev) : Bool := d.stepState == 2
/-- An epoch number names a future epoch when (r − c) mod 2^16 lies in 1–32,767 (R361). -/
def Dev.future (d : Dev) (r : Nat) : Bool :=
  let x := (r + 2 ^ 16 - d.epoch) % 2 ^ 16; decide (1 ≤ x) && decide (x ≤ 32767)

/-! ### The map (R17–R22) -/

def numCores : Nat := 14144
def numLogical : Nat := 12288
def numRouters : Nat := 104

/-- The gap offset of segment (prow, pccol) (R19). -/
def MapBank.gap (m : MapBank) (prow pccol : Nat) : Nat := NMap.get 16 m.gaps (prow * 8 + pccol)

/-- Logical core id to physical core, under one bank (R19, R20). -/
def MapBank.toPhys (m : MapBank) (id : Nat) : Nat :=
  let row := id / 128; let col := id % 128
  let crow := row / 8; let ccol := col / 16; let j := col % 16
  let pcrow := crow + b2n (decide (crow ≥ m.v))
  let prow := pcrow * 8 + row % 8
  let pcol := ccol * 17 + j + b2n (decide (j ≥ m.gap prow ccol))
  prow * 136 + pcol

/-- The logical core a physical core holds, under one bank (R19, R20). -/
def MapBank.toLog (m : MapBank) (pcid : Nat) : Option Nat :=
  let prow := pcid / 136; let pcol := pcid % 136
  let pcrow := prow / 8; let ccol := pcol / 17; let o := pcol % 17
  let g := m.gap prow ccol
  if pcrow = m.v || o = g then none
  else
    let crow := pcrow - b2n (decide (pcrow > m.v))
    let j := o - b2n (decide (o > g))
    some ((crow * 8 + prow % 8) * 128 + ccol * 16 + j)

def Map.cur (m : Map) : MapBank := if m.active then m.bank1 else m.bank0
def Map.shadow (m : Map) : MapBank := if m.active then m.bank0 else m.bank1
def Map.setShadow (m : Map) (b : MapBank) : Map := if m.active then { m with bank0 := b } else { m with bank1 := b }

/-- The physical core that holds the logical neighbour of a core's logical core on a link (0 N, 1 E, 2 S, 3 W): past gaps, and past the
vacated physical cluster row by an express link (R23, R24). -/
def MapBank.neighbour (m : MapBank) (c link : Nat) : Option Nat :=
  (m.toLog c).bind fun l =>
    if link = 0 then (if l / 128 = 0 then none else some (m.toPhys (l - 128)))
    else if link = 1 then (if l % 128 = 127 then none else some (m.toPhys (l + 1)))
    else if link = 2 then (if l / 128 = 95 then none else some (m.toPhys (l + 128)))
    else (if l % 128 = 0 then none else some (m.toPhys (l - 1)))
/-- The physical core an edge link of an engine enters: in the row that holds logical row 0 or 95 (R27). -/
def MapBank.edgeCore (m : MapBank) (e b : Nat) : Nat := m.toPhys ((if e < 8 then 0 else 95 * 128) + e % 8 * 16 + b)
/-- A stitch link of a core that joins it to a core or an engine: a core of row V, or at a gap, has none (R24). -/
def MapBank.hasLink (m : MapBank) (c link : Nat) : Bool :=
  (m.neighbour c link).isSome || ((m.toLog c).isSome && link % 2 == 0)

/-- The router, and gateway, of a physical core (R17). -/
def routerOf (pcid : Nat) : Nat := pcid / 136 / 8 * 8 + pcid % 136 / 17
/-- The host of a logical core: none when its id names no core or it is unhosted (R18, R352). -/
def Dev.hostOf (d : Dev) (lid : Nat) : Option Nat :=
  if lid ≥ numLogical || d.map.unhosted.contains lid then none else some (d.map.cur.toPhys lid)
/-- The logical core a physical core holds under the map in force. -/
def Dev.lidOf (d : Dev) (c : Nat) : Option Nat :=
  match d.map.cur.toLog c with
  | some l => if d.map.unhosted.contains l then none else some l
  | none => none
def Dev.lid (d : Dev) (c : Nat) : Nat := (d.lidOf c).getD 0x3FFF
/-- The gateway node of a logical core's cluster (R22, R25). -/
def Dev.gwNode (d : Dev) (lid : Nat) : Nat := 4 * routerOf (d.map.cur.toPhys lid)
/-- The state CORE_STATE reports: OFFLINE for a core that holds no logical core (R35). -/
def Dev.coreState (d : Dev) (c : Nat) : CState :=
  let k := d.core c
  if k.sil.testing then .underTest else if (d.lidOf c).isSome then k.log.state else .offline

/-- Attachment slots (R26): the node of HBM stack or LPDDR controller k (its attachment 0), of Ford port p, and of the host
port, Cobbler and the Checkpoint Store. -/
def memNode (k : Nat) : Nat :=
  if k < 8 then 4 * k + 1 else if k < 16 then 4 * (88 + k) + 1
  else match k with | 16 => 66 | 17 => 258 | 18 => 94 | _ => 286
def memNode1 (k : Nat) : Nat := match k with | 16 => 130 | 17 => 322 | 18 => 158 | 19 => 350 | k => memNode k
def portRouters : List Nat := [8, 32, 64, 15, 39, 71, 16, 40, 72, 23, 47, 79, 24, 56, 80, 31, 63, 87, 48, 55]
def portNode (p : Nat) : Nat := 4 * portRouters.getD p 0 + 1
def hostNode : Nat := 194
def cobNode : Nat := 222
def cksNode : Nat := 381
/-- The Ford port at a node. -/
def portAt (node : Nat) : Option Nat := (List.range 20).find? fun p => portNode p == node
/-- The memory controller at a node. -/
def memAt (node : Nat) : Option Nat := (List.range 20).find? fun k => memNode k == node || memNode1 k == node
/-- A node at which a unit stands: a gateway, or a filled slot (R25, R26). -/
def nodeOk (node : Nat) : Bool :=
  decide (node / 4 < numRouters) && (node % 4 == 0 || (node % 4 ≠ 3 &&
    ((portAt node).isSome || (memAt node).isSome || node == hostNode || node == cobNode || node == cksNode)))

/-! ### Events and counters -/

/-- Write an event record into the event log (R394). -/
def Dev.event (d : Dev) (e : Event) : Dev :=
  { d with cob := { d.cob with log := d.cob.log ++ [{ e with time := d.t, step := d.stepNo, epoch := d.epoch }] } }

/-- An alert bit of the sideband (17 R470). -/
def Dev.alert (d : Dev) (i : Nat) : Dev := { d with power := { d.power with alerts := d.power.alerts ||| 2 ^ i } }

/-- The counters of a select/value array at `base` (n of them, 10h apart) that `ok` selects (R444), counted up by `n`. -/
def Dev.tallyAt (d : Dev) (base cnt n : Nat) (ok : Word → Bool) : Dev :=
  let hits := d.regs.filterMap fun e =>
    if base ≤ e.1 && e.1 < base + 16 * cnt && (e.1 - base) % 16 == 0 && bit e.2 63 && ok e.2 then some e.1 else none
  hits.foldl (fun d o =>
    let v := d.reg (o + 8); let c := bits v 47 0 + n
    d.setReg (o + 8) (if c ≥ 2 ^ 48 then putBits (putBits v 47 0 (2 ^ 48 - 1)) 63 63 1 else putBits v 47 0 c)) d

/-- Counters count now (R445): always when free-running, and when windowed from START on and before FREEZE of a window that is armed. -/
def Dev.counts (d : Dev) : Bool :=
  !d.flag Fld.CNT_CTRL_WINDOWED ||
    (d.flag Fld.CNT_CTRL_ARM && decide (d.fld Fld.CNT_START_TICK ≤ d.t) && decide (d.t < d.fld Fld.CNT_FREEZE_TICK))

/-- A filter of kind `fk` and unit `fu` names unit `unit` of `kind`; a memory controller k goes by its Welt engine (0Ah), an HBM stack
also by 06h, an LPDDR controller also by 07h (Table — Defect kinds, log 25). -/
def filterNames (fk fu kind unit : Nat) : Bool :=
  (fk == kind && fu == unit) ||
  (kind == 0x0A && ((fk == 6 && decide (unit < 16) && fu == unit) || (fk == 7 && decide (16 ≤ unit) && fu + 16 == unit)))

/-- Count `n` events of `code` at unit `unit` of `kind` in the physical cluster of router `r` (R444). -/
def Dev.tally (d : Dev) (code kind unit r n : Nat) : Dev :=
  if !d.counts then d
  else
    let d := if code < 0x200 then d.tallyAt (cluBase r + 0xB000) 8 n (fun s => bits s 9 0 == code) else d
    d.tallyAt 0x0E000000 64 n fun s =>
      bits s 57 48 == code && (!bit s 62 || filterNames (bits s 47 40) (bits s 31 0) kind unit)

/-- Unit kinds that one targeted test covers: a kind itself, and a cluster's gateway with its router (R342). -/
def sameKind (a b : Nat) : Bool := a == b || (decide (a = 3 ∨ a = 4) && decide (b = 3 ∨ b = 4))
/-- A test of a unit. -/
def Test.isOf (x : Test) (kind unit : Nat) : Bool := sameKind x.kind kind && x.unit == unit

/-- A targeted test becomes due for a unit (R343, R344): an error in a unit whose test is pending or running joins it. The record's CODE is
a core error code or 0; its TEST says what decides: a fill's verify for code 302h, a port's training, a targeted test (R335). -/
def Dev.wantTest (d : Dev) (kind unit sub code : Nat) : Dev :=
  if d.heal.tests.any fun t => t.isOf kind unit && t.sub == sub then d
  else
    let test := if kind = 9 then 6 else if code = 0x302 then 5 else 4
    { d with heal := { d.heal with tests := d.heal.tests ++ [{ kind, unit, sub, at_ := d.t, code := if code < 256 then code else 0, test }] } }

/-- A test of a unit runs. -/
def Dev.underTest (d : Dev) (kind unit : Nat) : Bool := d.heal.tests.any fun x => x.isOf kind unit && x.begun
/-- A memory block test runs on a block of controller k, so that accesses to the block are held (R343). -/
def Dev.blockTest (d : Dev) (k block : Nat) : Bool :=
  d.heal.tests.any fun x => x.begun && x.kind == (if k < 16 then 6 else 7) && x.unit == (if k < 16 then k else k - 16) && x.sub == block

/-! ### Packets -/

/-- TYPE codes (07 R213, Table — Packet types). -/
def ptypeCode (t : PType) : Nat :=
  match t with
  | .read => 1 | .readData => 2 | .write => 3 | .writeAck => 4 | .message => 5 | .accept => 6 | .bounce => 7
  | .contrib => 8 | .busy => 9 | .iload => 10 | .barEnter => 11 | .barRelease => 12 | .flagWrite => 13
  | .flagRead => 14 | .error => 15 | .spillOrder => 16 | .resetNotice => 17 | .reserved c => c

/-- Requests that expect an answer (R213). -/
def expectsAnswer (t : PType) : Bool :=
  match t with
  | .read | .write | .message | .contrib | .iload | .flagWrite | .flagRead => true
  | _ => false
/-- Responses travel on VC 1 (R213). -/
def isResponse (t : PType) : Bool :=
  match t with
  | .readData | .writeAck | .accept | .bounce | .busy | .error => true
  | _ => false
/-- A packet on the request channel: by its TYPE, or by its VC bit where TYPE is reserved (R211). -/
def isRequest (p : Packet) : Bool := match p.ptype with | .reserved _ => !p.resp | t => !isResponse t
def vcOf (t : PType) : Nat := b2n (isResponse t)
/-- Flits of a packet (R212). -/
def flitsOf (p : Packet) : Nat := if p.payload.length ≤ 96 then 1 else 1 + ceilDiv p.payload.length 128

/-- Types whose packets may take adaptive routes (R216). -/
def mayAdapt (t : PType) : Bool := isResponse t || t == .read || t == .contrib

/-- How many epochs the device is ahead of an EPOCH, modulo 4 (R218). -/
def Dev.age2 (d : Dev) (e : Nat) : Nat := (d.epoch + 4 - e % 4) % 4
/-- What carries the epoch that ended when the present one began, at which a bank flipped, goes by the other bank (R22, R218, R287). -/
def Dev.olderThan (d : Dev) (flip e : Nat) : Bool := d.age2 e == 1 && flip == d.epoch
/-- The map of the epoch that a packet or stitch word carries (R22). -/
def Dev.mapAt (d : Dev) (e : Nat) : MapBank := if d.olderThan d.map.last e then d.map.shadow else d.map.cur

/-- The coordinates of a device id (R15). -/
def devXYZ (id : Nat) : Nat × Nat × Nat := (id / 512 % 32, id / 16 % 32, id % 16)
def Dev.torus (d : Dev) : Nat × Nat × Nat :=
  (d.fld Fld.COB_FORD_TORUS_X_SIZE, d.fld Fld.COB_FORD_TORUS_Y_SIZE, d.fld Fld.COB_FORD_TORUS_Z_SIZE)

/-- The direction from coordinate a to b in a ring of n: none when done, false +, true − (R285). -/
def ringDir (n a b : Nat) : Option Bool :=
  let d := (b + n - a) % n
  if n = 0 || d = 0 then none else some (decide (d > n - d))

/-- The direction code of the next hop toward a device, with whether the hop crosses the wrap link (R284, R285). -/
def Dev.nextDir (d : Dev) (dev : Nat) : Option (Nat × Bool) :=
  let me := devXYZ d.devId; let dest := devXYZ dev; let n := d.torus
  let wrap := fun (n a : Nat) (neg : Bool) => if neg then a == 0 else a + 1 == n
  match ringDir n.1 me.1 dest.1 with
  | some s => some (b2n s, wrap n.1 me.1 s)
  | none => match ringDir n.2.1 me.2.1 dest.2.1 with
    | some s => some (2 + b2n s, wrap n.2.1 me.2.1 s)
    | none => match ringDir n.2.2 me.2.2 dest.2.2 with
      | some s => some (4 + b2n s, wrap n.2.2 me.2.2 s)
      | none => none

/-- The ports of a direction in its active bank, or with `old` in the other one, ascending; ports 0–17 serve only their fixed direction
(R274, R275, R287). -/
def Dev.portsOf (d : Dev) (dir : Nat) (old : Bool) : List Nat :=
  let x := d.reg (0x710 + 8 * dir)
  let m := if bit x 63 == old then bits x 19 0 else bits x 51 32
  (List.range 20).filter fun p => nbit m p && (decide (18 ≤ p) || p / 3 == dir)
def Dev.dirPorts (d : Dev) (dir : Nat) : List Nat := d.portsOf dir false

/-- The port a packet to another device leaves by: the bank is that of the epoch it carries (R285, R287). -/
def Dev.fordPort (d : Dev) (dir : Nat) (p : Packet) : Option Nat :=
  let ps := d.portsOf dir (match d.cob.dirFlip with | some e => d.olderThan e p.epoch | none => false)
  ps[(p.srcCore + p.dstCore + p.srcDev) % ps.length]?

/-- The direction a packet to another device leaves in, and whether the hop crosses a wrap link: a torus line multicast runs
along its line toward DST_DEV, its far end (R288, log 31). -/
def Dev.dirOf (d : Dev) (p : Packet) : Option (Nat × Bool) :=
  if p.mc ≥ 4 then
    let co := fun (id : Nat) => let x := devXYZ id; if p.mc = 4 then x.1 else if p.mc = 5 then x.2.1 else x.2.2
    some (2 * (p.mc - 4) + b2n (decide (co p.dstDev < co d.devId)), false)
  else d.nextDir p.dstDev

/-- The port by which a packet to another device leaves this one. -/
def Dev.exitPort (d : Dev) (p : Packet) : Option Nat := (d.dirOf p).bind fun x => d.fordPort x.1 p

/-- The node of this device that a packet travels to: DST_NODE, or the attachment slot of the port it leaves by. The header stays as
it is (R280, R285). -/
def Dev.routeNode (d : Dev) (p : Packet) : Nat :=
  if p.dstDev = d.devId then p.dst else match d.exitPort p with | some q => portNode q | none => p.dst

/-- A packet as its node injects it: epoch, age, step, source (R211). -/
def Dev.stamp (d : Dev) (node : Nat) (p : Packet) : Packet :=
  { p with epoch := d.epoch % 4, src := node, srcDev := d.devId, cls := 0, age := d.raceCycle % 2 ^ 16,
           step8 := d.stepNo % 256,
           adapt := d.flag Fld.COB_RACE_STATUS_ROUTING && mayAdapt p.ptype }

/-- Put a packet into the router's input queue of its node's local port or slot (R208). -/
def Dev.enqueue (d : Dev) (r port : Nat) (p : Packet) : Dev :=
  let x := d.router r; let key := 2 * port + vcOf p.ptype
  d.setRouter r { x with q := NMap.set [] x.q key (NMap.get [] x.q key ++ [{ p, at_ := d.t }]) }

/-- In `sync_only` only these requests travel, READ and WRITE from firmware, the host port and the Checkpoint Store alone
(R220, R221). -/
def Dev.mayInject (d : Dev) (node : Nat) (t : PType) : Bool :=
  d.fld Fld.COB_RACE_STATUS_SERVICE ≠ 0 || isResponse t ||
  match t with
  | .barEnter | .barRelease | .flagWrite | .flagRead | .resetNotice => true
  | .read | .write => node == cobNode || node == hostNode || node == cksNode
  | _ => false

/-! ### Names (R22, R217) -/

/-- The physical cluster row of a logical one. -/
def Dev.physRow (d : Dev) (row : Nat) : Nat := row + b2n (decide (row ≥ d.map.cur.v))

/-- A request as its gateway addresses it under the map of the epoch it injects it in (R22): a logical core's name becomes the gateway
node of its cluster, a span of logical cluster rows one of physical rows, and DST_NODE of a multicast the end at which the span
begins (R217). Without a core, a multicast runs along the row or column DST_NODE lies in. Answers keep their node. -/
def Dev.translate (d : Dev) (p : Packet) : Packet :=
  if isResponse p.ptype || p.dstDev ≠ d.devId then p
  else
    let node := if p.dstCore < numLogical then d.gwNode p.dstCore else p.dst
    if p.mc = 1 then { p with dst := 4 * (node / 32 * 8 + p.mcLo) }
    else if p.mc = 2 then
      { p with mcLo := d.physRow p.mcLo, mcHi := d.physRow p.mcHi, dst := 4 * (8 * d.physRow p.mcLo + node / 4 % 8) }
    else { p with dst := node }

/-! ### Injection (R208, R215) -/

/-- The port a node stands at; port 11b is the router itself, whose packets enter at its local port (R25). -/
def localPort (node : Nat) : Nat := if node % 4 = 3 then 0 else node % 4

/-- Flits that stand in an input queue or are under way to it. -/
def Dev.queued (d : Dev) (r port vc : Nat) : Nat :=
  let x := d.router r; let key := 2 * port + vc
  (((NMap.get [] x.q key).map fun y => flitsOf y.p) ++ (NMap.get [] x.fly key).map flitsOf).foldl (· + ·) 0

/-- Packets of a gateway or slot that wait in its router (R215); the router's own do not count. -/
def Dev.waiting (d : Dev) (node : Nat) : Nat :=
  let x := d.router (node / 4); let key := 2 * (node % 4)
  ((NMap.get [] x.q key ++ NMap.get [] x.q (key + 1)).filter fun y => y.p.src ≠ node / 4 * 4 + 3 || y.p.srcDev ≠ d.devId).length

/-- The regulator admits a packet: fewer than 4 of the node's own wait in its router, whose queue has room for all of it (R208,
R215). A router's own answers need the room alone. -/
def Dev.admits (d : Dev) (node : Nat) (p : Packet) : Bool :=
  (node % 4 == 3 || decide (d.waiting node < 4)) &&
  decide (d.queued (node / 4) (localPort node) (vcOf p.ptype) + flitsOf p ≤ 18)

def Dev.toSend (d : Dev) (node vc : Nat) : List (Entry × Packet) := NMap.get [] d.sendq (2 * node + vc)
def Dev.setSend (d : Dev) (node vc : Nat) (l : List (Entry × Packet)) : Dev :=
  { d with sendq := NMap.set [] d.sendq (2 * node + vc) l }

/-- Why a packet cannot leave its node (log 88): an ILOAD or SPILL_ORDER to another device (R280), or no port toward that device. -/
def Dev.cannotSend (d : Dev) (p : Packet) : Option Nat :=
  if p.dstDev = d.devId then none
  else if p.ptype == .iload || p.ptype == .spillOrder then some 0x8B
  else if (d.exitPort p).isNone then some 0x8C else none

/-- The answer to a packet, from the node that answers it (R211, R213). -/
def answerTo (p : Packet) (t : PType) (reason : Nat) (payload : List Byte) : Packet :=
  { ptype := t, dst := p.src, dstDev := p.srcDev, dstCore := p.srcCore, srcCore := p.dstCore, tag := p.tag,
    region := p.region, txn := p.txn, addr := p.addr, aux := p.aux, reason, payload }

/-- The oldest packet a node has to send on a channel enters its router, translated and stamped under the epoch of that moment; one
that cannot leave the node is answered to its own sender. -/
def Dev.sendOne (d : Dev) (node vc : Nat) : Option Dev :=
  match d.toSend node vc with
  | [] => none
  | (e, p) :: rest =>
    let q := d.stamp node (d.translate p)
    let p := match e with | .asIs => p | .own => q | .ownStep => { q with step8 := p.step8 }
    match d.cannotSend p with
    | some x =>
      let d := d.setSend node vc rest
      some (if isRequest p then d.setSend node 1 (d.toSend node 1 ++ [(.own, answerTo p .error x [])]) else d)
    | none => if d.admits node p then some ((d.setSend node vc rest).enqueue (node / 4) (localPort node) p) else none

def Dev.drainN (node : Nat) : Nat → Dev → Dev
  | 0, d => d
  | n + 1, d => match (match d.sendOne node 1 with | some d => some d | none => d.sendOne node 0) with
    | some d => d.drainN node n
    | none => d
/-- A node sends what its regulator admits, responses first: a response never waits for a request (R214). -/
def Dev.drain (d : Dev) (node : Nat) : Dev := d.drainN node 12

/-- A node sends a packet. -/
def Dev.send (d : Dev) (node : Nat) (e : Entry) (p : Packet) : Dev :=
  (d.setSend node (vcOf p.ptype) (d.toSend node (vcOf p.ptype) ++ [(e, p)])).drain node
def Dev.inject (d : Dev) (node : Nat) (p : Packet) : Dev := d.send node .own p

/-- Count an answer of a gateway in CLU_MSG_STATS (R232). -/
def Dev.countAnswer (d : Dev) (node : Nat) (t : PType) : Dev :=
  if node % 4 ≠ 0 then d
  else
    let r := node / 4
    match t with
    | .bounce => (d.addFld (Fld.CLU_MSG_STATS_BOUNCES.at (cluBase r)) 1).tally 0x105 3 r r 1
    | .busy => (d.addFld (Fld.CLU_MSG_STATS_BUSY.at (cluBase r)) 1).tally 0x106 3 r r 1
    | .error => d.addFld (Fld.CLU_MSG_STATS_ERRORS.at (cluBase r)) 1
    | _ => d

def Dev.answer (d : Dev) (node : Nat) (p : Packet) (t : PType) (reason : Nat) (payload : List Byte) : Dev :=
  (d.countAnswer node t).inject node (answerTo p t reason payload)

/-- An error response, to a request that expects an answer (R233). -/
def Dev.error (d : Dev) (node : Nat) (p : Packet) (reason : Nat) : Dev :=
  if expectsAnswer p.ptype then d.answer node p .error reason [] else d
/-- An error response to any request: malformed packets, packets two epochs old, flits in error (R210, R211, R218). -/
def Dev.errorAny (d : Dev) (node : Nat) (p : Packet) (reason : Nat) : Dev :=
  if isRequest p then d.answer node p .error reason [] else d

/-- A router answers a request itself, from its local port 11b (R25, R211, R218). -/
def Dev.routerError (d : Dev) (r : Nat) (p : Packet) (reason : Nat) : Dev :=
  if isRequest p then d.inject (4 * r + 3) (answerTo p .error reason []) else d

/-- A port that carries Race traffic: UP (R293), and a flex port only while it serves a direction (R275). -/
def Dev.portUp (d : Dev) (p : Nat) : Bool :=
  d.fld (Fld.FORD_STATE_STATE.at (fordBase p)) == 2 &&
  (decide (p < 18) || (List.range 6).any fun dir => (d.dirPorts dir).contains p)

/-- A packet that a port cannot carry is treated as R296 says. -/
def Dev.portRefuses (d : Dev) (q : Nat) (p : Packet) : Dev :=
  if expectsAnswer p.ptype then d.answer (portNode q) p .error 0x8C []
  else d.addFld (Fld.FORD_RETRY_DOWN_DISCARDS.at (fordBase q)) 1

/-- A packet enters a port's transmit queue (R285, R286), or is handled as R296 says where the port is not UP. Its bytes are checked
(R281), and ILOAD and SPILL_ORDER never cross (R280). -/
def Dev.toPort (d : Dev) (q cls : Nat) (p : Packet) : Dev :=
  if !p.badPar.isEmpty then d.errorAny (portNode q) p 0x87
  else if p.ptype == .iload || p.ptype == .spillOrder then d.errorAny (portNode q) p 0x8B
  else if d.portUp q then
    let x := d.port q; let key := 2 * vcOf p.ptype + cls
    d.setPort q { x with tx := NMap.set [] x.tx key (NMap.get [] x.tx key ++ [{ p, at_ := d.t }]) }
  else d.portRefuses q p

/-- The class of a packet in the dimension it leaves in (R284): 1 once it crosses that dimension's wrap link. -/
def Dev.exitClass (d : Dev) (p : Packet) : Nat := match d.dirOf p with | some (_, w) => max p.cls (b2n w) | none => p.cls

/-- A packet stays at a node until the unit there acts on it. -/
def Dev.park (d : Dev) (node : Nat) (p : Packet) : Dev := { d with arrived := d.arrived ++ [(node, { p, at_ := d.t })] }

/-- The router holds a merge entry for an answer (R224). -/
def Router.awaitsAnswer (x : Router) (p : Packet) : Bool := isResponse p.ptype && (NMap.get none x.merges p.txn).isSome

/-- A packet reaches the interface of a node (R215): a Ford port takes one for another device into its transmit queue, any other unit
holds it until it acts on it. Local port 11b takes answers to merged contributions alone; anything else sent there, to a node
with no unit, or to a node that cannot send it on, is answered and delivered nowhere (R25, log 88). -/
def Dev.deliver (d : Dev) (node : Nat) (p : Packet) : Dev :=
  if p.dstDev ≠ d.devId then
    match portAt node with
    | some q => d.toPort q (d.exitClass p) p
    | none => d.error node p 0x8C
  else if node % 4 == 3 then
    if (d.router (node / 4)).awaitsAnswer p then d.park node p else d.routerError (node / 4) p 0x82
  else if nodeOk node then d.park node p
  else d.error node p 0x82

/-- Whether the unit at a node holds a packet. -/
def Dev.holds (d : Dev) (node : Nat) (p : Packet) : Bool := d.arrived.any fun x => x.1 == node && x.2.p == p
/-- The unit keeps a packet it cannot act on yet. -/
def Dev.hold (d : Dev) (node : Nat) (p : Packet) : Dev := if d.holds node p then d else d.park node p

/-- The unit takes a packet it holds. -/
def Dev.take (d : Dev) (node : Nat) (p : Packet) : Dev :=
  { d with arrived := d.arrived.eraseP fun x => x.1 == node && x.2.p == p }
/-- The time at which a unit's interface registered a packet: now for one that it does not hold yet. -/
def Dev.regTime (d : Dev) (node : Nat) (p : Packet) : Nat :=
  match d.arrived.find? fun x => x.1 == node && x.2.p == p with | some x => x.2.at_ | none => d.t

/-- A unit acts on a packet of its own epoch or the one before, holds one that is an epoch ahead, and discards one two epochs
old (R218). -/
def Dev.byEpoch (d : Dev) (node : Nat) (p : Packet) (f : Dev → Dev) : Dev :=
  match d.age2 p.epoch with
  | 3 => d.hold node p
  | 2 => (d.take node p).errorAny node p 0x88
  | _ => f d

/-- A consumer of requests checks the parity of the bytes first (R207, R210). -/
def Dev.consume (d : Dev) (node : Nat) (p : Packet) (f : Dev → Dev) : Dev :=
  if p.badPar.isEmpty then d.byEpoch node p f else (d.take node p).errorAny node p 0x87

/-- A fresh transaction number (R211 TXN: chosen by the sender). -/
def Dev.newTxn (d : Dev) : Nat × Dev := (d.nextTxn, { d with nextTxn := (d.nextTxn + 1) % 2 ^ 16 })

/-! ### Aborting a step; seals and verdicts (R317–R322) -/

/-- The device a device sends its seal to, and its subtree size (R319, Table — Seal collection). -/
def Dev.collector (d : Dev) : Option Nat × Nat :=
  let me := devXYZ d.devId; let r := devXYZ (d.fld Fld.COB_STEP_ROOT_ROOT); let n := d.torus
  let id := fun (x y z : Nat) => x * 512 + y * 16 + z
  if me.2.2 ≠ r.2.2 then (some (id me.1 me.2.1 r.2.2), 1)
  else if me.2.1 ≠ r.2.1 then (some (id me.1 r.2.1 r.2.2), n.2.2)
  else if me.1 ≠ r.1 then (some (id r.1 r.2.1 r.2.2), n.2.1 * n.2.2)
  else (none, n.1 * n.2.1 * n.2.2)

/-- The device at coordinate v of a dimension of the line through this device. -/
def Dev.onLine (d : Dev) (dim v : Nat) : Nat :=
  let me := devXYZ d.devId
  if dim = 0 then v * 512 + me.2.1 * 16 + me.2.2 else if dim = 1 then me.1 * 512 + v * 16 + me.2.2
  else me.1 * 512 + me.2.1 * 16 + v
/-- The own coordinate in a dimension. -/
def Dev.coord (d : Dev) (dim : Nat) : Nat :=
  let me := devXYZ d.devId; if dim = 0 then me.1 else if dim = 1 then me.2.1 else me.2.2

/-- A line multicast packet from Cobbler (R288, R321): `mc` 4, 5, 6 marks an x, y, z line of the torus (log 31). -/
def Dev.lineCast (d : Dev) (dim hi : Nat) (p : Packet) : Dev :=
  let go := fun (d : Dev) (far : Nat) =>
    d.inject cobNode { p with mc := 4 + dim, mcLo := 0, mcHi := hi, dst := cobNode, dstCore := 0x3FFF,
                              dstDev := d.onLine dim far }
  let d := if hi > d.coord dim then go d hi else d
  if 0 < d.coord dim then go d 0 else d

/-- Flips of a commit not yet written (R322, R327). -/
def Dev.flipsLeft (d : Dev) : Bool := (List.range 20).any fun k => !(d.memc k).flips.isEmpty

/-- A started descriptor of an aborted step ends as `aborted` unless it has its own status already (R259). -/
def abortDesc (x : Desc) : Desc := { x with ran := true, status := (if x.ran && x.status ≠ 0 then x.status else 4) }

/-- Each Welt engine ends its started descriptors as aborted and stops its rings, RUNNING or IDLE (R259). -/
def Dev.stopEngines (d : Dev) : Dev :=
  (List.range 20).foldl (fun d k =>
    let m := d.memc k
    let d := d.setMemc k { m with passing := 0, descs := m.descs.map abortDesc }
    (List.range 16).foldl (fun d r => d.setFld ((Fld.HBM_WELT_RING_CTRL_STATE.nth 16 r).at (memBase k)) 2) d) d
/-- A step aborts: the engines stop and empty their flip lists (R259, R327). -/
def Dev.weltAbort (d : Dev) : Dev :=
  let d := d.stopEngines
  { d with mems := d.mems.map fun e => (e.1, { e.2 with flips := [] }) }

/-- Schedule a forced reconfiguration for the first epoch firmware can name (R203, R206). -/
def Dev.scheduleForce (d : Dev) : Dev :=
  if d.flag Fld.COB_STITCH_FORCE_ARM then d
  else (d.setFld Fld.COB_STITCH_FORCE_REQ_EPOCH ((d.epoch + 1) % 2 ^ 16)).setFld Fld.COB_STITCH_FORCE_ARM 1

/-- The report of the step that COB_STEP_STATUS describes, as it stands now. -/
def Dev.dueNow (d : Dev) (st cause : Nat) : StepDue :=
  { step := d.fld Fld.COB_STEP_STATUS_STEP, state := st, cause, endAt := d.t, spills := d.step.spills, shorts := d.step.shorts,
    plaus := d.step.plaus, nonfin := d.step.nonfin, adders := d.step.adders }
/-- A report comes due (R334). -/
def Dev.addDue (d : Dev) (x : StepDue) : Dev := { d with step := { d.step with due := d.step.due ++ [x] } }

/-- The step reaches ABORTED or INCOMPLETE: its work stops, the report is due (R317, R334). -/
def Dev.endStep (d : Dev) (st cause : Nat) : Dev :=
  let d := ((d.setFld Fld.COB_STEP_STATUS_STATE st).setFld Fld.COB_STEP_STATUS_CAUSE cause).weltAbort
  (d.addDue (d.dueNow st cause)).scheduleForce

/-- Write the decision, then send the verdict along the root's x line (R320, R321). -/
def Dev.sendVerdict (d : Dev) (dim : Nat) (step : Nat) (commit : Bool) : Dev :=
  let n := d.torus; let hi := (if dim = 0 then n.1 else if dim = 1 then n.2.1 else n.2.2) - 1
  d.lineCast dim hi { ptype := .barRelease, addr := step, aux := if commit then 0xC0000001 else 0xC0000002 }

/-- A verdict passed along the lines the device serves (R321). -/
def Dev.passVerdict (d : Dev) (step : Nat) (commit : Bool) : Dev :=
  let me := devXYZ d.devId; let r := devXYZ (d.fld Fld.COB_STEP_ROOT_ROOT)
  let d := if me.2.1 = r.2.1 && me.2.2 = r.2.2 then d.sendVerdict 1 step commit else d
  if me.2.2 = r.2.2 then d.sendVerdict 2 step commit else d

/-- A failing seal of a step for the collector; the root has none (R319). -/
def Dev.sendFail (d : Dev) (step : Nat) : Dev :=
  match d.collector.1 with
  | some dest => d.inject cobNode { ptype := .barEnter, dst := cobNode, dstDev := dest, addr := step, aux := 0xA0000000 }
  | none => d
/-- The own failing seal, once for the step; an expelled device sends none (R319, R330). -/
def Dev.ownFail (d : Dev) : Dev :=
  if d.flag Fld.COB_STEP_CMD_EXPEL || d.step.failSent then d
  else { d with step := { d.step with failSent := true } }.sendFail (d.fld Fld.COB_STEP_STATUS_STEP)

/-- A verdict for an overtaken SEALED step: its flips are to be written, or given up (R316, R322). -/
def Dev.lateVerdict (d : Dev) (x : Late) (commit : Bool) : Dev :=
  if commit then { d with step := { d.step with late := some { x with go := true } } }
  else ({ d with step := { d.step with late := none } } : Dev).addDue { x.due with state := 7, cause := 5, endAt := d.t }

/-- The device registers a verdict (R321, R322): it passes it on, then acts; a repeat for its step is ignored. FAIL ends a step that is
ARMED, RUNNING or SEALED. -/
def Dev.verdict (d : Dev) (step : Nat) (commit : Bool) : Dev :=
  if d.fld Fld.COB_STEP_STATUS_STEP ≠ step then
    match d.step.late with
    | some x => if x.due.step = step then (if x.go then d else (d.passVerdict step commit).lateVerdict x commit) else d.passVerdict step commit
    | none => d.passVerdict step commit
  else if d.step.acted then d
  else
    let d := { d.passVerdict step commit with step := { d.step with acted := true } }
    if commit then (if d.stepState = 3 then d.setFld Fld.COB_STEP_STATUS_STATE 4 else d)
    else if decide (1 ≤ d.stepState) && decide (d.stepState ≤ 3) then (d.endStep 7 5).ownFail else d

/-- The root decides the step once (R320). -/
def Dev.decideStep (d : Dev) (step : Nat) (commit : Bool) : Dev :=
  if d.fld Fld.COB_STEP_DECISION_VERDICT ≠ 0 && d.fld Fld.COB_STEP_DECISION_STEP = step then d
  else
    let d := (d.setFld Fld.COB_STEP_DECISION_VERDICT (if commit then 1 else 2)).setFld Fld.COB_STEP_DECISION_STEP step
    (d.sendVerdict 0 step commit).verdict step commit

/-- A failing seal registered: passed on to the collector, or the root's decision, for the step it describes or one to come (R319, R320,
log 40). -/
def Dev.passFail (d : Dev) (step : Nat) : Dev :=
  if d.collector.1.isSome then d.sendFail step
  else if step < d.fld Fld.COB_STEP_STATUS_STEP then d else d.decideStep step false

/-- The device ends its step in ABORTED or INCOMPLETE: its own failing seal, which the root registers itself (R319, R320). -/
def Dev.failSeal (d : Dev) : Dev :=
  if d.collector.1.isSome then d.ownFail
  else if d.flag Fld.COB_STEP_CMD_EXPEL then d
  else d.decideStep (d.fld Fld.COB_STEP_STATUS_STEP) false

/-- The device aborts the step in progress with a cause (R317, R319). -/
def Dev.abortStep (d : Dev) : Dev := if d.inProgress then (d.endStep 6 1).failSeal else d
/-- The device marks the step in progress INCOMPLETE with a cause (R317). -/
def Dev.incomplete (d : Dev) (cause : Nat) : Dev := if d.inProgress then (d.endStep 7 cause).failSeal else d

/-! ### Units held back (R363, R349, R396) -/

/-- The units a capture or reset of a domain covers (Table — Reset domains); unit kinds as in Table — Defect kinds. -/
def inScope (domain index kind unit : Nat) : Bool :=
  match domain with
  | 1 => (kind == 3 && unit == index) || (kind == 1 && routerOf unit == index)
  | 2 | 6 | 7 => true
  | 3 => kind == 0x0A && unit == index
  | 4 => kind == 9 && unit == index
  | 5 => kind == 0x20
  | _ => false
/-- A unit frozen by the capture that runs. -/
def Dev.captured (d : Dev) (kind unit : Nat) : Bool :=
  match d.cob.capture with
  | none => false
  | some x => inScope x.domain x.index kind unit || x.joined.any fun j => inScope j.2.1 j.2.2 kind unit
/-- A unit that has epoch changes to catch up. -/
def Dev.lagging (d : Dev) (kind unit : Nat) : Bool := d.cob.lag.any fun x => x.kind == kind && x.unit == unit
/-- A core that holds a logical core a row shift moves, once the shift has reached a phase (R357). -/
def Dev.inShift (d : Dev) (c phase : Nat) : Bool :=
  match d.heal.shift, d.lidOf c with
  | some x, some l => decide (phase ≤ x.phase) && decide (x.row * 1024 ≤ l)
  | _, _ => false
/-- A core that neither issues nor is reached: its state is on its way, it is frozen, lags, or old words are being copied. -/
def Dev.coreHeld (d : Dev) (c : Nat) : Bool :=
  (d.core c).sil.moving || d.captured 1 c || d.lagging 1 c || d.cob.copying || d.inShift c 3

/-- The stitch links of a core stop: it is held, under test, or its clock is stopped (R204, R206, R363). -/
def Dev.linksStopped (d : Dev) (c : Nat) : Bool := d.coreHeld c || (d.core c).sil.testing || d.cob.asleep.contains (1, c)

/-! ### Core state, errors, completion tags -/

def Core.setState (k : Core) (st : CState) (epoch : Nat) : Core :=
  { log := { k.log with state := st },
    sil := { k.sil with epochIn := epoch, block := 0, blocked := false,
                        stall := if st == .running then 0 else k.sil.stall,
                        pcHeld := if k.log.state == .running then k.log.pc else k.sil.pcHeld } }

/-- A core enters UNDER_TEST, and leaves it: STATE_EPOCH names the epoch of the change (R35). -/
def Core.enterTest (k : Core) (epoch : Nat) : Core :=
  { k with sil := { k.sil with testing := true, epochIn := epoch, block := 0, blocked := false,
                               pcHeld := if k.log.state == .running then k.log.pc else k.sil.pcHeld } }
def Core.leaveTest (k : Core) (epoch : Nat) : Core :=
  { k with sil := { k.sil with testing := false, epochIn := if k.sil.testing then epoch else k.sil.epochIn } }

/-- Latch a core error, or count it in EXTRA (R70); the record's event, and the targeted test the error starts (R343). -/
def Dev.coreErr (d : Dev) (c code pc idKind id addr reason : Nat) : Dev :=
  let k := d.core c
  let d := if [7, 9, 0xE, 0x11, 0x12].contains code then d.wantTest 1 c 0 code else d
  if k.flag Fld.CORE_ERR_STATUS_LATCHED then d.setCore c (k.addFld Fld.CORE_ERR_STATUS_EXTRA 1)
  else
    let region := k.fld Fld.CORE_PROG_REGION_REGION
    let r0 := setF (setF (setF (setF (setF (setF 0 Fld.CORE_ERR_REC0_CODE code) Fld.CORE_ERR_REC0_REGION region)
      Fld.CORE_ERR_REC0_LOGICAL_ID (d.lid c)) Fld.CORE_ERR_REC0_PC pc) Fld.CORE_ERR_REC0_ID_KIND idKind)
      Fld.CORE_ERR_REC0_ID id
    let k := k.setFld Fld.CORE_ERR_STATUS_LATCHED 1
    let k := k.setReg 0x40 r0
    let k := k.setReg 0x48 d.now
    let k := k.setReg 0x50 (setF (setF 0 Fld.CORE_ERR_REC2_REASON reason) Fld.CORE_ERR_REC2_ADDRESS addr)
    let k := k.setReg 0x58 (setF (setF 0 Fld.CORE_ERR_REC3_EPOCH d.epoch) Fld.CORE_ERR_REC3_STEP d.stepNo)
    ((d.setCore c k).markW1c (coreBase c + 0x38) 0 1).event
      { code, kind := 1, region, unit := c, lid := d.lid c, pc := some pc, idKind, id, detail := leBytes 2 reason ++ leBytes 8 addr }

/-- An error whose action is "stop" (R71): latched, the core goes to FAULTED and a step in progress aborts (R39). A core that
has stopped already only latches or counts it (R476). -/
def Dev.coreStop (d : Dev) (c code pc idKind id addr reason : Nat) : Dev :=
  let run := (d.core c).log.state == .running
  let d := d.coreErr c code pc idKind id addr reason
  if run then (d.modCore c fun k => k.setState .faulted d.epoch).abortStep else d

def LCore.pendSet (l : LCore) (t : Nat) (b : Bool) : LCore :=
  { l with ctPend := if b then l.ctPend ||| 2 ^ t else l.ctPend &&& ((2 ^ 32 - 1) ^^^ 2 ^ t) }

/-- A completion clears the tag with a status: 0 ok, 1 closed, 2 error, 3 timeout (R43). -/
def LCore.tagDone (l : LCore) (t st : Nat) : LCore := { l.pendSet t false with ctStat := NMap.set 0 l.ctStat t st }

/-- The tagged operation issued at `pc` completes; `error` or `timeout` stops the core with `code` (R44). -/
def Dev.complete (d : Dev) (c tag st pc code addr reason : Nat) : Dev :=
  let d := d.modCore c fun k => { k with log := k.log.tagDone tag st }
  if st ≥ 2 then d.coreStop c code pc 3 tag addr reason else d

/-! ### How a command acts -/

/-- A slew of 200 ppm corrects 1 ns in every 5,000 (R300): the ns to add to the next tick's one. -/
def Dev.slewNow (d : Dev) : Int := if d.phase = 0 then (if 0 < d.slew then 1 else if d.slew < 0 then -1 else 0) else 0

/-- One nanosecond without a command (R6, log 1): fabric time goes on, slewed; HOLDOVER keeps the last rate and each ms that passes in it
adds 1 ns to ERR_BOUND (R300). -/
def Dev.tick (d : Dev) : Dev :=
  let c := d.slewNow
  let held := d.flag Fld.FT_STATUS_HOLDOVER
  let was := d.t
  let d := { d with now := BitVec.ofNat 64 (was + (1 + c).toNat), slew := if held then d.slew else d.slew - c,
                    phase := (d.phase + 1) % 5000, out := [] }
  if held && was / 10 ^ 6 ≠ d.t / 10 ^ 6 then d.addFld Fld.FT_STATUS_ERR_BOUND 1 else d

/-- A command's effect `f` on the block: the queue stays as it is, and `out` starts empty. -/
def effect (f : Dev → Dev) (s : State) : Host.Outcome State Fault Refusal :=
  .next { s with dev := f { s.dev with out := [] } }

/-- A command to a unit, which faults when the device has no such unit. -/
def onUnit (ok : Bool) (f : Dev → Dev) (s : State) : Host.Outcome State Fault Refusal :=
  if ok then effect f s else .fault .noSuchUnit

end Sys2Proof.Machine
end

