-- ==== Sys2Proof/Machine/Mem.lean ====
section
/-!
DEFINITION. The stores: a core's scratchpad, HBM and LPDDR behind their controllers, each under the stored-data code, and
the device physical address space over them (01 R29–R32, 02 R51–R66, 08 R260–R272).
-/
namespace Sys2Proof.Machine

/-- The outcome of an access: data, an error reason of R233, or waiting for a unit that is filling or waking. -/
inductive Res (α : Type) where
  | ok (a : α) | err (reason : Nat) | wait
deriving DecidableEq, Repr

/-- The 64-byte blocks of n bytes at a: block, offset in it, length. -/
def blocksOf : Nat → Nat → Nat → List (Nat × Nat × Nat)
  | 0, _, _ => []
  | f + 1, a, n =>
    if n = 0 then [] else
      let o := a % 64; let l := min n (64 - o)
      (a / 64, o, l) :: blocksOf f (a + l) (n - l)

def rangeBlocks (a n : Nat) : List (Nat × Nat × Nat) := blocksOf (n / 64 + 2) a n

/-- n bytes of a byte map at a. -/
def getBytes (m : NMap Byte) (a n : Nat) : List Byte := (List.range n).map fun i => NMap.get 0 m (a + i)
/-- Bytes written to a byte map at a, in canonical form. -/
def putBytes : NMap Byte → Nat → List Byte → NMap Byte
  | m, _, [] => m
  | m, a, b :: bs => putBytes (NMap.set 0 m a b) (a + 1) bs

/-! ### Scratchpad -/

def spadSize : Nat := 0x60000
def bankOf (a : Nat) : Nat := a / 0xC000
/-- 0 powered, 1 gated, 2 waking (R61–R63). -/
def Core.bank (k : Core) (b : Nat) : Nat :=
  if nbit (k.fld Fld.CORE_BANK_GATE_GATE) b then 1 else if nbit k.sil.powered b then 0 else 2
/-- The banks a range touches. -/
def banksOf (a n : Nat) : List Nat := (List.range 8).filter fun b => decide (bankOf a ≤ b) && decide (b ≤ bankOf (a + n - 1))
/-- A remap entry of a range's codewords whose copy runs: VALID and ACTIVE differ (R265). -/
def Core.remapBusy (k : Core) (a n : Nat) : Bool :=
  k.sil.regs.any fun e => decide (0x700 ≤ e.1) && decide (e.1 < 0x800) && bit e.2 63 != bit e.2 62 &&
    (let w := 768 * ((e.1 - 0x700) / 32) + bits e.2 9 0; decide (a / 64 ≤ w) && decide (w ≤ (a + n - 1) / 64))
/-- Whether a range touches a bank in state `st`; a running remap copy makes its codeword wait like a waking bank. -/
def Core.anyBank (k : Core) (a n st : Nat) : Bool :=
  n ≠ 0 && (((banksOf a n).any fun b => k.bank b == st) || (st == 2 && k.remapBusy a n))
/-- The lowest offset of the spill ring (R65). -/
def Core.spillBase (k : Core) : Nat := spadSize - k.fld Fld.CORE_SPILL_CFG_SIZE * 0x800

/-- The fold of codeword w (R261). -/
def spadFold (w : Nat) : Nat := w / 768 * 2 ^ 10 + w % 768
/-- The codeword that an access to codeword w meets: itself but for a decoder, row or bank-address fault (R262, log 96). -/
def Core.met (k : Core) (w : Nat) : Nat := w ^^^ NMap.get 0 k.sil.reach w
/-- What the decoder of an access to codeword w sees as errors: the stored ones and the difference of the folds. -/
def Core.errsAt (k : Core) (w : Nat) : List (Nat × Nat) :=
  let v := k.met w
  addErr (NMap.get [] k.sil.errs v) (foldErr 5 2 (spadFold w ^^^ (NMap.get none k.sil.fold v).getD (spadFold v)))
/-- Bytes at offset o of codeword w, encoded afresh with its fold. -/
def Core.putBlock (k : Core) (w o : Nat) (bs : List Byte) : Core :=
  let v := k.met w
  { log := { k.log with spad := putBytes k.log.spad (64 * v + o) bs },
    sil := { k.sil with errs := NMap.set [] k.sil.errs v [],
                        fold := NMap.set none k.sil.fold v (if spadFold w = spadFold v then none else some (spadFold w)) } }
/-- Bank b holds zeros under valid check bytes. -/
def Core.zeroBank (k : Core) (b : Nat) : Core :=
  { log := { k.log with spad := k.log.spad.filter fun e => bankOf e.1 ≠ b },
    sil := { k.sil with errs := k.sil.errs.filter fun e => bankOf (64 * e.1) ≠ b,
                        fold := k.sil.fold.filter fun e => bankOf (64 * e.1) ≠ b } }

/-- Bank b is armed for a flip; the write that takes it clears ARM and sets APPLIED (R266). -/
def Core.armed (k : Core) (b : Nat) : Bool := nbit (k.fld Fld.CORE_SPAD_FLIP_ARM_ARM) b
def Core.flipTaken (k : Core) (b : Nat) : Core :=
  let k := k.setFld Fld.CORE_SPAD_FLIP_ARM_ARM (k.fld Fld.CORE_SPAD_FLIP_ARM_ARM - 2 ^ b)
  k.setFld Fld.CORE_SPAD_FLIP_ARM_APPLIED (k.fld Fld.CORE_SPAD_FLIP_ARM_APPLIED ||| 2 ^ b)
/-- A write that reaches a bank takes an armed flip of the bank (R266). -/
def Core.flip (k : Core) (w : Nat) : Core :=
  let b := bankOf (64 * w)
  if k.armed b then
    let es := addErr (NMap.get [] k.sil.errs (k.met w)) (flipSlots (k.reg (0x640 + 8 * b)))
    let k := k.flipTaken b
    { k with sil := { k.sil with errs := NMap.set [] k.sil.errs (k.met w) es } }
  else k
/-- The first codeword written of a bank that is filled with zeros takes an armed flip (R62, R266, R267). -/
def Core.fillBank (k : Core) (b : Nat) : Core := (k.zeroBank b).flip (768 * b)
/-- A word written into the spill ring, in bank 7: its codeword's errors, an armed flip's (R65, R266). -/
def Core.ringFlip (k : Core) : List (Nat × Nat) × Core :=
  if k.armed 7 then (addErr [] (flipSlots (k.reg (0x640 + 8 * 7))), k.flipTaken 7) else ([], k)

/-- One codeword as a reader gets it: none when uncorrectable; the core counts it and holds it corrected (R56, R57, R262,
R263). -/
def Core.readBlock (k : Core) (w : Nat) : Option (List Byte) × Core :=
  let es := k.errsAt w
  let data := getBytes k.log.spad (64 * k.met w) 64
  if es.isEmpty then (some data, k)
  else match rsDecode 5 69 71 es with
    | none => (none, k.addFld Fld.CORE_ECC_COUNT_UNCORRECTABLE 1)
    | some left =>
      let data := withErr 5 data left
      let k := k.putBlock w 0 data
      (some data, if left = es then k else (k.addFld Fld.CORE_ECC_COUNT_CORRECTED 1).flip w)

/-- n bytes at scratchpad offset a: the offset of the first uncorrectable codeword if there is one, the bytes, the core. -/
def Core.read (k : Core) (a n : Nat) : Option Nat × List Byte × Core :=
  (rangeBlocks a n).foldl (fun r x =>
    match r.2.2.readBlock x.1 with
    | (some data, k) => (r.1, r.2.1 ++ slice data x.2.1 x.2.2, k)
    | (none, k) => (some (r.1.getD (64 * x.1)), r.2.1 ++ List.replicate x.2.2 0, k)) (none, [], k)

/-- Write part of one codeword: a whole one encodes afresh, a narrower one has no effect on an uncorrectable codeword
(R264). -/
def Core.writeBlock (k : Core) (w o : Nat) (bs : List Byte) : Bool × Core :=
  if bs.length = 64 then
    (true, (k.putBlock w 0 bs).flip w)
  else match k.readBlock w with
    | (none, k) => (false, k)
    | (some _, k) => (true, (k.putBlock w o bs).flip w)

/-- Write bytes at scratchpad offset a: the offset of the first codeword left unwritten, the core. -/
def Core.write (k : Core) (a : Nat) (bs : List Byte) : Option Nat × Core :=
  (rangeBlocks a bs.length).foldl (fun r x =>
    match r.2.writeBlock x.1 x.2.1 (slice bs (64 * x.1 + x.2.1 - a) x.2.2) with
    | (true, k) => (r.1, k)
    | (false, k) => (some (r.1.getD (64 * x.1)), k)) (none, k)

/-- After an access to core c's scratchpad: count the corrections, and an uncorrectable codeword starts the core's test
(R343, R444). -/
def Dev.afterSpad (d : Dev) (c : Nat) (k : Core) : Dev :=
  let old := d.core c
  let n := k.fld Fld.CORE_ECC_COUNT_CORRECTED - old.fld Fld.CORE_ECC_COUNT_CORRECTED
  let bad := k.fld Fld.CORE_ECC_COUNT_UNCORRECTABLE - old.fld Fld.CORE_ECC_COUNT_UNCORRECTABLE
  let was := old.fld Fld.CORE_SPAD_FLIP_ARM_APPLIED
  let d := (d.setCore c k).markW1c (coreBase c + 0x680) 8 ((was ^^^ k.fld Fld.CORE_SPAD_FLIP_ARM_APPLIED) &&& k.fld Fld.CORE_SPAD_FLIP_ARM_APPLIED)
  let d := if n = 0 then d else d.tally 0x00D 1 c (routerOf c) n
  if bad = 0 then d else d.wantTest 1 c 0 9

def Dev.spRead (d : Dev) (c a n : Nat) : Option Nat × List Byte × Dev :=
  let r := (d.core c).read a n
  (r.1, r.2.1, d.afterSpad c r.2.2)
def Dev.spWrite (d : Dev) (c a : Nat) (bs : List Byte) : Option Nat × Dev :=
  let r := (d.core c).write a bs
  (r.1, d.afterSpad c r.2)

/-! ### HBM and LPDDR -/

/-- The interleave granule 2^k (08 COB_MEM_MAP). -/
def Dev.granule (d : Dev) : Nat :=
  match d.fld Fld.COB_MEM_MAP_GRANULE with | 0 => 8 | 1 => 10 | 2 => 12 | 3 => 16 | _ => 21

/-- What a device physical address names (R29–R32). -/
inductive Loc where
  | mem (k l : Nat) | spad (id b : Nat) | hole
deriving DecidableEq, Repr

def Dev.locate (d : Dev) (a : Nat) : Loc :=
  let g := d.granule
  if a < 0x00C000000000 then .mem (a / 2 ^ g % 16) (a / 2 ^ (g + 4) * 2 ^ g + a % 2 ^ g)
  else if 0x010000000000 ≤ a && a < 0x018000000000 then
    let b := a - 0x010000000000; .mem (16 + b / 2 ^ g % 4) (b / 2 ^ (g + 2) * 2 ^ g + b % 2 ^ g)
  else if 0x200000000000 ≤ a && a < 0x210000000000 then
    let b := a - 0x200000000000
    if b % 2 ^ 36 < 48 * 2 ^ 30 then .mem (b / 2 ^ 36) (b % 2 ^ 36) else .hole
  else if 0x400000000000 ≤ a && a < 0x400000000000 + numLogical * 2 ^ 19 then
    let b := a - 0x400000000000
    if b % 2 ^ 19 < spadSize then .spad (b / 2 ^ 19) (b % 2 ^ 19) else .hole
  else .hole

/-- The interleaved address of a controller-local address (R30). -/
def Dev.interleaved (d : Dev) (k l : Nat) : Nat :=
  let g := d.granule
  if k < 16 then l / 2 ^ g * 2 ^ (g + 4) + k * 2 ^ g + l % 2 ^ g
  else 0x010000000000 + l / 2 ^ g * 2 ^ (g + 2) + (k - 16) * 2 ^ g + l % 2 ^ g

/-- The populated range an address lies in (R29): HBM, LPDDR, one alias window, one scratchpad window. -/
def rangeId (a : Nat) : Option Nat :=
  if a < 0x00C000000000 then some 0
  else if 0x010000000000 ≤ a && a < 0x018000000000 then some 1
  else if 0x200000000000 ≤ a && a < 0x210000000000 && (a - 0x200000000000) % 2 ^ 36 < 48 * 2 ^ 30 then
    some (2 + (a - 0x200000000000) / 2 ^ 36)
  else if 0x400000000000 ≤ a && a < 0x400000000000 + numLogical * 2 ^ 19 && (a - 0x400000000000) % 2 ^ 19 < spadSize then
    some (18 + (a - 0x400000000000) / 2 ^ 19)
  else none

/-- A range that lies wholly in one populated range of R29. -/
def rangeOk (a n : Nat) : Bool :=
  n = 0 || match rangeId a, rangeId (a + n - 1) with
    | some x, some y => x == y
    | _, _ => false

/-- The key of a controller-local address in the byte map. -/
def memKey (k l : Nat) : Nat := if k < 16 then k * 2 ^ 36 + l else 2 ^ 41 + (k - 16) * 2 ^ 37 + l

/-- The fold of the block at a key (R261): of stack k and stack-local L the key is k × 2^36 + L, of LPDDR controller c and L it is
2^41 + c × 2^37 + L (`memKey`). -/
def blockFold (key : Nat) : Nat := if key < 2 ^ 41 then key / 64 else 2 ^ 39 + (key - 2 ^ 41) / 64
/-- The block that an access to the block at a key meets: itself but for a decoder, row or bank-address fault (R262, log 96). -/
def Dev.memMet (d : Dev) (key : Nat) : Nat := key ^^^ 64 * NMap.get 0 d.memReach (key / 64)
/-- What the decoder of an access to the block at a key sees as errors: the stored ones and the difference of the folds. -/
def Dev.memErrsAt (d : Dev) (key : Nat) : List (Nat × Nat) :=
  let v := d.memMet key
  addErr (NMap.get [] d.memErr (v / 64)) (foldErr 8 5 (blockFold key ^^^ (NMap.get none d.memFold (v / 64)).getD (blockFold v)))
/-- Bytes at offset o of the block at a key, encoded afresh with its fold. -/
def Dev.putBlock (d : Dev) (key o : Nat) (bs : List Byte) : Dev :=
  let v := d.memMet key
  { d with mem := putBytes d.mem (v + o) bs, memErr := NMap.set [] d.memErr (v / 64) [],
           memFold := NMap.set none d.memFold (v / 64) (if blockFold key = blockFold v then none else some (blockFold key)) }

/-- Who reads or writes, and whether from another device (R211, R271, R272). -/
structure Req where
  source : Nat := 0
  remote : Bool := false
  region : Nat := 0
  core   : Nat := 0x3FFF
  node   : Nat := 0
  tag    : Nat := 0
  txn    : Nat := 0
deriving DecidableEq, Repr

def Dev.reqOf (d : Dev) (p : Packet) : Req :=
  { remote := p.srcDev ≠ d.devId, region := p.region, core := p.srcCore, node := p.src, tag := p.tag, txn := p.txn }

/-- Controllers in TRAINING or FILLING hold accesses; OFF and DOWN ones answer `unpopulated` (R267). -/
def Dev.memState (d : Dev) (k : Nat) : Nat := d.fld (Fld.HBM_STATUS_STATE.at (memBase k))

/-- The record of an uncorrectable block at address a, or the count of those that came while it is LATCHED (R271). -/
def Dev.memLatch (d : Dev) (k a : Nat) (q : Req) : Dev :=
  let b := memBase k
  if d.flag (Fld.HBM_ECC_COUNT_LATCHED.at b) then d.addFld (Fld.HBM_ECC_COUNT_EXTRA.at b) 1
  else
    let r := setF (setF (setF (setF (setF (setF 0 Fld.HBM_UE_REC0_SOURCE q.source) Fld.HBM_UE_REC0_REGION q.region)
      Fld.HBM_UE_REC0_CORE q.core) Fld.HBM_UE_REC0_NODE q.node) Fld.HBM_UE_REC0_TAG q.tag) Fld.HBM_UE_REC0_TXN q.txn
    let d := (d.setReg (b + 0x10) r).setReg (b + 0x18) (BitVec.ofNat 64 a)
    let d := (d.setReg (b + 0x20) d.now).setReg (b + 0x28) (setF (setF 0 Fld.HBM_UE_REC3_EPOCH d.epoch) Fld.HBM_UE_REC3_STEP d.stepNo)
    d.latch (Fld.HBM_ECC_COUNT_LATCHED.at b)
/-- An uncorrectable codeword at a controller: latched or counted, MEM_UE raised, the block's test due, and a step in progress
aborts when a requester on the device is answered (R271, R272, R343). -/
def Dev.memUE (d : Dev) (k l : Nat) (q : Req) : Dev :=
  let b := memBase k
  let d := d.addFld (Fld.HBM_ECC_COUNT_UNCORRECTABLE.at b) 1
  let a := d.interleaved k l
  let d := d.memLatch k a q
  let d := d.event { code := 0x301, kind := 0x0A, unit := k, region := q.region, lid := q.core, idKind := 2, id := q.tag,
                     detail := leBytes 8 a ++ leBytes 2 q.source ++ leBytes 2 q.node ++ leBytes 2 q.txn }
  let d := d.wantTest (if k < 16 then 6 else 7) (if k < 16 then k else k - 16) (l / 64) 0
  if q.source = 0 && !q.remote then d.abortStep else d

/-- An armed flip mask takes the write of block l (R266). -/
def Dev.memFlip (d : Dev) (k l : Nat) : Dev :=
  let b := memBase k
  if d.flag (Fld.HBM_FLIP_CTRL_ARM.at b) &&
      (!d.flag (Fld.HBM_FLIP_CTRL_MATCH_EN.at b) || d.fld (Fld.HBM_FLIP_CTRL_BLOCK.at b) == l / 64) then
    let d := (d.setFld (Fld.HBM_FLIP_CTRL_ARM.at b) 0).latch (Fld.HBM_FLIP_CTRL_APPLIED.at b)
    let d := d.setFld (Fld.HBM_FLIP_CTRL_BLOCK.at b) (l / 64)
    let w := d.memMet (memKey k l) / 64
    { d with memErr := NMap.set [] d.memErr w (addErr (NMap.get [] d.memErr w)
                         (flipSlots (d.reg (b + 0x40)) ++ flipSlots (d.reg (b + 0x48)))) }
  else d

/-- What a stack reports beside the next read (R244): 0 nothing, 1 and 2 its on-die code corrected or failed, which it counts, 3 a
command that met four parity errors. -/
def Dev.takeDram (d : Dev) (k : Nat) : Nat × Dev :=
  let m := d.memc k
  match (if k < 16 then m.dram else []) with
  | [] => (0, d)
  | x :: xs =>
    let d := d.setMemc k { m with dram := xs }
    (x, if x = 1 then d.addFld (Fld.HBM_STATUS_ODECC_CORRECTED.at (memBase k)) 1
        else if x = 2 then d.addFld (Fld.HBM_STATUS_ODECC_FAILED.at (memBase k)) 1 else d)

/-- One block under the device code as a reader gets it (R262, R263): corrected and written back, or none and recorded. -/
def Dev.decodeBlock (d : Dev) (k l : Nat) (q : Req) : Option (List Byte) × Dev :=
  let key := memKey k l
  let es := d.memErrsAt key
  let data := getBytes d.mem (d.memMet key) 64
  let m := d.memc k
  if es.isEmpty then
    (some data, if m.suspect.contains l then d.setMemc k { m with suspect := m.suspect.filter (· ≠ l) } else d)
  else match rsDecode 8 72 77 es with
    | none => (none, d.memUE k l q)
    | some left =>
      let data := withErr 8 data left
      let d := d.putBlock key 0 data
      if left = es then (some data, d)
      else
        let d := ((d.addFld (Fld.HBM_ECC_COUNT_CORRECTED.at (memBase k)) 1).tally 0x202 0x0A k 0 1).memFlip k l
        if m.suspect.contains l then
          let d := d.event { code := 0x300, kind := 0x0A, unit := k, detail := leBytes 8 (d.interleaved k l) }
          (some data, d.wantTest (if k < 16 then 6 else 7) (if k < 16 then k else k - 16) (l / 64) 0)
        else (some data, d.setMemc k { m with suspect := m.suspect ++ [l] })

/-- One block as a reader gets it; a fourth parity failure of its command is an uncorrectable read (R244). -/
def Dev.memReadBlock (d : Dev) (k l : Nat) (q : Req) : Option (List Byte) × Dev :=
  let r := d.takeDram k
  if r.1 = 3 then (none, r.2.memUE k l q) else r.2.decodeBlock k l q

/-- Write part of a block (R264). -/
def Dev.memWriteBlock (d : Dev) (k l o : Nat) (bs : List Byte) (q : Req) : Bool × Dev :=
  let key := memKey k l
  if bs.length = 64 then
    (true, (d.putBlock key 0 bs).memFlip k l)
  else match d.memReadBlock k l { q with source := 3 } with
    | (none, d) => (false, d)
    | (some _, d) => (true, (d.putBlock key o bs).memFlip k l)

/-- A remap entry of a block whose copy runs (R265). -/
def Dev.remapBusy (d : Dev) (k l : Nat) : Bool :=
  d.regs.any fun e => decide (memBase k + 0x1000 ≤ e.1) && decide (e.1 < memBase k + 0x1800) && bit e.2 63 != bit e.2 62 &&
    bits e.2 36 6 == l / 64

/-- Whether the accesses of a range must wait, or which error a range of HBM or LPDDR draws before any block is met. -/
def Dev.memCheck (d : Dev) (a n : Nat) : Res Unit :=
  let ks := (rangeBlocks a n).filterMap fun x => match d.locate (64 * x.1) with | .mem k l => some (k, l) | _ => none
  if ks.any fun x => d.memState x.1 == 0 || d.memState x.1 == 4 then .err 0x83
  else if ks.any fun x => d.memState x.1 ≠ 3 || d.remapBusy x.1 x.2 || d.blockTest x.1 (x.2 / 64) then .wait else .ok ()

/-- The checks of an addressed access to a logical core's scratchpad (R32, R60, R63, R66, R233, R351, R352). -/
def Dev.spadCheck (d : Dev) (id b n : Nat) : Res Nat :=
  if id ≥ numLogical then .err 0x81
  else match d.hostOf id with
    | none => .err 0x8D
    | some c =>
      let k := d.core c
      if k.sil.testing then .err 0x90
      else if d.coreHeld c then .wait
      else if b + n > spadSize then .err 0x83
      else if k.anyBank b n 1 then .err 0x85
      else if b + n > k.spillBase then .err 0x86
      else if k.anyBank b n 2 then .wait else .ok c

/-- An addressed read of n bytes at a device physical address. -/
def Dev.devRead (d : Dev) (q : Req) (a n : Nat) : Res (List Byte) × Dev :=
  if !rangeOk a n then (.err 0x83, d)
  else match d.locate a with
    | .hole => (.err 0x83, d)
    | .spad id b =>
      match d.spadCheck id b n with
      | .err r => (.err r, d)
      | .wait => (.wait, d)
      | .ok c => match d.spRead c b n with
        | (none, bs, d) => (.ok bs, d)
        | (some _, _, d) => (.err 0x84, if q.remote then d else d.abortStep)
    | .mem _ _ =>
      match d.memCheck a n with
      | .err r => (.err r, d)
      | .wait => (.wait, d)
      | .ok _ => (rangeBlocks a n).foldl (fun r x =>
          match d.locate (64 * x.1) with
          | .mem k l =>
            match r.2.memReadBlock k l q with
            | (some data, d) =>
              let d := d.tally 0x200 0x0A k 0 1
              (match r.1 with | .ok bs => .ok (bs ++ slice data x.2.1 x.2.2) | e => e, d)
            | (none, d) => (.err 0x84, d)
          | _ => r) (.ok [], d)

/-- An addressed write of bytes at a device physical address (R264 for uncorrectable blocks). -/
def Dev.devWrite (d : Dev) (q : Req) (a : Nat) (bs : List Byte) : Res Unit × Dev :=
  if !rangeOk a bs.length then (.err 0x83, d)
  else match d.locate a with
    | .hole => (.err 0x83, d)
    | .spad id b =>
      match d.spadCheck id b bs.length with
      | .err r => (.err r, d)
      | .wait => (.wait, d)
      | .ok c => match d.spWrite c b bs with
        | (none, d) => (.ok (), d)
        | (some _, d) => (.err 0x84, d)
    | .mem _ _ =>
      match d.memCheck a bs.length with
      | .err r => (.err r, d)
      | .wait => (.wait, d)
      | .ok _ => (rangeBlocks a bs.length).foldl (fun r x =>
          match d.locate (64 * x.1) with
          | .mem k l =>
            match r.2.memWriteBlock k l x.2.1 (slice bs (64 * x.1 + x.2.1 - a) x.2.2) q with
            | (true, d) => (r.1, d.tally 0x201 0x0A k 0 1)
            | (false, d) => (.err 0x84, d)
          | _ => r) (.ok (), d)

end Sys2Proof.Machine
end

