-- ==== Sys2Proof/Machine/Streams.lean ====
section
/-!
DEFINITION. Stitch queues, credits and stream counters (06 R175–R190): what the sequencer, the routers and Eddy watch share.
A stream q of a core is 8 × link + stream; links are 0 N, 1 E, 2 S, 3 W; outputs are LOCAL 0, N 1, E 2, S 3, W 4.
-/
namespace Sys2Proof.Machine

/-! ### Words and parity (R174, R175) -/

/-- Byte i of a line. -/
def lineByte (x : Line) (i : Nat) : Byte := x.extractLsb' (8 * i) 8
def lineBytes (x : Line) : List Byte := (List.range 64).map (lineByte x)
def lineOf (bs : List Byte) : Line := BitVec.ofNat 512 (ofBytes (bs.take 64))
/-- A word of the spill ring as Eddy watch or the scrubber reads it: none when uncorrectable; the core counts it and the ring holds it
corrected (R262, R263, R269). -/
def Core.ringRead (k : Core) (u : SWord) : Option SWord × Core :=
  if u.errs.isEmpty then (some u, k)
  else match rsDecode 5 69 71 u.errs with
    | none => (none, k.addFld Fld.CORE_ECC_COUNT_UNCORRECTABLE 1)
    | some left =>
      (some { u with w := { u.w with data := lineOf (withErr 5 (lineBytes u.w.data) left) }, errs := [] },
       if left = u.errs then k else k.addFld Fld.CORE_ECC_COUNT_CORRECTED 1)

/-- Whether a number of w bits holds an odd number of ones. -/
def oddOnes (w x : Nat) : Bool := (List.range w).foldl (fun b i => b != x.testBit i) false
/-- The parity bits that make each byte odd. -/
def parOf (x : Line) : BitVec 64 :=
  BitVec.ofNat 64 ((List.range 64).foldl (fun a i => if oddOnes 8 (lineByte x i).toNat then a else a + 2 ^ i) 0)
/-- The parity of KIND, STREAM, GEN, EPOCH and SEQ. -/
def cparOf (kind stream gen epoch seq : Nat) : Bool :=
  !(oddOnes 13 (kind + stream * 4 + gen * 32 + epoch * 128 + seq * 512))
def StitchWord.dataOk (w : StitchWord) : Bool := w.par == parOf w.data
def StitchWord.ctlOk (w : StitchWord) : Bool := w.cpar == cparOf w.kind w.stream w.gen w.epoch w.seq

/-! ### Queues, routes, counters -/

def LCore.inQ (l : LCore) (q : Nat) : InQ := NMap.get {} l.inq q
def LCore.outQ (l : LCore) (q : Nat) : OutQ := NMap.get {} l.outq q
def Core.setInQ (k : Core) (q : Nat) (x : InQ) : Core := { k with log := { k.log with inq := NMap.set {} k.log.inq q x } }
def Core.setOutQ (k : Core) (q : Nat) (x : OutQ) : Core := { k with log := { k.log with outq := NMap.set {} k.log.outq q x } }

/-- CFG_GEN (R186). -/
def Core.gen (k : Core) : Nat := k.fld Fld.CORE_STITCH_GEN_CFG_GEN
/-- The entry of a bank for inbound stream q (R180). -/
def Core.route (k : Core) (bank q : Nat) : Word := k.reg (0x200 + 8 * (32 * (bank % 2) + q))
/-- The outputs of a valid entry: bit 0 LOCAL, 1–4 the links; 0 for an invalid one. -/
def routeMask (e : Word) : Nat := if bit e 63 then bits e 59 55 else 0
def routeStream (e : Word) : Nat := bits e 54 52
/-- Whether a valid entry of a bank drives outbound stream q (R183). -/
def Core.drives (k : Core) (bank q : Nat) : Bool :=
  (List.range 32).any fun i => let e := k.route bank i; nbit (routeMask e) (1 + q / 8) && routeStream e == q % 8

/-- Words a counter bound to inbound stream q counts: tagged CFG_GEN, ahead of the first seal, on an entry with LOCAL, not
yet taken by the core (R49, R188). -/
def Core.inCount (k : Core) (q : Nat) : Nat :=
  let g := k.gen % 4
  if !nbit (routeMask (k.route g q)) 0 then 0
  else (((k.log.inQ q).q.takeWhile fun x => x.w.kind == 0).filter fun x => x.w.gen == g && !nbit x.taken 0).length
/-- Credits a counter bound to outbound stream q reads (R103, R198). -/
def Core.outCount (k : Core) (q : Nat) : Nat :=
  let o := k.log.outQ q; if o.wait.isEmpty then min o.credits 8 else 0
def LCore.mqueue (l : LCore) (n : Nat) : List Line := NMap.get [] l.mq n
def LCore.bound (l : LCore) (n : Nat) : Bind := NMap.get .unbound l.sc n
/-- The value of stream counter n. -/
def Core.counter (k : Core) (n : Nat) : Nat :=
  match k.log.bound n with
  | .unbound => 0
  | .inS q => k.inCount q
  | .outS q => k.outCount q
  | .mq m => (k.log.mqueue m).length

/-- Drop from the head every word all outputs of its entry have taken (R181): the words that left. -/
def popTaken (mask : StitchWord → Nat) : List SWord → List SWord × List SWord
  | [] => ([], [])
  | x :: l => if mask x.w &&& x.taken == mask x.w then ((x :: (popTaken mask l).1), (popTaken mask l).2) else ([], x :: l)

/-- One output takes the first word it has not taken that `ok` allows, marking it. -/
def markFirst (out : Nat) (ok : StitchWord → Bool) : List SWord → Option (StitchWord × List SWord)
  | [] => none
  | x :: l =>
    if !nbit x.taken out && ok x.w then some (x.w, { x with taken := x.taken + 2 ^ out } :: l)
    else (markFirst out ok l).map fun r => (r.1, x :: r.2)

/-- The Welt engine and edge link that a link of a core ends at: N of logical row 0, S of logical row 95 (R27). -/
def Dev.edgeOf (d : Dev) (c link : Nat) : Option (Nat × Nat) :=
  match d.lidOf c with
  | some l =>
    if link = 0 && l / 128 == 0 then some (l % 128 / 16, l % 16)
    else if link = 2 && l / 128 == 95 then some (8 + l % 128 / 16, l % 16)
    else none
  | none => none

/-- Stream `st` of edge link `b` of engine `e`. -/
def Dev.edge (d : Dev) (e b st : Nat) : Edge := NMap.get {} (d.memc e).edges (8 * b + st)
def Dev.setEdge (d : Dev) (e b st : Nat) (x : Edge) : Dev :=
  let m := d.memc e; d.setMemc e { m with edges := NMap.set {} m.edges (8 * b + st) x }

/-- Return the credit of a word that left the queue of stream q (R184): to the neighbour, or to the engine of an edge link,
which takes it with the stream's generation or one less. -/
def Dev.giveCredit (d : Dev) (c q count gen : Nat) : Dev :=
  match d.edgeOf c (q / 8) with
  | some (e, b) =>
    let x := d.edge e b (q % 8)
    if gen = x.gen || (gen + 1) % 4 = x.gen then d.setEdge e b (q % 8) { x with credits := x.credits + count } else d
  | none => d.emit (.credit c (q / 8) (q % 8) count gen)

/-- An engine takes in a word of an edge link as a receiving stream without entries: the arrival generation or the next one,
any other word is discarded with its credit (R187, R255). -/
def Dev.edgeArrival (d : Dev) (e b : Nat) (w : StitchWord) : Dev :=
  let x := d.edge e b w.stream
  if w.kind ≤ 1 && (w.gen = x.agen || w.gen = (x.agen + 1) % 4) then
    d.setEdge e b w.stream { x with inq := x.inq ++ [w], agen := if w.kind = 1 then (w.gen + 1) % 4 else w.gen }
  else d.emit (.edgeCredit e b w.stream 1 w.gen)

/-- Words leave the head of queue q once all outputs have them; each returns its credit. -/
def Dev.popQueue (d : Dev) (c q : Nat) : Dev :=
  let k := d.core c; let x := k.log.inQ q
  let r := popTaken (fun w => routeMask (k.route w.gen q)) x.q
  r.1.foldl (fun d w => d.giveCredit c q 1 w.w.gen) (d.setCore c (k.setInQ q { x with q := r.2 }))

/-- The first n words the counter of stream q counts. -/
def Core.headWords (k : Core) (q n : Nat) : List StitchWord :=
  ((((k.log.inQ q).q.takeWhile fun x => x.w.kind == 0).filter fun x => x.w.gen == k.gen % 4 && !nbit x.taken 0).take n).map
    SWord.w

/-- LOCAL takes the first n counted words of stream q (R181, R188). -/
def Dev.takeLocal (d : Dev) (c q : Nat) : Nat → Dev
  | 0 => d.popQueue c q
  | n + 1 =>
    let k := d.core c; let x := k.log.inQ q
    match markFirst 0 (fun w => w.gen == k.gen % 4 && w.kind == 0) x.q with
    | some r => (d.setCore c (k.setInQ q { x with q := r.2 })).takeLocal c q n
    | none => d.popQueue c q

/-! ### Sending -/

/-- Put a word on the link of outbound stream q, with the stream's own generation or a forwarded word's (R174–R176, R179,
R186): stamped, kept for replay, counted. -/
def Dev.sendWord (d : Dev) (c q kind gen : Nat) (data : Line) (par : BitVec 64) : Dev :=
  let k := d.core c; let link := q / 8
  let seq := NMap.get 0 k.sil.txSeq link
  let w : StitchWord := { data, par, kind, stream := q % 8, gen, epoch := d.epoch % 4, seq,
                          cpar := cparOf kind (q % 8) gen (d.epoch % 4) seq }
  let k := { k with sil := { k.sil with txSeq := NMap.set 0 k.sil.txSeq link ((seq + 1) % 8),
                                        tx := NMap.set [] k.sil.tx link ((NMap.get [] k.sil.tx link ++ [w]).drop
                                          ((NMap.get [] k.sil.tx link).length + 1 - 8)) } }
  let d := d.setCore c k
  let d := match d.edgeOf c link with | some (e, b) => d.edgeArrival e b w | none => d.emit (.word c link ((d.mapAt w.epoch).neighbour c link) w)
  d.tally 0x009 1 c (routerOf c) 1

/-- Take n credits of outbound stream q. -/
def Dev.useCredits (d : Dev) (c q n : Nat) : Dev :=
  d.modCore c fun k => let o := k.log.outQ q; k.setOutQ q { o with credits := o.credits - n }

/-- A data word of the core itself on outbound stream q, its credit already taken. -/
def Dev.sendData (d : Dev) (c q : Nat) (data : Line) : Dev :=
  d.sendWord c q 0 ((d.core c).log.outQ q).gen data (parOf data)

/-- A seal of the core on outbound stream q: it carries the generation before the advance (R186) and takes one credit. -/
def Dev.sendSeal (d : Dev) (c q : Nat) : Dev :=
  let g := ((d.core c).log.outQ q).gen
  let d := d.sendWord c q 1 g 0 (parOf 0)
  d.modCore c fun k => let o := k.log.outQ q; k.setOutQ q { o with credits := o.credits - 1, gen := (g + 1) % 4 }

end Sys2Proof.Machine
end

