-- ==== Sys2Proof/Machine/Adder.lean ====
section
/-!
DEFINITION. The arithmetic of contributions, shared by routers, confluence queues and Ford ports (07 R222, R223, R239; 09 R289; 10
R304–R308): units, packed blocks, the residue check, and the packet a merge makes.
-/
namespace Sys2Proof.Machine

/-- Bytes of a unit of a KIND: 0 exponent, 1 wide, 2 narrow. -/
def unitLen (kind : Nat) : Nat := match kind with | 0 => 64 | 1 => 384 | _ => 256
/-- Bytes of an integer of a packed block. -/
def elemLen (kind : Nat) : Nat := if kind = 2 then 3 else 5
def blkInts (kind : Nat) (b : List Byte) : List Int :=
  let z := elemLen kind
  (List.range 64).map fun i => signed (8 * z) (ofBytes (slice b (z * i) z))
def blkResid (kind : Nat) (b : List Byte) : Nat := byteAt b (64 * elemLen kind)
def blkFlags (kind : Nat) (b : List Byte) : Nat := byteAt b (64 * elemLen kind + 1)
/-- A packed block from its parts (Table — Packed block). -/
def mkBlk (kind : Nat) (ns : List Int) (resid flags : Nat) : List Byte :=
  let z := elemLen kind
  (ns.flatMap fun n => leBytes z (wrap (8 * z) n)) ++ [BitVec.ofNat 8 resid, BitVec.ofNat 8 flags] ++
    List.replicate (unitLen kind - 64 * z - 2) 0

/-- (Σ n_i) mod 127 (R308). -/
def residueOf (ns : List Int) : Nat := ((ns.foldl (· + ·) 0) % 127).toNat

/-- Two integers added in two's complement of the width. -/
def addWrap (w : Nat) (x y : Int) : Int := signed w (wrap w (x + y))

/-- Two units added: the byte-wise maximum of exponent units; the sums, the residue check and the ORed flags of blocks, with bit 2
on a fault (R223, R308). The Bool says a residue fault was found. -/
def addUnits (kind : Nat) (a b : List Byte) : List Byte × Bool :=
  if kind = 0 then ((a.zip b).map fun x => BitVec.ofNat 8 (max x.1.toNat x.2.toNat), false)
  else
    let ns := ((blkInts kind a).zip (blkInts kind b)).map fun x => addWrap (8 * elemLen kind) x.1 x.2
    let ra := blkResid kind a
    let rb := blkResid kind b
    let r := (ra + rb) % 127
    let bad := decide (126 < ra) || decide (126 < rb) || r ≠ residueOf ns
    (mkBlk kind ns r (blkFlags kind a ||| blkFlags kind b ||| (if bad then 4 else 0)), bad)

/-- The flag byte of a unit; an exponent unit has none. -/
def unitFlags (kind : Nat) (b : List Byte) : Nat := if kind = 0 then 0 else blkFlags kind b

/-- Whether two contributions may merge (R222). -/
def mergeable (p q : Packet) : Bool :=
  p.ptype == .contrib && q.ptype == .contrib && p.con.mergeOk && q.con.mergeOk && p.dstDev == q.dstDev && p.dst == q.dst &&
  p.tag == q.tag && p.aux == q.aux && p.step8 == q.step8 && p.con.kind == q.con.kind

/-- The input whose source the merged packet names: flag bit 4 first, then bit 0, then the older (R222). -/
def mergeSource (p q : Packet) : Packet :=
  let f := fun (x : Packet) (i : Nat) => nbit (unitFlags x.con.kind x.payload) i
  if f p 4 ≠ f q 4 then (if f p 4 then p else q)
  else if f p 0 ≠ f q 0 then (if f p 0 then p else q) else p

/-- The packet that stands for the older `p` and the newer `q`, from merge entry `entry` of a unit at `node` (R222–R224); whether
its residue check failed. -/
def mergePackets (node dev entry : Nat) (p q : Packet) : Packet × Bool :=
  let sum := addUnits p.con.kind p.payload q.payload
  let src := mergeSource p q
  ({ p with payload := sum.1, src := node, srcDev := dev, txn := entry, srcCore := src.srcCore,
            con := { p.con with count := p.con.count + q.con.count, merged := true, origin := src.con.origin } }, sum.2)

/-- A residue fault of an adder: REDUCTION_ADDER names the unit, TAG, AUX and the step; a step in progress aborts (R223, R308). -/
def Dev.adderFault (d : Dev) (kind unit : Nat) (p : Packet) : Dev :=
  let d := d.event { code := 0x202, kind, unit, lid := p.srcCore, region := p.region, idKind := 2, id := p.tag,
                     detail := leBytes 4 p.aux }
  let d := if kind = 3 || kind = 4 then d.wantTest kind unit 0 0 else d
  { d with step := { d.step with adders := d.step.adders + 1 } }.abortStep

/-- A free merge entry of the 64 of a unit (R224). -/
def freeMerge (m : NMap (Option Merge)) : Option Nat := (List.range 64).find? fun i => (NMap.get none m i).isNone

/-- What a merge entry records of an input. -/
def mergeIn (p : Packet) : Nat × Nat × Nat := (p.src, p.srcDev, p.txn)

/-- The copy of an answer for one input of a merge (R224). -/
def mergeCopy (p : Packet) (x : Nat × Nat × Nat) : Packet := { p with dst := x.1, dstDev := x.2.1, txn := x.2.2 }

end Sys2Proof.Machine
end

