-- ==== Sys2Proof/Machine/Operands.lean ====
section
/-!
DEFINITION. The instruction word and every operand form (03 R73, R78): fields, registers, effective addresses, scratchpad
ranges and stream references.
-/
namespace Sys2Proof.Machine

/-! ### Fields of the instruction word (Table — Common fields, Table — Operand formats) -/

def opcodeOf (w : Word) : Nat := bits w 63 56
/-- Slot i (1 or 2): whether it is in use, its counter, its required count, whether an unused one is clean. -/
def slotOn (w : Word) (i : Nat) : Bool := if i = 1 then bit w 55 else bit w 46
def slotCtr (w : Word) (i : Nat) : Nat := if i = 1 then bits w 54 52 else bits w 45 43
def slotCount (w : Word) (i : Nat) : Nat := (if i = 1 then bits w 51 47 else bits w 42 38) + 1
def slotClean (w : Word) (i : Nat) : Bool := slotOn w i || (slotCtr w i == 0 && slotCount w i == 1)

/-- The slots in use, as (slot, counter, count). -/
def slotsOf (w : Word) : List (Nat × Nat × Nat) :=
  ([1, 2].filter (slotOn w)).map fun i => (i, slotCtr w i, slotCount w i)

/-- Bits [37:33] and so on: SD of most formats, SA of STR, MSG and MAT. -/
def rD (w : Word) : Nat := bits w 37 33
def rA (w : Word) : Nat := bits w 32 28
def rB (w : Word) : Nat := bits w 27 23
def rN (w : Word) : Nat := bits w 22 18
def rT (w : Word) : Nat := bits w 17 13
def fTarget (w : Word) : Nat := bits w 11 0
def fImm (w : Word) : Nat := bits w 27 0
def fOff (w : Word) : Int := signed 19 (bits w 18 0)
/-- MEM: SIZE, RT, CT. -/
def fSize (w : Word) : Nat := bits w 27 25
def fRT (w : Word) : Bool := bit w 24
def fMemCT (w : Word) : Nat := bits w 23 19
/-- VEC. -/
def vDS (w : Word) : Bool := bit w 37
def vVD (w : Word) : Nat := bits w 36 33
def vAS (w : Word) : Bool := bit w 32
def vVA (w : Word) : Nat := bits w 31 28
def vBS (w : Word) : Bool := bit w 27
def vVB (w : Word) : Nat := bits w 26 23
def vVC (w : Word) : Nat := bits w 22 19
def vPG (w : Word) : Nat := bits w 18 16
def vSS (w : Word) : Nat := bits w 15 11
def vFN (w : Word) : Nat := bits w 10 8
def vLane (w : Word) : Nat := bits w 7 4
/-- VMS: FN and SX; the element count's register is `rN`, the tag `rT`. -/
def mFN (w : Word) : Nat := bits w 12 5
def mSX (w : Word) : Nat := bits w 4 0
/-- MAT: AD, FMT, Z, LS, SM; SK is `rB`, the tag `rT`. -/
def aAD (w : Word) : Nat := bits w 22 21
def aFMT (w : Word) : Nat := bits w 20 18
def aZ (w : Word) : Bool := bit w 12
def aLS (w : Word) : Bool := bit w 11
def aSM (w : Word) : Nat := bits w 10 6
/-- STR: SC, k = KM1 + 1, SRC, CT, SM. -/
def tSC (w : Word) : Nat := bits w 32 30
def tK (w : Word) : Nat := bits w 29 27 + 1
def tSRC (w : Word) : Nat := bits w 26 20
def tCT (w : Word) : Nat := bits w 19 15
def tSM (w : Word) : Nat := bits w 14 10
/-- MSG: TAG, CT, SC, VD. -/
def gTAG (w : Word) : Nat := bits w 27 16
def gCT (w : Word) : Nat := bits w 15 11
def gSC (w : Word) : Nat := bits w 10 8
def gVD (w : Word) : Nat := bits w 7 4

/-- Whether a bit of [37:0] outside the listed (high, low) fields is set (R78). -/
def strayBit (used : List (Nat × Nat)) (w : Word) : Bool :=
  (List.range 38).any fun i => bit w i && !(used.any fun f => decide (f.2 ≤ i) && decide (i ≤ f.1))

/-- The opcodes of Table — Opcodes (R79). -/
def definedOp (o : Nat) : Bool :=
  decide (o ≤ 8) || (decide (0x10 ≤ o) && decide (o ≤ 0x2B)) || (decide (0x30 ≤ o) && decide (o ≤ 0x34)) ||
  (decide (0x40 ≤ o) && decide (o ≤ 0x4D)) || (decide (0x50 ≤ o) && decide (o ≤ 0x59)) ||
  (decide (0x5C ≤ o) && decide (o ≤ 0x5E)) || (decide (0x60 ≤ o) && decide (o ≤ 0x62)) ||
  (decide (0x70 ≤ o) && decide (o ≤ 0x75)) || (decide (0x78 ≤ o) && decide (o ≤ 0x7C)) || o == 0x80 || o == 0x81

/-! ### Registers (R34) -/

def LCore.sreg (l : LCore) (n : Nat) : Word := NMap.get 0 l.s n
def LCore.setS (l : LCore) (n : Nat) (x : Word) : LCore := { l with s := NMap.set 0 l.s n x }
def LCore.vreg (l : LCore) (n : Nat) : Line := NMap.get 0 l.v n
def LCore.setV (l : LCore) (n : Nat) (x : Line) : LCore := { l with v := NMap.set 0 l.v n x }
/-- p0 always reads FFFFh and ignores writes. -/
def LCore.preg (l : LCore) (n : Nat) : BitVec 16 := if n = 0 then 0xFFFF else NMap.get 0 l.p n
def LCore.setP (l : LCore) (n : Nat) (x : BitVec 16) : LCore := if n = 0 then l else { l with p := NMap.set 0 l.p n x }
def LCore.loopCtr (l : LCore) (n : Nat) : Nat := NMap.get 0 l.lc n
def LCore.setLC (l : LCore) (n x : Nat) : LCore := { l with lc := NMap.set 0 l.lc n (x % 2 ^ 20) }
def LCore.tagStatus (l : LCore) (t : Nat) : Nat := NMap.get 0 l.ctStat t
def LCore.pending (l : LCore) (t : Nat) : Bool := nbit l.ctPend t
def LCore.tile (l : LCore) (n : Nat) : Tile := NMap.get {} l.tiles n
def LCore.setTile (l : LCore) (n : Nat) (x : Tile) : LCore := { l with tiles := NMap.set {} l.tiles n x }
/-- Change the logical core that physical core c holds. -/
def Dev.modLog (d : Dev) (c : Nat) (f : LCore → LCore) : Dev := d.modCore c fun k => { k with log := f k.log }

/-- Lane i of a line, and a line of 16 lanes. -/
def lane (x : Line) (i : Nat) : Lane := x.extractLsb' (32 * i) 32
def lanes (x : Line) : List Lane := (List.range 16).map (lane x)
def ofLanes (l : List Lane) : Line :=
  BitVec.ofNat 512 ((l.take 16).foldr (fun x a => x.toNat + 2 ^ 32 * a) 0)

/-! ### Effective addresses and scratchpad ranges -/

/-- What a core's effective address names (R54, Table — Core address decode). -/
inductive Ea where
  | own (b : Nat) | remote (id b : Nat) | bad (code : Nat)
deriving DecidableEq, Repr

def decodeEa (lid a : Nat) : Ea :=
  if a < 0x60000 then .own a
  else if a < 0x80000 then .bad 2
  else if a < 0x00C000000000 then .bad 3
  else if 0x010000000000 ≤ a && a < 0x018000000000 then .bad 3
  else if 0x200000000000 ≤ a && a < 0x210000000000 && (a - 0x200000000000) % 2 ^ 36 < 48 * 2 ^ 30 then .bad 3
  else if 0x7F0000000000 ≤ a && a < 0x7F0100000000 then .bad 3
  else if 0x400000000000 ≤ a && a < 0x400000000000 + 12288 * 2 ^ 19 then
    let b := a - 0x400000000000
    if b % 2 ^ 19 ≥ 0x60000 then .bad 2
    else if b / 2 ^ 19 = lid then .own (b % 2 ^ 19) else .remote (b / 2 ^ 19) (b % 2 ^ 19)
  else .bad 2

/-- The own-scratchpad offset of n bytes at an address that lie there under one name (R90). -/
def ownRange (lid a n : Nat) : Option Nat :=
  match decodeEa lid a with
  | .own b => if b + n ≤ 0x60000 then some b else none
  | _ => none

/-- A scratchpad range an instruction reads or writes: its address, length, the alignment of its start. -/
structure Rng where
  a     : Nat
  n     : Nat
  align : Nat
deriving DecidableEq, Repr

/-- The errors of a range at issue, as (code, address): out of the own scratchpad, misplaced, in the spill ring, in a gated
bank (R90, R102). -/
def Core.rngErrs (k : Core) (lid : Nat) (r : Rng) : List (Nat × Nat) :=
  if r.n = 0 then []
  else
    (if r.a % r.align ≠ 0 then [(4, r.a)] else []) ++
    match ownRange lid r.a r.n with
    | none => [(2, r.a)]
    | some b =>
      (if b + r.n > k.spillBase then [(5, r.a)] else []) ++ (if k.anyBank b r.n 1 then [(6, r.a)] else [])

/-- Whether a range must wait: a waking bank, or bytes of a stream move in progress (R63, R87). -/
def Core.rngHeld (k : Core) (lid : Nat) (r : Rng) : Bool :=
  match ownRange lid r.a r.n with
  | some b => k.anyBank b r.n 2 || k.log.moves.any fun m => decide (b < m.hi) && decide (m.lo < b + r.n)
  | none => false

/-- Whether two ranges overlap at different starts (R91). -/
def overlapBad (lid : Nat) (dst src : Rng) : Bool :=
  dst.n ≠ 0 && src.n ≠ 0 &&
  match ownRange lid dst.a dst.n, ownRange lid src.a src.n with
  | some x, some y => x ≠ y && decide (x < y + src.n) && decide (y < x + dst.n)
  | _, _ => false

end Sys2Proof.Machine
end

