-- ==== Sys2Proof/Machine/Flags.lean ====
section
/-!
DEFINITION. Conditions. The core has no condition flags (03): a branch compares registers, a completion tag carries a
status, and a loop's end decides the next instruction.
-/
namespace Sys2Proof.Machine

/-- COND of `br` (Table — Small field codes). -/
def condHolds (cond : Nat) (a b : Word) : Bool :=
  match cond with
  | 0 => a == b
  | 1 => a != b
  | 2 => a.slt b
  | 3 => !a.slt b
  | 4 => a.ult b
  | 5 => !a.ult b
  | _ => true

/-- The end of loop bodies at `last`, innermost first: the loops left, their counters and the next pc (R82). -/
def loopEnd : List Loop → NMap Nat → Nat → List Loop × NMap Nat × Nat
  | [], lc, last => ([], lc, last + 1)
  | l :: ls, lc, last =>
    if l.stop = last then
      let n := (NMap.get 0 lc l.k + 2 ^ 20 - 1) % 2 ^ 20
      let lc := NMap.set 0 lc l.k n
      if n ≠ 0 then (l :: ls, lc, l.start) else loopEnd ls lc last
    else (l :: ls, lc, last + 1)

/-- The loops a taken branch to `t` leaves active (R82). -/
def loopsAt (t : Nat) : List Loop → List Loop
  | [] => []
  | l :: ls => if l.start ≤ t ∧ t ≤ l.stop then l :: ls else loopsAt t ls

/-- The next pc and loops of a core whose instruction ends at `last`, or branches to `t`. -/
def LCore.advance (l : LCore) (last : Nat) (t : Option Nat) : LCore :=
  match t with
  | some t => { l with loops := loopsAt t l.loops, pc := t }
  | none => let r := loopEnd l.loops l.lc last; { l with loops := r.1, lc := r.2.1, pc := r.2.2 }

end Sys2Proof.Machine
end

