-- ==== Sys2Proof/Machine/Issue.lean ====
section
/-!
DEFINITION. The sequencer (02 R40–R50, 03 R73–R77): one attempt to issue the instruction at pc in one core cycle, shared by
every core instruction. An `OpDef` says what one opcode adds: its fields, condition, registers, tags, errors and effect.
-/
namespace Sys2Proof.Machine

/-- An instruction at pc: the physical core, its word and pc, the logical id, the step number in force, the core as it stands,
whether its matrix and vector units are held in this core cycle (15 R434), and the words its own condition and its slots 1 and 2 name at
the front of their streams (R76). -/
structure Iss where
  c    : Nat
  step : Nat
  w    : Word
  pc   : Nat
  lid  : Nat
  k    : Core
  slow : Bool := false
  own  : List Line := []
  got1 : List Line := []
  got2 : List Line := []

def Iss.s (i : Iss) (n : Nat) : Word := i.k.log.sreg n
def Iss.v (i : Iss) (n : Nat) : Line := i.k.log.vreg n

/-- What one opcode adds to the common issue sequence. `used` lists its operand fields, `own` its own counter and count,
`want` the sources that counter may have, `bad` the codes its own rule leaves undefined, `nsrc` the vector operands a stream
may feed, `uses` the registers it reads or writes, `tiles` those it writes, `late` the errors that need register values,
`held` condition (d), `run` its effect, `next` a taken branch's target, `last` where it ends in the loop sense (R82). -/
structure OpDef where
  code  : Nat
  used  : Word → List (Nat × Nat)
  own   : Word → Option (Nat × Nat) := fun _ => none
  want  : Bind → Bool := fun _ => true
  bad   : Iss → Bool := fun _ => false
  isVec : Bool := false
  nsrc  : Nat := 0
  uses  : Word → List Reg := fun _ => []
  tiles : Word → List Nat := fun _ => []
  tags  : Word → List Nat := fun _ => []
  isWait : Bool := false
  late  : Iss → List (Nat × Nat) := fun _ => []
  held  : Iss → Bool := fun _ => false
  run   : Iss → Dev → Dev := fun _ d => d
  next  : Iss → Option Nat := fun _ => none
  last  : Iss → Nat := fun i => i.pc

/-! ### Conditions -/

/-- The matrix and vector units of a core are held in this core cycle: throttle level L takes the first L of every 16 (15 R434,
log 25). -/
def Dev.unitHeld (d : Dev) (c : Nat) : Bool :=
  decide (d.t * (25 * d.fld Fld.WEIR_OP_STATUS_FREQ) / 1000 % 16 < d.fld (Fld.WEIR_GRANT_THROTTLE.nth 8 (routerOf c)))

/-- The registers an instruction in a unit will write (R40 (c)). -/
def UOp.dests (u : UOp) : List Reg :=
  let o := opcodeOf u.w
  if o == 0x53 || o == 0x54 then [.s (rD u.w)]
  else if o == 0x58 then (if nbit (mFN u.w) 3 then [.a (rA u.w % 4)] else [])
  else if o == 0x59 then [.a (rA u.w % 4)]
  else if 0x60 ≤ o && o ≤ 0x62 then [.a (aAD u.w)]
  else u.wr.filterMap fun x => match x with
    | .s n _ => some (.s n) | .v n _ => some (.v n) | .p n _ => some (.p n) | .send _ _ => none
/-- The tile a VS instruction still reads (R88). -/
def UOp.tileRead (u : UOp) : Option Nat := if opcodeOf u.w == 0x58 then some (rA u.w % 4) else none
def Op.dests (o : Op) : List Reg :=
  match o.kind with | .load n isV _ _ => [if isV then .v n else .s n] | _ => []
/-- Every register that is the destination of an instruction in flight. -/
def LCore.inFlight (l : LCore) : List Reg :=
  l.vu.flatMap UOp.dests ++ l.mu.flatMap UOp.dests ++ l.ops.flatMap Op.dests
def LCore.tilesRead (l : LCore) : List Nat := l.vu.filterMap UOp.tileRead
def LCore.vuFull (l : LCore) : Bool := decide (2 ≤ l.vu.length)
def LCore.muFull (l : LCore) : Bool := decide (2 ≤ l.mu.length)

/-- The counters an instruction names with their required counts: its own, slot 1, slot 2 (R47). -/
def OpDef.conds (o : OpDef) (w : Word) : List (Nat × Nat) := (o.own w).toList ++ (slotsOf w).map Prod.snd

/-- The range of a counter's source (R50). -/
def bindRange (b : Bind) : Nat := match b with | .mq _ => 32 | _ => 8

/-- The slot a set stream flag of VEC refers to: 0000b slot 1, 0001b slot 2 (R78). -/
def vecRefs (w : Word) : List (Bool × Nat) :=
  (if vDS w then [(true, vVD w)] else []) ++ (if vAS w then [(false, vVA w)] else []) ++
  (if vBS w then [(false, vVB w)] else [])
/-- How many of the operands read slot i (R76). -/
def OpDef.readers (o : OpDef) (w : Word) (i : Nat) : Nat :=
  if !o.isVec then 0
  else b2n (decide (1 ≤ o.nsrc) && vAS w && vVA w + 1 == i) + b2n (decide (2 ≤ o.nsrc) && vBS w && vVB w + 1 == i)

/-- The codes of an illegal stream reference: a free slot, a source that is outbound, a destination that is inbound, a slot
with fewer words than readers (R76, R78). -/
def OpDef.badVec (o : OpDef) (i : Iss) : Bool :=
  o.isVec && ((vecRefs i.w).any (fun r =>
      decide (1 < r.2) || !slotOn i.w (r.2 + 1) ||
      match i.k.log.bound (slotCtr i.w (r.2 + 1)) with
      | .inS _ => r.1
      | .outS _ => !r.1
      | _ => false) ||
    [1, 2].any fun n => slotOn i.w n && decide (slotCount i.w n < o.readers i.w n))

/-- The errors raised as soon as the instruction reaches pc, one per code (R50, R74, R75, R102, R106). Of an
unbound counter that a stream instruction or `mrecv` names, FIRE_UNBOUND alone is raised (R50; R102 and R106 say ILLEGAL_OP of a wrong
source: DESIGN CHOICE, log 101). -/
def OpDef.atPc (o : OpDef) (i : Iss) : List Nat :=
  let w := i.w
  let slots := slotsOf w
  let bindOf := fun (n : Nat) => i.k.log.bound n
  let ill := strayBit (o.used w) w || !slotClean w 1 || !slotClean w 2 ||
    (slotOn w 1 && slotOn w 2 && slotCtr w 1 == slotCtr w 2) ||
    (match o.own w with
      | some x => (slots.any fun s => s.2.1 == x.1) || (bindOf x.1 ≠ .unbound && !o.want (bindOf x.1))
      | none => false) ||
    (slots.any fun s => match bindOf s.2.1 with | .mq _ => true | _ => false) ||
    o.badVec i || o.bad i
  let unbound := (o.conds w).any fun x => bindOf x.1 == .unbound
  let cap := (o.conds w).any fun x => bindOf x.1 ≠ .unbound && decide (bindRange (bindOf x.1) < x.2)
  (if ill then [1] else []) ++ (if unbound then [0xC] else []) ++ (if cap then [0xD] else [])

/-- What one attempt comes to: nothing (the core does not run, or another instruction stands at pc), a stop with error codes
and addresses, a wait with its BLOCK reason, or issue. -/
inductive Verdict where
  | idle
  | stop (pc : Nat) (errs : List (Nat × Nat))
  | wait (block : Nat)
  | go (i : Iss)

/-- Errors of one core cycle by ascending code, one per code (R70). -/
def sortErrs : List (Nat × Nat) → List (Nat × Nat)
  | [] => []
  | e :: l => ins e (sortErrs l)
where
  ins (e : Nat × Nat) : List (Nat × Nat) → List (Nat × Nat)
    | [] => [e]
    | x :: l => if e.1 < x.1 then e :: x :: l else if e.1 = x.1 then e :: l else x :: ins e l

/-- The words a condition on counter n for count takes. -/
def Core.condWords (k : Core) (n count : Nat) : List Line :=
  match k.log.bound n with | .inS q => (k.headWords q count).map StitchWord.data | _ => []

/-- The instruction at pc with the words it would take. -/
def OpDef.iss (o : OpDef) (d : Dev) (c : Nat) : Iss :=
  let k := d.core c
  let w := NMap.get 0 k.log.imem k.log.pc
  let take := fun (i : Nat) => if slotOn w i then k.condWords (slotCtr w i) (slotCount w i) else []
  { c, step := d.stepNo, w, pc := k.log.pc, lid := d.lid c, k, slow := d.unitHeld c,
    own := match o.own w with | some x => k.condWords x.1 x.2 | none => [],
    got1 := take 1, got2 := take 2 }

/-- Conditions (a) to (d) of R40 at an instruction that is legal, with the late errors between (c) and (d). -/
def OpDef.ready (o : OpDef) (i : Iss) : Verdict :=
  if (o.conds i.w).any (fun x => decide (i.k.counter x.1 < x.2)) then .wait 1
  else if (o.tags i.w).any i.k.log.pending then .wait (if o.isWait then 5 else 2)
  else if (o.uses i.w).any (i.k.log.inFlight.contains ·) || (o.tiles i.w).any (i.k.log.tilesRead.contains ·) then .wait 3
  else match sortErrs (o.late i) with
    | e :: es => .stop i.pc (e :: es)
    | [] => if o.held i then .wait 4 else .go i

def OpDef.verdict (o : OpDef) (d : Dev) (c : Nat) : Verdict :=
  let l := (d.core c).log
  if d.coreState c ≠ .running || d.coreHeld c || d.inShift c 1 then .idle
  else if l.pc > 4095 then .stop 4095 [(1, 0)]
  else if l.badPar.contains l.pc then .stop l.pc [(7, 0)]
  else
    let i := o.iss d c
    if !definedOp (opcodeOf i.w) then .stop l.pc [(1, 0)]
    else if opcodeOf i.w ≠ o.code then .idle
    else match o.atPc i with
      | [] => o.ready i
      | es => .stop l.pc (es.map fun e => (e, 0))

/-! ### Effects of an attempt -/

/-- The core stops with the errors of one cycle: the lowest code latched, the others counted (R70, R71). -/
def Dev.stopAll (d : Dev) (c pc : Nat) : List (Nat × Nat) → Dev
  | [] => d
  | e :: es =>
    let d := (d.modLog c fun l => { l with pc }).coreStop c e.1 pc 0 0 e.2 0
    es.foldl (fun d e => d.coreErr c e.1 pc 0 0 e.2 0) d

/-- A core cycle without issue (CORE_PC, R477, R444). -/
def Dev.stall (d : Dev) (c block : Nat) : Dev :=
  let d := d.modCore c fun k =>
    { k with sil := { k.sil with stall := min (k.sil.stall + 1) 0xFFFFFFFF, block, blocked := true } }
  if block ≤ 4 then d.tally (3 + block) 1 c (routerOf c) 1 else d

/-- The first issue under a new step number sets the clear counts to 0 (R130). -/
def LCore.newStep (l : LCore) (n : Nat) : LCore :=
  if l.step = n then l
  else { l with step := n, tiles := (List.range 4).foldl (fun m t =>
    NMap.set {} m t { NMap.get {} m t with clears := 0, cleared := false }) l.tiles }

/-- The stitch streams a condition on counter n for count takes words from. -/
def Core.condStream (k : Core) (n count : Nat) : Option (Nat × Nat) :=
  match k.log.bound n with | .inS q => some (q, count) | _ => none

/-- The first stream on which a word to be taken fails its parity check (R178). -/
def OpDef.badWord (o : OpDef) (i : Iss) : Option Nat :=
  (o.conds i.w).findSome? fun x => match i.k.condStream x.1 x.2 with
    | some (q, n) => if (i.k.headWords q n).all StitchWord.dataOk then none else some q
    | none => none

/-- Take the words the conditions name; slot words no operand reads are counted as TAKEN (R76, R187). -/
def OpDef.takeWords (o : OpDef) (i : Iss) (d : Dev) : Dev :=
  let d := (o.conds i.w).foldl (fun d x => match i.k.condStream x.1 x.2 with
    | some (q, n) => d.takeLocal i.c q n
    | none => d) d
  let unread := (slotsOf i.w).foldl (fun a s =>
    a + if (i.k.condStream s.2.1 s.2.2).isSome then s.2.2 - o.readers i.w s.1 else 0) 0
  if unread = 0 then d
  else (d.modCore i.c (·.addFld Fld.CORE_STITCH_DISCARD_TAKEN unread)).tally 0x00B 1 i.c (routerOf i.c) unread

/-- The instruction issues: counters, its effect, the next pc. -/
def OpDef.fire (o : OpDef) (i : Iss) (d : Dev) : Dev :=
  match o.badWord i with
  | some q => d.coreStop i.c 0xE i.pc 1 q 0 0
  | none =>
    let d := d.modCore i.c fun k =>
      { log := k.log.newStep d.stepNo, sil := { k.sil with stall := 0, block := 0, blocked := false } }
    let d := o.run i (o.takeWords i d)
    (d.modLog i.c fun l => l.advance (o.last i) (o.next i)).tally 0x001 1 i.c (routerOf i.c) 1

/-- One core cycle at the instruction at pc, when that instruction is `o`. -/
def issue (o : OpDef) (c : Nat) (d : Dev) : Dev :=
  match o.verdict d c with
  | .idle => d
  | .stop pc es => d.stopAll c pc es
  | .wait b => d.stall c b
  | .go i => o.fire i d

/-! ### What classes of instruction do at issue -/

/-- Write the results of a class VR instruction. -/
def Dev.regW (d : Dev) (c : Nat) (x : RegW) : Dev :=
  match x with
  | .s n v => d.modLog c (·.setS n v)
  | .v n v => d.modLog c (·.setV n v)
  | .p n v => d.modLog c (·.setP n v)
  | .send q v => d.sendData c q v

/-- Class VR: at once, or after the VS instruction that holds the unit (R41). -/
def Dev.issueVR (d : Dev) (i : Iss) (xs : List RegW) : Dev :=
  if (d.core i.c).log.vu.isEmpty then xs.foldl (fun d x => d.regW i.c x) d
  else d.modLog i.c fun l => { l with vu := l.vu ++ [{ w := i.w, pc := i.pc, wr := xs }] }

/-- What a VS or M instruction captures at issue. -/
def capture (i : Iss) (d : Dev) (tag : Nat) (ra rb rn rx : Nat) : UOp :=
  { w := i.w, pc := i.pc, tag := some tag, d := i.s (rD i.w), a := i.s ra, b := i.s rb, n := i.s rn, x := i.s rx,
    step := d.stepNo, num := d.reg (0x480 + 8 * i.k.fld Fld.CORE_PROG_REGION_REGION),
    level := d.fld Fld.COB_NUMERICS_LEVEL_APPLIED_LEVEL }

def Dev.issueVS (i : Iss) (d : Dev) : Dev :=
  let u := capture i d (rT i.w) (rA i.w) (rB i.w) (rN i.w) (mSX i.w)
  d.modLog i.c fun l => { l.pendSet (rT i.w) true with vu := l.vu ++ [u] }
def Dev.issueM (i : Iss) (d : Dev) : Dev :=
  let u := capture i d (rT i.w) (rD i.w) (rA i.w) (rB i.w) (aSM i.w)
  d.modLog i.c fun l => { l.pendSet (rT i.w) true with mu := l.mu ++ [u] }

/-- Start a tagged operation outside the units (classes A and G). -/
def Dev.issueOp (d : Dev) (c : Nat) (o : Op) : Dev :=
  d.modLog c fun l => { l.pendSet o.tag true with ops := l.ops ++ [o] }

/-- A core instruction as a command: one issue attempt at physical core c. -/
def coreCmd (o : OpDef) (c : Nat) (s : State) : Host.Outcome State Fault Refusal :=
  onUnit (decide (c < numCores)) (issue o c) s

end Sys2Proof.Machine
end

