-- ==== Sys2Proof/Machine/Gate.lean ====
section
/-!
DEFINITION. The sending side of a cluster gateway (07 R215, R221, R225–R237): it injects what its cores' operations of classes A
and G hold, in order, under the regulator, and collects the answers.
-/
namespace Sys2Proof.Machine

/-! ### Operations by tag -/

def LCore.op (l : LCore) (t : Nat) : Option Op := l.ops.find? fun o => o.tag == t
def LCore.setOp (l : LCore) (o : Op) : LCore := { l with ops := l.ops.map fun x => if x.tag = o.tag then o else x }
def LCore.dropOp (l : LCore) (t : Nat) : LCore := { l with ops := l.ops.filter fun x => x.tag ≠ t }

/-- The error code an operation's `error` or `timeout` stops the core with (R44, R57, R60). -/
def opCode (o : Op) : Nat := if o.ue.isSome then 9 else if o.st = 3 then 0xB else 0xA
/-- The address of an operation's error record: the codeword of an uncorrectable read, or a remote access's address. -/
def opAddr (o : Op) : Nat :=
  o.ue.getD o.addr

/-- The operation ends with its status: it leaves the gateway and its tag clears (R43, R44). A verdict read of a waiting
`sgate` holds no tag of its own. -/
def Dev.endOp (d : Dev) (c : Nat) (o : Op) : Dev :=
  let d := d.modLog c (·.dropOp o.tag)
  d.complete c o.tag o.st o.pc (opCode o) (opAddr o) o.reason

/-- End the operation once nothing of it waits. -/
def Dev.settleOp (d : Dev) (c : Nat) (o : Op) : Dev :=
  if o.todo.isEmpty && o.out.isEmpty && o.busy.isEmpty then d.endOp c o else d.modLog c (·.setOp o)

/-- A worse status keeps its reason: ok, closed, error, timeout in rising order (R237). -/
def Op.worse (o : Op) (st reason : Nat) : Op :=
  if o.st < st then { o with st, reason } else if o.st = st && o.reason = 0 then { o with reason } else o

/-! ### Injection -/

/-- The operations of the cores of a cluster, as (core, operation). -/
def Dev.clusterOps (d : Dev) (r : Nat) : List (Nat × Op) :=
  (d.cores.filter fun e => routerOf e.1 == r).flatMap fun e => e.2.log.ops.map fun o => (e.1, o)

/-- The coordinates a line packet still reaches: from the device on toward the end of the span it runs to (R288). -/
def Dev.lineSpan (d : Dev) (p : Packet) : List Nat :=
  let own := d.coord (p.mc - 4)
  let lo := if p.dstDev = d.onLine (p.mc - 4) p.mcHi ∧ own < p.mcHi then max p.mcLo (own + 1) else p.mcLo
  let hi := if p.dstDev = d.onLine (p.mc - 4) p.mcHi ∧ own < p.mcHi then p.mcHi + 1 else min (p.mcHi + 1) own
  (List.range (hi - lo)).map (lo + ·)

/-- The cores that an untranslated packet names, as (device, logical core): the copies of a multicast among them (R217, R288). -/
def Dev.names (d : Dev) (p : Packet) : List (Nat × Nat) :=
  let span := (List.range (p.mcHi + 1 - p.mcLo)).map (p.mcLo + ·)
  if p.mc = 1 then span.map fun cc => (p.dstDev, p.dstCore / 128 * 128 + cc * 16 + p.dstCore % 16)
  else if p.mc = 2 then span.map fun rr => (p.dstDev, (rr * 8 + p.dstCore / 128 % 8) * 128 + p.dstCore % 128)
  else if p.mc ≥ 4 then (d.lineSpan p).map fun v => (d.onLine (p.mc - 4) v, p.dstCore)
  else [(p.dstDev, p.dstCore)]

/-- The copies of a multicast: one answer comes for each (R217, R288). -/
def Dev.spanCount (d : Dev) (p : Packet) : Nat := (d.names p).length

/-- Two MESSAGEs of one source core that name a destination core in common (R230, R231). -/
def Dev.sameDst (d : Dev) (p x : Packet) : Bool :=
  x.ptype == .message && p.ptype == .message && x.srcCore == p.srcCore && (d.names p).any fun y => (d.names x).contains y

/-- At a routing-table flip a MESSAGE waits for those its gateway sent under an earlier epoch (R231). -/
def Dev.flipHold (d : Dev) (r : Nat) (p : Packet) : Bool :=
  p.ptype == .message && d.fld (Fld.RACE_CTRL_FLIP_EPOCH.at (raceBase r)) == d.epoch &&
  (d.clusterOps r).any fun x => x.2.out.any fun q => q.1.ptype == .message && q.1.epoch ≠ d.epoch % 4

/-- Whether the next packet of an operation must wait: a unit behind one answered BUSY until its resend is answered (R237), a MESSAGE
behind an unanswered one to the same core (R230, R231) or for a routing-table flip. -/
def Dev.mustHold (d : Dev) (r : Nat) (o : Op) (p : Packet) : Bool :=
  (p.ptype == .contrib && (!o.busy.isEmpty || !o.again.isEmpty)) || d.flipHold r p ||
  (p.ptype == .message && (d.clusterOps r).any fun x =>
    x.2.out.any (fun q => d.sameDst p q.1) || x.2.busy.any fun q => d.sameDst p q)

/-- Why a core's request cannot be sent at all: a mode that does not carry it, an id no core has, a core without a host
(R18, R221, R105, R352). -/
def Dev.refuseSend (d : Dev) (r : Nat) (p : Packet) : Option Nat :=
  if !d.mayInject (4 * r) p.ptype then some 0x89
  else if p.dstCore ≥ numLogical then some 0x81
  else if p.dstDev ≠ d.devId then none
  else if (d.hostOf p.dstCore).isNone then some 0x8D else none

/-- Inject the first packet of an operation, with the contribution data read now (R237). -/
def Dev.injectOne (d : Dev) (c : Nat) (o : Op) (p : Packet) (rest : List Packet) : Dev :=
  let r := routerOf c
  match d.refuseSend r p with
  | some reason => d.settleOp c { (o.worse 2 reason) with todo := [] }
  | none =>
    let (txn, d) := d.newTxn
    let p := { p with txn, epoch := d.epoch % 4 }
    if p.ptype == .contrib then
      let size := match p.con.kind with | 0 => 64 | 1 => 384 | _ => 256
      match ownRange (d.lid c) p.addr size with
      | none => d.settleOp c { (o.worse 2 0x8A) with todo := [] }
      | some b =>
        match d.spRead c b size with
        | (some ue, _, d) => d.settleOp c { (o.worse 2 0x84) with todo := [], ue := some ue }
        | (none, data, d) =>
          let p := { p with payload := data, addr := 0 }
          (d.modLog c (·.setOp { o with todo := rest, out := o.out ++ [(p, 1)] })).inject (4 * r) p
    else (d.modLog c (·.setOp { o with todo := rest, out := o.out ++ [(p, d.spanCount p)] })).inject (4 * r) p

/-- The regulator of gateway r admits a core's request: what the gateway itself has to send goes first (R215). -/
def Dev.admitsCore (d : Dev) (r : Nat) (p : Packet) : Bool := (d.toSend (4 * r) 0).isEmpty && d.admits (4 * r) p

/-- One round of the regulator: the first packet of the cluster that may go. -/
def Dev.pumpOne (d : Dev) (r : Nat) : Option Dev :=
  ((d.clusterOps r).findSome? fun x => match x.2.todo with
      | [] => none
      | p :: rest => if d.mustHold r x.2 p || !d.admitsCore r p then none else some (x.1, x.2, p, rest)).map fun x =>
    d.injectOne x.1 x.2.1 x.2.2.1 x.2.2.2

/-- The gateway of router r injects what its regulator admits. -/
def Dev.pumpN (r : Nat) : Nat → Dev → Dev
  | 0, d => d
  | n + 1, d => match d.pumpOne r with
    | some d => d.pumpN r n
    | none => d
def Dev.pump (d : Dev) (r : Nat) : Dev := d.pumpN r 8

/-- A packet has left a queue of router r: the nodes that inject at that port send on. -/
def Dev.refill (d : Dev) (r port : Nat) : Dev :=
  if port = 0 then ((d.drain (4 * r)).drain (4 * r + 3)).pump r else if port < 3 then d.drain (4 * r + port) else d

/-- Start an operation and let the gateway send what it may. -/
def Dev.startOp (d : Dev) (c : Nat) (o : Op) : Dev := (d.issueOp c o).pump (routerOf c)

/-! ### Packets of a core -/

/-- A request of a core (R211): its logical id, region and generation. -/
def Dev.fromCore (d : Dev) (i : Iss) (t : PType) : Packet :=
  { ptype := t, srcCore := i.lid, gen := i.k.gen % 4, region := i.k.fld Fld.CORE_PROG_REGION_REGION, dstDev := d.devId }

/-- A logical core as a destination: the gateway translates the name as it injects (R22, R25). -/
def toCore (p : Packet) (id : Nat) : Packet := { p with dstCore := id }

/-! ### Barriers (R235) -/

def Gateway.bar (g : Gateway) (b : Nat) : Bar := NMap.get {} g.bars b
def Dev.setBar (d : Dev) (r b : Nat) (x : Bar) : Dev :=
  let g := d.gw r; d.setGw r { g with bars := NMap.set {} g.bars b x }

/-- A gateway's own request, under a transaction number of its own. -/
def Dev.request (d : Dev) (node : Nat) (p : Packet) : Dev :=
  let (txn, d) := d.newTxn
  d.inject node { p with txn }

/-- A local member enters: with all of them in, BAR_ENTER goes to the root's gateway. -/
def Dev.barEnter (d : Dev) (r b : Nat) : Dev :=
  let x := (d.gw r).bar b
  let d := d.setBar r b { x with entered := x.entered + 1 }
  if x.entered + 1 = x.members then
    d.request (4 * r) { ptype := .barEnter, dstCore := x.root, dstDev := d.devId, srcCore := 0x3FFF, aux := b }
  else d

/-- The root gateway has every BAR_ENTER: the release goes out over its column span. -/
def Dev.barRelease (d : Dev) (r b : Nat) : Dev :=
  let p : Packet := { ptype := .barRelease, dst := 4 * r, dstDev := d.devId, aux := b }
  match ((d.gw r).bar b).colSpan with
  | none => d.request (4 * r) p
  | some (lo, hi) => d.request (4 * r) { p with mc := 2, mcLo := lo, mcHi := hi }

/-- A release reaches a gateway: it goes on over the row span of a gateway in the root's column, and local bars complete. -/
def Dev.barReleased (d : Dev) (r b mc : Nat) : Dev :=
  let x := (d.gw r).bar b
  if mc = 1 && x.rowSpan.isSome then d
  else
    let d := match x.rowSpan with
      | some (lo, hi) => if mc = 1 then d else
          d.request (4 * r) { ptype := .barRelease, dst := 4 * r, dstDev := d.devId, aux := b, mc := 1, mcLo := lo, mcHi := hi }
      | none => d
    if x.entered < x.members || x.members = 0 then d
    else
      let d := d.setBar r b { x with entered := 0 }
      ((d.clusterOps r).filter fun y => y.2.kind == .bar b).foldl (fun d y => d.endOp y.1 y.2) d

end Sys2Proof.Machine
end

