-- ==== Sys2Proof/Machine/Race.lean ====
section
/-!
DEFINITION. Race routers (07 R207–R224; 13 R390): admission by epoch, routing, multicast along a span, oldest-first service,
replay and held links, merging, and packets held too long. Ports are 0 local, 1 A, 2 B, 3 N, 4 E, 5 S, 6 W.
-/
namespace Sys2Proof.Machine

/-! ### The mesh -/

/-- The router beyond a mesh port. -/
def nextRouter (r port : Nat) : Option Nat :=
  if port = 3 then (if 8 ≤ r then some (r - 8) else none)
  else if port = 4 then (if r % 8 < 7 then some (r + 1) else none)
  else if port = 5 then (if r + 8 < numRouters then some (r + 8) else none)
  else if port = 6 then (if 0 < r % 8 then some (r - 1) else none)
  else none

/-- The port of the next router that faces a mesh port. -/
def facing (port : Nat) : Nat := if port = 3 then 5 else if port = 4 then 6 else if port = 5 then 3 else 4

/-- A port that exists at a router. -/
def portOk (r port : Nat) : Bool := decide (r < numRouters) && (decide (port < 3) || (nextRouter r port).isSome)

/-- The epoch applied by a router (RACE_CTRL). -/
def Dev.routerEpoch (d : Dev) (r : Nat) : Nat := d.fld (Fld.RACE_CTRL_APPLIED_EPOCH.at (raceBase r))

/-- How many epochs behind the router a packet is, modulo 4: 0 and 1 are routed, 3 is held, 2 is discarded (R218). -/
def Dev.behind (d : Dev) (r : Nat) (p : Packet) : Nat := (d.routerEpoch r + 4 - p.epoch % 4) % 4

/-- A mesh output of router r is held (R210), or leads to a router that lags or is frozen (R363). -/
def Dev.heldOut (d : Dev) (r port : Nat) : Bool :=
  nbit (d.fld (Fld.RACE_CTRL_HELD_LINKS.at (raceBase r))) (port - 3) ||
  match nextRouter r port with | some n => d.lagging 4 n || d.captured 4 n || d.underTest 4 n | none => false

/-- The room behind a mesh output for a virtual channel (R208). -/
def Dev.roomAt (d : Dev) (r port vc : Nat) : Nat :=
  match nextRouter r port with
  | some n => 18 - d.queued n (facing port) vc
  | none => 0

/-! ### Routing (R216–R219) -/

/-- The routing-table bank of a packet: the active one, or the one active an epoch before a flip (R218). -/
def Dev.bankOf (d : Dev) (r : Nat) (p : Packet) : Nat :=
  let b := raceBase r
  let act := d.fld (Fld.RACE_CTRL_ACTIVE_BANK.at b)
  if d.behind r p = 1 && d.fld (Fld.RACE_CTRL_FLIP_EPOCH.at b) = d.routerEpoch r then 1 - act else act

/-- Outputs one hop nearer to router j; west first when it lies to the west, else any but west (R216). -/
def nearer (r j : Nat) : List Nat :=
  if j % 8 < r % 8 then [6]
  else (if r % 8 < j % 8 then [4] else []) ++ (if j / 8 < r / 8 then [3] else if r / 8 < j / 8 then [5] else [])

/-- The output a packet waits for: the local port of its destination here, the table's output, or, in the `adaptive` mode where table
and packet allow it and that output is not free, the free nearer one with the most room (R216). A DST_NODE with router index
104–127 names no router: the table has no entry for it and the model reads one of 0, so the first router delivers the packet
at its own port, which answers it (DESIGN CHOICE, log 89). -/
def Dev.routeOut (d : Dev) (r : Nat) (p : Packet) : Nat :=
  let node := d.routeNode p
  let j := node / 4
  if j = r then localPort node
  else
    let e := d.reg (raceBase r + 0x1000 + 8 * j)
    let bank := d.bankOf r p
    let code := if bank = 1 then bits e 6 4 else bits e 2 0
    let out := if code = 0 then localPort node else code + 2
    let vc := vcOf p.ptype
    let free := fun (o : Nat) => decide (3 ≤ o) && !d.heldOut r o && decide (flitsOf p ≤ d.roomAt r o vc)
    if d.flag Fld.COB_RACE_STATUS_ROUTING && p.adapt && bit e (if bank = 1 then 7 else 3) && !free out then
      ((nearer r j).filter free).foldl (fun a b => if !free a || decide (d.roomAt r a vc < d.roomAt r b vc) then b else a) out
    else out

/-- Whether the first router must discard a packet: reserved type, MC or bits, a multicast of another type or with a bad span
(R211, R217). -/
def badPacket (p : Packet) : Bool :=
  (match p.ptype with | .reserved _ => true | _ => false) || p.mc == 3 || p.rsvd ||
  (p.mc != 0 && !(p.ptype == .write || p.ptype == .iload || p.ptype == .message || p.ptype == .barRelease)) ||
  ((p.mc == 1 || p.mc == 2) && (decide (p.mcHi < p.mcLo) || decide ((if p.mc = 1 then 7 else 12) < p.mcHi)))

/-- Discard a packet that the router may not carry: malformed, or two epochs old (R211, R217, R218). -/
def Dev.discards (d : Dev) (r : Nat) (p : Packet) : Option (Nat × Fld) :=
  if badPacket p then some (0x8B, Fld.RACE_ERR_BAD_PACKETS)
  else if d.behind r p = 2 then some (0x88, Fld.RACE_ERR_EPOCH_DROPS) else none

def Dev.discardPacket (d : Dev) (r : Nat) (p : Packet) (x : Nat × Fld) : Dev :=
  (d.addFld (x.2.at (raceBase r)) 1).routerError r p x.1

/-! ### Service order (R209) -/

/-- Held 16,384 Race cycles (10,240 ns) or more. -/
def Dev.longHeld (d : Dev) (x : QPkt) : Bool := decide (x.at_ + 10240 ≤ d.t)

/-- Whether x is older than y. -/
def Dev.older (d : Dev) (x y : QPkt) : Bool :=
  if d.longHeld x then (if d.longHeld y then decide (x.at_ < y.at_) else true)
  else if d.longHeld y then false
  else let g := (y.p.age + 2 ^ 16 - x.p.age % 2 ^ 16) % 2 ^ 16; decide (1 ≤ g) && decide (g ≤ 32767)

/-- Packets of router r that may leave by `out`, as (queue, packet), in input order. -/
def Dev.waitingFor (d : Dev) (r out : Nat) : List (Nat × QPkt) :=
  (List.range 14).flatMap fun key =>
    ((NMap.get [] (d.router r).q key).filter fun x => decide (d.behind r x.p ≤ 1) && d.routeOut r x.p == out).map
      fun x => (key, x)

/-- Insert by age: before the first packet it is older than. -/
def Dev.insertOld (d : Dev) (x : Nat × QPkt) : List (Nat × QPkt) → List (Nat × QPkt)
  | [] => [x]
  | y :: l => if d.older x.2 y.2 then x :: y :: l else y :: d.insertOld x l

/-- The same packets, oldest first; equal ages keep their input order. -/
def Dev.byAge (d : Dev) (l : List (Nat × QPkt)) : List (Nat × QPkt) := l.foldl (fun a x => d.insertOld x a) []

/-- Take a packet out of a queue, or put another in its place. -/
def Dev.replaceIn (d : Dev) (r key : Nat) (x : QPkt) (y : List QPkt) : Dev :=
  let a := d.router r
  let q := NMap.get [] a.q key
  let i := q.findIdx (· == x)
  d.setRouter r { a with q := NMap.set [] a.q key (q.take i ++ y ++ q.drop (i + 1)) }

/-- A long-held packet that leaves carries an AGE of 16,384 cycles (R209). -/
def Dev.aged (d : Dev) (x : QPkt) : Packet :=
  if d.longHeld x then { x.p with age := (d.raceCycle + 2 ^ 16 - 16384 % 2 ^ 16) % 2 ^ 16 } else x.p

/-! ### Forwarding -/

/-- The rest of a multicast after router r of its span: the span from the next router on (R217). -/
def restOfSpan (r : Nat) (p : Packet) : Option Packet :=
  let at_ := if p.mc = 1 then r % 8 else r / 8
  let step := if p.mc = 1 then 4 else 32
  if p.mcHi ≤ p.mcLo then none
  else if at_ = p.mcLo then some { p with mcLo := p.mcLo + 1, dst := p.dst + step }
  else some { p with mcHi := p.mcHi - 1, dst := p.dst - step }

/-- Packets two epochs old leave the queues of a router with an error (R218); what waits to enter them follows. -/
def Dev.dropOld (d : Dev) (r : Nat) : Dev :=
  (List.range 14).foldl (fun d key =>
    ((NMap.get [] (d.router r).q key).filter fun x => (d.discards r x.p).isSome).foldl (fun d x =>
      match d.discards r x.p with
      | some w => (d.replaceIn r key x []).discardPacket r x.p w
      | none => d) d) d

/-- A packet may leave by an output now: a local port whose crossing is not in reset, or a link that is not held and whose queue has
room for all of it (R208). -/
def Dev.canLeave (d : Dev) (r out : Nat) (p : Packet) : Bool :=
  if out < 3 then !d.cob.xings.contains (4 * r + d.routeNode p % 4)
  else !d.heldOut r out && decide (flitsOf p ≤ d.roomAt r out (vcOf p.ptype))

/-- The packet an output serves: the oldest of each virtual channel that may leave, and of the two the older (R209, R214): neither
channel waits for room in the other. -/
def Dev.served (d : Dev) (r out : Nat) : Option (Nat × QPkt) :=
  let oldest := fun (vc : Nat) =>
    ((d.byAge ((d.waitingFor r out).filter fun y => y.1 % 2 == vc)).head?).filter fun y => d.canLeave r out y.2.p
  (d.byAge ((oldest 0).toList ++ (oldest 1).toList)).head?

/-- The packets that make up the last 18 flits, the newest last (R210). -/
def lastFlits (l : List Packet) : List Packet :=
  (l.reverse.foldl (fun (a : List Packet × Nat) p =>
    if a.2 + flitsOf p ≤ 18 then (p :: a.1, a.2 + flitsOf p) else (a.1, 19)) ([], 0)).1

/-- A packet goes onto a link: it is under way to the next router's queue, and the sender keeps its flits for a replay (R208, R210). -/
def Dev.onLink (d : Dev) (r out : Nat) (p : Packet) : Dev :=
  let a := d.router r
  let d := (d.setRouter r { a with tx := NMap.set [] a.tx out (lastFlits (NMap.get [] a.tx out ++ [p])) }).emit (.flit r out p)
  match nextRouter r out with
  | some n =>
    let b := d.router n; let key := 2 * facing out + vcOf p.ptype
    d.setRouter n { b with fly := NMap.set [] b.fly key (NMap.get [] b.fly key ++ [p]) }
  | none => d

/-- The oldest packet for an output leaves: to a local port, with the multicast's next copy left in its place, or onto a link
(R208, R209, R217). -/
def raceForward (r out : Nat) (d : Dev) : Dev :=
  let d := d.dropOld r
  if d.lagging 4 r || d.captured 4 r then d
  else match d.served r out with
  | none => d
  | some (key, x) =>
    let p := d.aged x
    let d := d.tally 0x100 4 r r (flitsOf p)
    let d :=
      if out < 3 then
        let node := 4 * r + d.routeNode p % 4
        if p.mc = 1 || p.mc = 2 then
          let d := d.replaceIn r key x ((restOfSpan r p).toList.map fun q => { x with p := q })
          if p.mc = 2 && (d.mapAt p.epoch).v == r / 8 then d else d.deliver node p
        else (d.replaceIn r key x []).deliver node p
      else (d.replaceIn r key x []).onLink r out p
    d.refill r (key / 2)

/-- Hold the link into port `port` of router r: here and at the router that sends on it; RACE_LINK (R210). -/
def Dev.holdLink (d : Dev) (r port : Nat) : Dev :=
  let setBit := fun (d : Dev) (r i : Nat) =>
    let f := Fld.RACE_CTRL_HELD_LINKS.at (raceBase r)
    d.setFld f (d.fld f ||| 2 ^ i)
  let d := if port < 3 then d else setBit d r (4 + port - 3)
  let d := match nextRouter r port with | some n => setBit d n (facing port - 3) | none => d
  (d.event { code := 0x200, kind := 5, unit := r, detail := leBytes 2 port }).wantTest 4 r 0 0

/-- The link into a port is held. -/
def Dev.heldIn (d : Dev) (r port : Nat) : Bool :=
  decide (3 ≤ port) && nbit (d.fld (Fld.RACE_CTRL_HELD_LINKS.at (raceBase r))) (4 + port - 3)

/-- The sender of a link sends the packets it keeps again, from the one whose check failed on (R210). -/
def Dev.replayFrom (d : Dev) (r port : Nat) (p : Packet) : Dev :=
  match nextRouter r port with
  | some n =>
    let kept := NMap.get [] (d.router n).tx (facing port)
    (kept.drop (kept.findIdx (· == p))).foldl (fun d q => d.emit (.flit n (facing port) q)) d
  | none => d

/-- A whole packet has come with its parity good: it is no longer under way. -/
def Dev.landed (d : Dev) (r port : Nat) (p : Packet) : Dev :=
  let a := d.router r; let key := 2 * port + vcOf p.ptype
  d.setRouter r { a with fails := NMap.set 0 a.fails port 0, awaits := NMap.set none a.awaits port none,
                         fly := NMap.set [] a.fly key ((NMap.get [] a.fly key).erase p) }

/-- A packet's flits arrive at a port (R207, R208, R210, R211, R218). After a failed check the port discards what comes until the replay
brings the same packet again. A packet its queue has no room for was never sent: it is not taken (log 90). -/
def raceArrival (r port : Nat) (p : Packet) (ok : Bool) (d : Dev) : Dev :=
  let a := d.router r
  if d.heldIn r port || ((NMap.get none a.awaits port).any fun q => q ≠ p) then d
  else if ok && p.badPar.isEmpty then
    let d := d.landed r port p
    match d.discards r p with
    | some w => d.discardPacket r p w
    | none => if d.queued r port (vcOf p.ptype) + flitsOf p ≤ 18 then d.enqueue r port p else d
  else
    let fails := NMap.get 0 a.fails port + 1
    let d := d.setRouter r { a with fails := NMap.set 0 a.fails port fails, awaits := NMap.set none a.awaits port (some p) }
    if fails ≥ 3 then d.holdLink r port
    else
      (((d.addFld (Fld.RACE_ERR_RETRIES.at (raceBase r)) 1).emit (.flitReplay r port)).tally 0x102 4 r r 1).replayFrom r port p

/-! ### Merging (R222–R224) -/

/-- The first pair, by age, of packets that may merge. -/
def mergePair : List (Nat × QPkt) → Option ((Nat × QPkt) × (Nat × QPkt))
  | [] => none
  | x :: l => match l.find? fun y => mergeable x.2.p y.2.p with
    | some y => some (x, y)
    | none => mergePair l

/-- A router merges two contributions that wait for one output. -/
def contribMerge (r out : Nat) (d : Dev) : Dev :=
  if d.fld Fld.COB_RACE_STATUS_SERVICE ≠ 1 || d.lagging 4 r || d.captured 4 r then d
  else match mergePair (d.byAge (d.waitingFor r out)), freeMerge (d.router r).merges with
    | some (x, y), some entry =>
      let m := mergePackets (4 * r + 3) d.devId entry x.2.p y.2.p
      let d := (d.replaceIn r y.1 y.2 []).replaceIn r x.1 x.2 [{ x.2 with p := m.1 }]
      let a := d.router r
      let d := d.setRouter r { a with merges := NMap.set none a.merges entry (some ⟨[mergeIn x.2.p, mergeIn y.2.p]⟩) }
      let d := ((d.addFld (Fld.RACE_ERR_MERGES.at (raceBase r)) 1).tally 0x101 4 r r 1).refill r (y.1 / 2)
      if m.2 then (d.addFld (Fld.RACE_ERR_RESIDUE_FAULTS.at (raceBase r)) 1).adderFault 4 r x.2.p else d
    | _, _ => d

/-- The answer to a merged packet frees its entry and goes to both inputs (R224); one with a parity error goes on as an error (R210,
log 90). -/
def mergedAnswer (node : Nat) (p : Packet) (d : Dev) : Dev :=
  d.byEpoch node p fun d =>
  let d := d.take node p
  let bad := !p.badPar.isEmpty
  let plain := fun (x : Nat × Nat × Nat) =>
    mergeCopy (answerTo p (if bad then .error else p.ptype) (if bad then 0x87 else p.reason) (if bad then [] else p.payload)) x
  if node % 4 = 3 then
    let r := node / 4
    let a := d.router r
    match NMap.get none a.merges p.txn with
    | some m => m.ins.foldl (fun d x => d.inject node (plain x)) (d.setRouter r { a with merges := NMap.set none a.merges p.txn none })
    | none => d
  else match portAt node with
    | some q =>
      let a := d.port q
      match NMap.get none a.merges p.txn with
      | some m => m.ins.foldl (fun d x => d.inject node (plain x))
          (d.setPort q { a with merges := NMap.set none a.merges p.txn none })
      | none => d
    | none => d

/-! ### Packets held too long (R390) -/

/-- RACE_AGE of a holding point (kind, unit), the discard answered by `reply`. -/
def Dev.ageOut (d : Dev) (kind unit r : Nat) (p : Packet) : Dev :=
  (d.event { code := 0x201, kind, unit, lid := p.srcCore, region := p.region, idKind := 2, id := p.tag,
             detail := leBytes 2 (ptypeCode p.ptype) ++ leBytes 2 p.src ++ leBytes 2 p.dst }).tally 0x103 kind unit r 1

/-- AGE_LIMIT in ns. -/
def Dev.ageLimit (d : Dev) : Nat := d.fld Fld.HANG_TIMEOUTS_AGE_LIMIT * 1000

/-- A packet held AGE_LIMIT µs at one holding point is discarded; a request that expects an answer draws `aged` (R390). -/
def packetAged (h : Hold) (p : Packet) (d : Dev) : Dev :=
  let old := fun (x : QPkt) => x.p == p && decide (x.at_ + d.ageLimit ≤ d.t)
  let here := fun (n : Nat) => d.arrived.any fun x => x.1 == n && old x.2
  match h with
  | .router r =>
    match (List.range 14).findSome? fun key => ((NMap.get [] (d.router r).q key).find? old).map fun x => (key, x) with
    | some (key, x) =>
      let d := (d.replaceIn r key x []).ageOut 4 r r p
      (if expectsAnswer p.ptype then d.routerError r p 0x8F else d).refill r (key / 2)
    | none => d
  | .gateway r =>
    if here (4 * r) then ((d.take (4 * r) p).ageOut 3 r r p).error (4 * r) p 0x8F else d
  | .slot node =>
    if here node then ((d.take node p).ageOut 4 (node / 4) (node / 4) p).error node p 0x8F else d
  | .pool q =>
    let a := d.port q
    let inTx := (List.range 4).find? fun key => (NMap.get [] a.tx key).any old
    let inRx := (List.range 4).find? fun key => (NMap.get [] a.pools key).any old
    let drop := fun (l : List QPkt) => match takeFirst old l with | some r => r.2 | none => l
    let go := fun (d : Dev) => (d.ageOut 9 q (portNode q / 4) p).error (portNode q) p 0x8F
    match inTx, inRx with
    | some key, _ => go (d.setPort q { a with tx := NMap.set [] a.tx key (drop (NMap.get [] a.tx key)) })
    | none, some key =>
      go (d.setPort q { a with pools := NMap.set [] a.pools key (drop (NMap.get [] a.pools key)),
                               give := NMap.set 0 a.give key (NMap.get 0 a.give key + flitsOf p) })
    | none, none => d

/-- RACE_PACKET_FORWARD (R208, R209, R217). -/
def execRacePacketForward (r out : Nat) (s : State) : Host.Outcome State Fault Refusal :=
  onUnit (portOk r out) (raceForward r out) s
/-- RACE_FLIT_ARRIVAL (R210, R211). -/
def execRaceFlitArrival (r port : Nat) (p : Packet) (parityOk : Bool) (s : State) : Host.Outcome State Fault Refusal :=
  onUnit (portOk r port) (raceArrival r port p parityOk) s
/-- CONTRIB_MERGE (R222–R224). -/
def execContribMerge (r out : Nat) (s : State) : Host.Outcome State Fault Refusal :=
  onUnit (portOk r out) (contribMerge r out) s
/-- MERGED_ANSWER (R224). -/
def execMergedAnswer (node : Nat) (p : Packet) (s : State) : Host.Outcome State Fault Refusal :=
  onUnit (decide (node < 416)) (mergedAnswer node p) s
/-- PACKET_AGED (R390). -/
def execPacketAged (hold : Hold) (p : Packet) (s : State) : Host.Outcome State Fault Refusal :=
  onUnit (match hold with
    | .router r => decide (r < numRouters) | .gateway r => decide (r < numRouters)
    | .slot n => decide (n < 416) | .pool q => decide (q < 20)) (packetAged hold p) s

end Sys2Proof.Machine
end

