-- ==== Sys2Proof/Machine/MsgInstr.lean ====
section
/-!
DEFINITION. Messages, barriers and flags as a core issues them (03 R104–R107; 07 R225–R227, R235–R237).
-/
namespace Sys2Proof.Machine

/-! ### Descriptors (R226, R227) -/

/-- The destination word (Table — Destination word). -/
def dwCore (x : Word) : Nat := bits x 13 0
def dwDev (x : Word) : Nat := bits x 27 14
def dwOff (x : Word) : Bool := bit x 28
def dwConf (x : Word) : Bool := bit x 29

/-- The unit size of a contribution KIND. -/
def unitSize (kind : Nat) : Nat := match kind with | 1 => 64 | 2 => 384 | _ => 256

/-- The checks of the sending gateway on a descriptor (R227). A die multicast to another device names no span of a die here,
and fails (DEDUCED, log 12). -/
def descOk (d : Dev) (lid : Nat) (x : Word) (b : List Byte) : Bool :=
  let addr := ofBytes (slice b 0 8); let len := ofBytes (slice b 8 4)
  let kind := byteAt b 12; let mc := byteAt b 13; let lo := byteAt b 14; let hi := byteAt b 15
  let die := mc % 4; let line := mc / 4 % 4; let n := d.torus
  decide (addr < 2 ^ 48) && decide (kind ≤ 3) && decide (mc < 16) && die ≠ 3 && (die == 0 || line == 0) &&
  (die == 0 || (decide (lo ≤ hi) && decide (hi ≤ if die = 1 then 7 else 11) && !dwOff x)) &&
  (line == 0 || (decide (lo ≤ hi) && decide (hi < if line = 1 then n.1 else if line = 2 then n.2.1 else n.2.2))) &&
  rangeOk addr len && (dwConf x == decide (1 ≤ kind)) &&
  (kind == 0 ||
    (mc == 0 && len % unitSize kind == 0 && ofBytes (slice b 20 4) == 0 && decide (byteAt b 24 ≤ 1) &&
     ofBytes (slice b 25 7) == 0 &&
     decide (0x400000000000 + lid * 2 ^ 19 ≤ addr) && decide (addr + len ≤ 0x400000000000 + lid * 2 ^ 19 + 0x60000)))

/-- The packets of a plain message: one, the copies of a die multicast in one, or one for each way along a torus line and one
for this device (R217, R225, R288); spans as the sender names them. -/
def msgPackets (d : Dev) (x : Word) (b : List Byte) (p : Packet) : List Packet :=
  let mc := byteAt b 13; let lo := byteAt b 14; let hi := byteAt b 15
  let core := dwCore x
  let here := { toCore p core with dstDev := if dwOff x then dwDev x else d.devId }
  if mc % 4 ≠ 0 then [{ here with mc := mc % 4, mcLo := lo, mcHi := hi }]
  else if mc / 4 ≠ 0 then
    let dim := mc / 4 - 1; let own := d.coord dim
    (if lo ≤ own ∧ own ≤ hi then [{ here with dstDev := d.devId }] else []) ++
    (if own < hi then [{ here with mc := 4 + dim, mcLo := lo, mcHi := hi, dstDev := d.onLine dim hi }] else []) ++
    (if lo < own then [{ here with mc := 4 + dim, mcLo := lo, mcHi := hi, dstDev := d.onLine dim lo }] else [])
  else [here]

/-- The units of a contribution: their data is read as each is injected (R237). -/
def conPackets (d : Dev) (x : Word) (b : List Byte) (p : Packet) : List Packet :=
  let kind := byteAt b 12; let addr := ofBytes (slice b 0 8); let base := ofBytes (slice b 16 4)
  let screen := decide (2 ≤ kind) && nbit (byteAt b 24) 0
  (List.range (ofBytes (slice b 8 4) / unitSize kind)).map fun i =>
    { toCore p (dwCore x) with
        ptype := .contrib, dstDev := if dwOff x then dwDev x else d.devId, aux := base + i,
        addr := addr + unitSize kind * i,
        con := { count := 1, kind := kind - 1, mergeOk := !screen, origin := d.devId } }

def msgRng (i : Iss) : Rng := ⟨(i.s (rA i.w)).toNat, 32, 1⟩

/-- `msend` (R104, R105): the descriptor is read at issue and checked by the gateway. -/
def runMsend (i : Iss) (d : Dev) : Dev :=
  let x := i.s (rD i.w); let t := gCT i.w
  let o : Op := { tag := t, pc := i.pc, kind := if dwConf x then .conf else .msg }
  match ownRange i.lid (msgRng i).a 32 with
  | none => d
  | some b => match d.spRead i.c b 32 with
    | (some ue, _, d) => (d.issueOp i.c o).endOp i.c { o with st := 2, ue := some ue }
    | (none, bs, d) =>
      if !descOk d i.lid x bs then (d.issueOp i.c o).endOp i.c { o with st := 2, reason := 0x8A }
      else
        let p := { d.fromCore i .message with tag := gTAG i.w, payload := bs }
        let ps := if dwConf x then conPackets d x bs p else msgPackets d x bs p
        if ps.isEmpty then (d.issueOp i.c o).endOp i.c o else d.startOp i.c { o with todo := ps }

/-- The fields of the MSG format. -/
def msgFields : Word → List (Nat × Nat) := fun _ => [(37, 4)]

def opMsend : OpDef where
  code := 0x78
  used := msgFields
  uses := fun w => [.s (rD w), .s (rA w)]
  tags := fun w => [gCT w]
  late := fun i => (if bits (i.s (rD i.w)) 63 30 ≠ 0 then [(1, 0)] else []) ++ i.k.rngErrs i.lid (msgRng i)
  held := fun i => i.k.rngHeld i.lid (msgRng i)
  run := runMsend

def isMq (b : Bind) : Bool := match b with | .mq _ => true | _ => false

/-- `mrecv`: the head entry of the queue sc[SC] is bound to goes to v[VD] (R106). -/
def opMrecv : OpDef where
  code := 0x79
  used := msgFields
  own := fun w => some (gSC w, 1)
  want := isMq
  uses := fun w => [.v (gVD w)]
  held := fun i => i.k.log.vuFull
  run := fun i d =>
    match i.k.log.bound (gSC i.w) with
    | .mq n => match i.k.log.mqueue n with
      | x :: rest => (d.modLog i.c fun l => { l with mq := NMap.set [] l.mq n rest }).issueVR i [.v (gVD i.w) x]
      | [] => d
    | _ => d

/-- `bar` (R107, R235): counted at the member's gateway; an entry that is not valid is an error. -/
def opBar : OpDef where
  code := 0x7A
  used := msgFields
  uses := fun w => [.s (rD w)]
  tags := fun w => [gCT w]
  run := fun i d =>
    let b := bits (i.s (rD i.w)) 7 0; let r := routerOf i.c
    let o : Op := { tag := gCT i.w, pc := i.pc, kind := .bar b }
    if ((d.gw r).bar b).valid then (d.issueOp i.c o).barEnter r b
    else (d.issueOp i.c o).endOp i.c { o with st := 2, reason := 0x92 }

/-- The flag s[SA] names: a logical core id and an index (R107). -/
def flagCore (x : Word) : Nat := bits x 13 0
def flagIdx (x : Word) : Nat := bits x 21 16

def opFset : OpDef where
  code := 0x7B
  used := msgFields
  uses := fun w => [.s (rD w), .s (rA w)]
  tags := fun w => [gCT w]
  run := fun i d =>
    let x := i.s (rD i.w)
    let p := { d.fromCore i .flagWrite with aux := flagIdx x, payload := leBytes 8 (i.s (rA i.w)).toNat }
    d.startOp i.c { tag := gCT i.w, pc := i.pc, kind := .flagSet, todo := [toCore p (flagCore x)] }

def opFwait : OpDef where
  code := 0x7C
  used := msgFields
  uses := fun w => [.s (rD w), .s (rA w)]
  tags := fun w => [gCT w]
  run := fun i d =>
    let x := i.s (rD i.w)
    let p := { d.fromCore i .flagRead with aux := flagIdx x }
    d.startOp i.c { tag := gCT i.w, pc := i.pc, kind := .flagWait (flagCore x) (flagIdx x) (i.s (rA i.w)),
                    todo := [toCore p (flagCore x)] }

/-- `fwait` reads its flag again (R236), unless a read is out. -/
def fwaitPoll (c t : Nat) (d : Dev) : Dev :=
  match (d.core c).log.op t with
  | some o => match o.kind with
    | .flagWait id f _ =>
      if o.todo.isEmpty && o.out.isEmpty then
        let k := d.core c
        let p : Packet := { ptype := .flagRead, srcCore := d.lid c, gen := k.gen % 4, dstDev := d.devId,
                            region := k.fld Fld.CORE_PROG_REGION_REGION, aux := f }
        (d.modLog c (·.setOp { o with todo := [toCore p id] })).pump (routerOf c)
      else d
    | _ => d
  | none => d

/-- msend (R104). -/
def execMsend (c : Nat) (s : State) : Host.Outcome State Fault Refusal := coreCmd opMsend c s
/-- mrecv (R106). -/
def execMrecv (c : Nat) (s : State) : Host.Outcome State Fault Refusal := coreCmd opMrecv c s
/-- bar (R107). -/
def execBar (c : Nat) (s : State) : Host.Outcome State Fault Refusal := coreCmd opBar c s
/-- fset (R107). -/
def execFset (c : Nat) (s : State) : Host.Outcome State Fault Refusal := coreCmd opFset c s
/-- fwait (R107). -/
def execFwait (c : Nat) (s : State) : Host.Outcome State Fault Refusal := coreCmd opFwait c s
/-- FWAIT_POLL (R236). -/
def execFwaitPoll (c tag : Nat) (s : State) : Host.Outcome State Fault Refusal :=
  onUnit (decide (c < numCores)) (fwaitPoll c tag) s

end Sys2Proof.Machine
end

