-- ==== Sys2Proof/Machine/Scalar.lean ====
section
/-!
DEFINITION. The scalar and control instructions, predicates, system values and bank gates (03 R80–R84, 02 R45, R61, R62).
-/
namespace Sys2Proof.Machine

/-! ### Three-register and immediate arithmetic (R80) -/

/-- s[SD] ← f s[SA] s[SB]. -/
def opSC (code : Nat) (f : Word → Word → Word) : OpDef where
  code := code
  used := fun _ => [(37, 33), (32, 28), (27, 23)]
  uses := fun w => [.s (rD w), .s (rA w), .s (rB w)]
  run := fun i d => d.modLog i.c (·.setS (rD i.w) (f (i.s (rA i.w)) (i.s (rB i.w))))

/-- s[SD] ← f s[SA] IMM, IMM as 28 bits. -/
def opIM (code : Nat) (f : Word → BitVec 28 → Word) : OpDef where
  code := code
  used := fun _ => [(37, 33), (32, 28), (27, 0)]
  uses := fun w => [.s (rD w), .s (rA w)]
  run := fun i d => d.modLog i.c (·.setS (rD i.w) (f (i.s (rA i.w)) (BitVec.ofNat 28 (fImm i.w))))

/-- The low 6 bits of a shift operand. -/
def shamt (x : Word) : Nat := x.toNat % 64
def boolWord (b : Bool) : Word := if b then 1 else 0
def smin (a b : Word) : Word := if b.slt a then b else a
def smax (a b : Word) : Word := if a.slt b then b else a

def opAdd : OpDef := opSC 0x10 fun a b => a + b
/-- add (R80). -/
def execAdd (c : Nat) (s : State) : Host.Outcome State Fault Refusal := coreCmd opAdd c s

def opSub : OpDef := opSC 0x11 fun a b => a - b
/-- sub (R80). -/
def execSub (c : Nat) (s : State) : Host.Outcome State Fault Refusal := coreCmd opSub c s

def opMul : OpDef := opSC 0x12 fun a b => a * b
/-- mul (R80). -/
def execMul (c : Nat) (s : State) : Host.Outcome State Fault Refusal := coreCmd opMul c s

def opAndS : OpDef := opSC 0x13 fun a b => a &&& b
/-- and (R80). -/
def execAndS (c : Nat) (s : State) : Host.Outcome State Fault Refusal := coreCmd opAndS c s

def opOrS : OpDef := opSC 0x14 fun a b => a ||| b
/-- or (R80). -/
def execOrS (c : Nat) (s : State) : Host.Outcome State Fault Refusal := coreCmd opOrS c s

def opXorS : OpDef := opSC 0x15 fun a b => a ^^^ b
/-- xor (R80). -/
def execXorS (c : Nat) (s : State) : Host.Outcome State Fault Refusal := coreCmd opXorS c s

def opShl : OpDef := opSC 0x16 fun a b => a <<< shamt b
/-- shl (R80). -/
def execShl (c : Nat) (s : State) : Host.Outcome State Fault Refusal := coreCmd opShl c s

def opShr : OpDef := opSC 0x17 fun a b => a >>> shamt b
/-- shr (R80). -/
def execShr (c : Nat) (s : State) : Host.Outcome State Fault Refusal := coreCmd opShr c s

def opSra : OpDef := opSC 0x18 fun a b => a.sshiftRight (shamt b)
/-- sra (R80). -/
def execSra (c : Nat) (s : State) : Host.Outcome State Fault Refusal := coreCmd opSra c s

def opSlt : OpDef := opSC 0x19 fun a b => boolWord (a.slt b)
/-- slt (R80). -/
def execSlt (c : Nat) (s : State) : Host.Outcome State Fault Refusal := coreCmd opSlt c s

def opSltu : OpDef := opSC 0x1A fun a b => boolWord (a.ult b)
/-- sltu (R80). -/
def execSltu (c : Nat) (s : State) : Host.Outcome State Fault Refusal := coreCmd opSltu c s

def opMinS : OpDef := opSC 0x1B fun a b => smin a b
/-- min (R80). -/
def execMinS (c : Nat) (s : State) : Host.Outcome State Fault Refusal := coreCmd opMinS c s

def opMaxS : OpDef := opSC 0x1C fun a b => smax a b
/-- max (R80). -/
def execMaxS (c : Nat) (s : State) : Host.Outcome State Fault Refusal := coreCmd opMaxS c s

def opAddi : OpDef := opIM 0x20 fun a b => a + b.signExtend 64
/-- addi (R80). -/
def execAddi (c : Nat) (s : State) : Host.Outcome State Fault Refusal := coreCmd opAddi c s

def opAndi : OpDef := opIM 0x21 fun a b => a &&& b.setWidth 64
/-- andi (R80). -/
def execAndi (c : Nat) (s : State) : Host.Outcome State Fault Refusal := coreCmd opAndi c s

def opOri : OpDef := opIM 0x22 fun a b => a ||| b.setWidth 64
/-- ori (R80). -/
def execOri (c : Nat) (s : State) : Host.Outcome State Fault Refusal := coreCmd opOri c s

def opXori : OpDef := opIM 0x23 fun a b => a ^^^ b.setWidth 64
/-- xori (R80). -/
def execXori (c : Nat) (s : State) : Host.Outcome State Fault Refusal := coreCmd opXori c s

def opShli : OpDef := opIM 0x24 fun a b => a <<< (b.toNat % 64)
/-- shli (R80). -/
def execShli (c : Nat) (s : State) : Host.Outcome State Fault Refusal := coreCmd opShli c s

def opShri : OpDef := opIM 0x25 fun a b => a >>> (b.toNat % 64)
/-- shri (R80). -/
def execShri (c : Nat) (s : State) : Host.Outcome State Fault Refusal := coreCmd opShri c s

def opSrai : OpDef := opIM 0x26 fun a b => a.sshiftRight (b.toNat % 64)
/-- srai (R80). -/
def execSrai (c : Nat) (s : State) : Host.Outcome State Fault Refusal := coreCmd opSrai c s

def opSlti : OpDef := opIM 0x27 fun a b => boolWord (a.slt (b.signExtend 64))
/-- slti (R80). -/
def execSlti (c : Nat) (s : State) : Host.Outcome State Fault Refusal := coreCmd opSlti c s

/-- s[SD] ← IMM, sign-extended; SA is not read. -/
def opLi : OpDef where
  code := 0x28
  used := fun _ => [(37, 33), (32, 28), (27, 0)]
  uses := fun w => [.s (rD w)]
  run := fun i d => d.modLog i.c (·.setS (rD i.w) ((BitVec.ofNat 28 (fImm i.w)).signExtend 64))
/-- li (R80). -/
def execLi (c : Nat) (s : State) : Host.Outcome State Fault Refusal := coreCmd opLi c s

/-- s[SD] ← (s[SD] << 28) or IMM. -/
def opLis : OpDef where
  code := 0x29
  used := fun _ => [(37, 33), (32, 28), (27, 0)]
  uses := fun w => [.s (rD w)]
  run := fun i d => d.modLog i.c (·.setS (rD i.w) ((i.s (rD i.w) <<< 28) ||| BitVec.ofNat 64 (fImm i.w)))
/-- lis (R80). -/
def execLis (c : Nat) (s : State) : Host.Outcome State Fault Refusal := coreCmd opLis c s

/-! ### Control -/

def opNop : OpDef where
  code := 0x00
  used := fun _ => []
/-- nop (R79). -/
def execNop (c : Nat) (s : State) : Host.Outcome State Fault Refusal := coreCmd opNop c s

/-- `end` waits for every tag and for empty units, and the core enters DONE (R45, R36). -/
def opEnd : OpDef where
  code := 0x01
  used := fun _ => []
  tags := fun _ => List.range 32
  held := fun i => !i.k.log.vu.isEmpty || !i.k.log.mu.isEmpty
  run := fun i d => d.modCore i.c (·.setState .done d.epoch)
/-- end (R45). -/
def execEndProg (c : Nat) (s : State) : Host.Outcome State Fault Refusal := coreCmd opEnd c s

/-- `wait` issues when no tag of MASK is pending (R43). -/
def opWait : OpDef where
  code := 0x02
  used := fun _ => [(31, 0)]
  tags := fun w => (List.range 32).filter (bit w)
  isWait := true
/-- wait (R43). -/
def execWait (c : Nat) (s : State) : Host.Outcome State Fault Refusal := coreCmd opWait c s

def opBr : OpDef where
  code := 0x03
  used := fun _ => [(37, 33), (32, 28), (27, 25), (11, 0)]
  bad := fun i => bits i.w 27 25 == 7
  uses := fun w => [.s (rD w), .s (rA w)]
  next := fun i => if condHolds (bits i.w 27 25) (i.s (rD i.w)) (i.s (rA i.w)) then some (fTarget i.w) else none
/-- br (R81). -/
def execBr (c : Nat) (s : State) : Host.Outcome State Fault Refusal := coreCmd opBr c s

def opJal : OpDef where
  code := 0x04
  used := fun _ => [(37, 33), (11, 0)]
  uses := fun w => [.s (rD w)]
  run := fun i d => d.modLog i.c (·.setS (rD i.w) (BitVec.ofNat 64 (i.pc + 1)))
  next := fun i => some (fTarget i.w)
/-- jal (R81). -/
def execJal (c : Nat) (s : State) : Host.Outcome State Fault Refusal := coreCmd opJal c s

def opJr : OpDef where
  code := 0x05
  used := fun _ => [(32, 28)]
  uses := fun w => [.s (rA w)]
  next := fun i => some (bits (i.s (rA i.w)) 11 0)
/-- jr (R81). -/
def execJr (c : Nat) (s : State) : Host.Outcome State Fault Refusal := coreCmd opJr c s

/-- LC and the count of `loop`: COUNT, or bits [19:0] of s[SA] when CS is 1 (R82). -/
def loopLC (w : Word) : Nat := bits w 37 36
def loopCount (i : Iss) : Nat := if bit i.w 35 then bits (i.s (bits i.w 34 30)) 19 0 else bits i.w 34 15

/-- `loop`: a count of 0 skips the body as though it had run to TARGET (R46, R82). -/
def opLoop : OpDef where
  code := 0x06
  used := fun w => [(37, 36), (35, 35), (11, 0)] ++ if bit w 35 then [(34, 30)] else [(34, 15)]
  bad := fun i => decide (fTarget i.w < i.pc + 1) || (i.k.log.loops.any fun l => l.k == loopLC i.w) ||
    match i.k.log.loops with
    | l :: _ => decide (l.stop < fTarget i.w)
    | [] => false
  uses := fun w => if bit w 35 then [.s (bits w 34 30)] else []
  run := fun i d => d.modLog i.c fun l =>
    let l := l.setLC (loopLC i.w) (loopCount i)
    if loopCount i = 0 then l
    else { l with loops := { k := loopLC i.w, start := i.pc + 1, stop := fTarget i.w } :: l.loops }
  last := fun i => if loopCount i = 0 then fTarget i.w else i.pc
/-- loop (R82). -/
def execLoop (c : Nat) (s : State) : Host.Outcome State Fault Refusal := coreCmd opLoop c s

def opRdlc : OpDef where
  code := 0x07
  used := fun _ => [(37, 33), (1, 0)]
  uses := fun w => [.s (rD w)]
  run := fun i d => d.modLog i.c (·.setS (rD i.w) (BitVec.ofNat 64 (i.k.log.loopCtr (bits i.w 1 0))))
/-- rdlc (R82). -/
def execRdlc (c : Nat) (s : State) : Host.Outcome State Fault Refusal := coreCmd opRdlc c s

def opRdct : OpDef where
  code := 0x08
  used := fun _ => [(37, 33), (4, 0)]
  uses := fun w => [.s (rD w)]
  tags := fun w => [bits w 4 0]
  run := fun i d => d.modLog i.c (·.setS (rD i.w) (BitVec.ofNat 64 (i.k.log.tagStatus (bits i.w 4 0))))
/-- rdct (R79). -/
def execRdct (c : Nat) (s : State) : Host.Outcome State Fault Refusal := coreCmd opRdct c s

/-! ### System values, predicates, bank gates -/

/-- The system values of R83. -/
def sysValue (i : Iss) (d : Dev) : Word :=
  match bits i.w 7 0 with
  | 0 => BitVec.ofNat 64 i.lid
  | 1 => BitVec.ofNat 64 d.devId
  | 2 => BitVec.ofNat 64 d.stepNo
  | 3 => d.now
  | 4 => BitVec.ofNat 64 d.epoch
  | _ => BitVec.ofNat 64 (i.k.fld Fld.CORE_PROG_REGION_REGION)

def opRdsys : OpDef where
  code := 0x1D
  used := fun _ => [(37, 33), (7, 0)]
  bad := fun i => decide (5 < bits i.w 7 0)
  uses := fun w => [.s (rD w)]
  run := fun i d => d.modLog i.c (·.setS (rD i.w) (sysValue i d))
/-- rdsys (R83). -/
def execRdsys (c : Nat) (s : State) : Host.Outcome State Fault Refusal := coreCmd opRdsys c s

def opPmov : OpDef where
  code := 0x1E
  used := fun _ => [(37, 35), (32, 28)]
  uses := fun w => [.p (bits w 37 35), .s (rA w)]
  run := fun i d => d.modLog i.c (·.setP (bits i.w 37 35) ((i.s (rA i.w)).setWidth 16))
/-- pmov (R79). -/
def execPmov (c : Nat) (s : State) : Host.Outcome State Fault Refusal := coreCmd opPmov c s

def opPrd : OpDef where
  code := 0x1F
  used := fun _ => [(37, 33), (27, 25)]
  uses := fun w => [.s (rD w), .p (bits w 27 25)]
  run := fun i d => d.modLog i.c (·.setS (rD i.w) ((i.k.log.preg (bits i.w 27 25)).setWidth 64))
/-- prd (R79). -/
def execPrd (c : Nat) (s : State) : Host.Outcome State Fault Refusal := coreCmd opPrd c s

/-- The lowest bank whose GATE is clear and that is not powered: the next to wake, one at a time (R62). -/
def Core.nextWake (k : Core) : Option Nat :=
  (List.range 8).find? fun b => !nbit (k.fld Fld.CORE_BANK_GATE_GATE) b && !nbit k.sil.powered b
/-- A wake in progress goes on; else the next bank in ascending order starts. -/
def Core.startWake (k : Core) : Core :=
  if k.sil.waking.isSome then k else { k with sil := { k.sil with waking := k.nextWake } }
/-- GATE becomes m without bit 7: a set bit gates a bank, a cleared one wakes it (R61, R62). -/
def Core.setGate (k : Core) (m : Nat) : Core := (k.setFld Fld.CORE_BANK_GATE_GATE (m &&& 0x7F)).startWake

def opBgate : OpDef where
  code := 0x2A
  used := fun _ => [(7, 0)]
  run := fun i d => d.modCore i.c fun k => k.setGate (k.fld Fld.CORE_BANK_GATE_GATE ||| bits i.w 6 0)
/-- bgate (R84). -/
def execBgate (c : Nat) (s : State) : Host.Outcome State Fault Refusal := coreCmd opBgate c s

/-- `bwake` waits while an earlier wake is filling (R84). -/
def opBwake : OpDef where
  code := 0x2B
  used := fun _ => [(7, 0)]
  held := fun i => i.k.sil.waking.isSome
  run := fun i d => d.modCore i.c fun k =>
    k.setGate (k.fld Fld.CORE_BANK_GATE_GATE &&& (0x7F ^^^ bits i.w 6 0))
/-- bwake (R84). -/
def execBwake (c : Nat) (s : State) : Host.Outcome State Fault Refusal := coreCmd opBwake c s

end Sys2Proof.Machine
end

