-- ==== Sys2Proof/Machine/VScratch.lean ====
section
/-!
DEFINITION. Vector instructions over the scratchpad (03 R90–R92, R97–R100; 04 R114–R119, R126; 10 R304–R308): their checks at
issue, and what each computes when its occupancy of the vector unit ends.
-/
namespace Sys2Proof.Machine

/-! ### Layouts -/

/-- Bytes of n packed elements of a format; FP4 packs two to a byte (R92). -/
def packedLen (f n : Nat) : Nat := if f = 5 then n / 2 else n * (fmtBits f / 8)
/-- Bytes of a scaled vector of n elements: the elements and a scale byte per 32 (R92). -/
def scaledLen (f n : Nat) : Nat := packedLen f n + n / 32
/-- Element i of packed elements. -/
def unpackEl (f : Nat) (bs : List Byte) (i : Nat) : Nat :=
  if f = 5 then byteAt bs (i / 2) / 16 ^ (i % 2) % 16
  else ofBytes (slice bs (i * (fmtBits f / 8)) (fmtBits f / 8))
/-- Elements packed. -/
def packEls (f : Nat) (xs : List Nat) : List Byte :=
  if f = 5 then (chunks 2 xs.length xs).map fun p => BitVec.ofNat 8 (p.headD 0 + 16 * p.getD 1 0)
  else xs.flatMap (leBytes (fmtBits f / 8))
/-- FP32 elements of bytes. -/
def f32s (bs : List Byte) (n : Nat) : List Lane := (List.range n).map fun i => BitVec.ofNat 32 (ofBytes (slice bs (4 * i) 4))
def lanesBytes (xs : List Lane) : List Byte := xs.flatMap fun x => leBytes 4 x.toNat

/-- Bytes `mout` writes in a format (R97). -/
def moutLen (f : Nat) : Nat := match f with | 0 => 2048 | 1 => 1024 | 2 => 1024 | 5 => 272 | 6 => 512 | _ => 528
/-- Bytes of one packed block (Table — Packed block). -/
def bfxLen (w : Word) : Nat := if nbit (mFN w) 0 then 256 else 384

/-! ### Checks at issue -/

def vsN (i : Iss) : Nat := (i.s (rN i.w)).toNat
def vsD (i : Iss) : Nat := (i.s (rD i.w)).toNat
def vsA (i : Iss) : Nat := (i.s (rA i.w)).toNat
def vsB (i : Iss) : Nat := (i.s (rB i.w)).toNat
/-- The element format of a FN field: [2:0] or [5:3]. -/
def fnLo (w : Word) : Nat := mFN w % 8
def fnHi (w : Word) : Nat := mFN w / 8 % 8

/-- The destination and source ranges of a VMS instruction (R90): none when n is 0. -/
structure VRng where
  dst : List Rng := []
  src : List Rng := []

/-- Errors of a count that is no multiple of `m`, of ranges, and of overlaps at different starts (R90, R91). -/
def vsErrs (m : Nat) (r : Iss → VRng) (n : Iss → Nat) (i : Iss) : List (Nat × Nat) :=
  let x := r i
  (if n i % m ≠ 0 then [(1, 0)] else []) ++ ((x.dst ++ x.src).flatMap (i.k.rngErrs i.lid)) ++
  (if x.dst.any fun d => x.src.any (overlapBad i.lid d) then [(1, (x.dst.headD ⟨0, 0, 1⟩).a)] else [])

/-- What every VMS instruction shares: `m` divides n, FN[6] and FN[7] are clear unless `bad` says otherwise. Fields of the format that an
instruction does not use, such as other bits of FN, are not looked at; so in every format (R78; DESIGN CHOICE, log 102). -/
def opVS (code m : Nat) (uses : Word → List Reg) (r : Iss → VRng) (n : Iss → Nat := vsN)
    (bad : Word → Bool := fun w => decide (64 ≤ mFN w)) (tiles : Word → List Nat := fun _ => []) : OpDef where
  code := code
  used := fun _ => [(37, 0)]
  bad := fun i => bad i.w
  uses := uses
  tiles := tiles
  tags := fun w => [rT w]
  late := vsErrs m r n
  held := fun i => i.slow || i.k.log.vuFull || ((r i).dst ++ (r i).src).any (i.k.rngHeld i.lid)
  run := fun i d => d.issueVS i

def badFN (w : Word) : Bool := decide (64 ≤ mFN w)

def opVsadd : OpDef := opVS 0x50 1 (fun w => [.s (rD w), .s (rA w), .s (rB w), .s (rN w)]) fun i =>
  { dst := [⟨vsD i, 4 * vsN i, 4⟩], src := [⟨vsA i, 4 * vsN i, 4⟩, ⟨vsB i, 4 * vsN i, 4⟩] }
def opVsmul : OpDef := { opVsadd with code := 0x51 }
def opVsaxpy : OpDef :=
  { opVsadd with code := 0x52, uses := fun w => [.s (rD w), .s (rA w), .s (rB w), .s (rN w), .s (mSX w)] }
def opVssum : OpDef := opVS 0x53 1 (fun w => [.s (rD w), .s (rA w), .s (rN w)]) fun i => { src := [⟨vsA i, 4 * vsN i, 4⟩] }
def opVsamax : OpDef := { opVssum with code := 0x54 }

/-- Formats `vscvt` converts between (R92), and where FN[6] has a meaning (R126): to BF16 from FP32; from another source it is ILLEGAL_OP
(DESIGN CHOICE, log 104). -/
def badCvt (w : Word) : Bool :=
  let ok := fun (f : Nat) => decide (f ≤ 2) || f == 6
  !ok (fnLo w) || !ok (fnHi w) || nbit (mFN w) 7 || (nbit (mFN w) 6 && !(fnLo w == 0 && fnHi w == 1))
def opVscvt : OpDef := opVS 0x55 1
  (fun w => [.s (rD w), .s (rA w), .s (rN w)] ++ if nbit (mFN w) 6 then [.s (mSX w)] else [])
  (fun i => { dst := [⟨vsD i, packedLen (fnHi i.w) (vsN i), packedLen (fnHi i.w) 1⟩],
              src := [⟨vsA i, packedLen (fnLo i.w) (vsN i), packedLen (fnLo i.w) 1⟩] }) (bad := badCvt)

/-- `vsquant` and `vsdequant` use formats 3–5. -/
def badScaled (w : Word) : Bool := badFN w || !(decide (3 ≤ fnLo w) && decide (fnLo w ≤ 5))
def usesDANX (w : Word) : List Reg := [.s (rD w), .s (rA w), .s (rN w), .s (mSX w)]
def opVsquant : OpDef := opVS 0x56 32 usesDANX
  (fun i => { dst := [⟨vsD i, scaledLen (fnLo i.w) (vsN i), 16⟩], src := [⟨vsA i, 4 * vsN i, 4⟩] }) (bad := badScaled)
def opVsdequant : OpDef := opVS 0x57 32 usesDANX
  (fun i => { dst := [⟨vsD i, 4 * vsN i, 4⟩], src := [⟨vsA i, scaledLen (fnLo i.w) (vsN i), 16⟩] }) (bad := badScaled)

/-- `mout`: format 7 is undefined, SA bits [4:2] are zero; FN[3] clears the tile (R97). -/
def opMout : OpDef := opVS 0x58 1
  (fun w => [.a (rA w % 4), .s (rD w), .s (mSX w)]) (fun i => { dst := [⟨vsD i, moutLen (fnLo i.w), 16⟩] }) (fun _ => 512)
  (fun w => badFN w || fnLo w == 7 || decide (4 ≤ rA w)) (fun w => if nbit (mFN w) 3 then [rA w % 4] else [])
def opMld : OpDef := opVS 0x59 1
  (fun w => [.a (rA w % 4), .s (rB w)]) (fun i => { src := [⟨vsB i, 2048, 16⟩] }) (fun _ => 512)
  (fun w => badFN w || decide (4 ≤ rA w)) (fun w => [rA w % 4])

def opBfxexp : OpDef := opVS 0x5C 64 (fun w => [.s (rD w), .s (rA w), .s (rN w)]) fun i =>
  { dst := [⟨vsD i, vsN i / 64, 1⟩], src := [⟨vsA i, 4 * vsN i, 4⟩] }
def usesDABN (w : Word) : List Reg := [.s (rD w), .s (rA w), .s (rB w), .s (rN w)]
def opBfxpack : OpDef := opVS 0x5D 64 usesDABN fun i =>
  { dst := [⟨vsD i, vsN i / 64 * bfxLen i.w, 16⟩], src := [⟨vsA i, 4 * vsN i, 4⟩, ⟨vsB i, vsN i / 64, 1⟩] }
def opBfxunpack : OpDef := opVS 0x5E 64 usesDABN fun i =>
  { dst := [⟨vsD i, 4 * vsN i, 4⟩], src := [⟨vsA i, vsN i / 64 * bfxLen i.w, 16⟩, ⟨vsB i, vsN i / 64, 1⟩] }

/-! ### A unit at work: reads and writes that stop at the first error -/

/-- The device while an instruction of core c runs, with the first error met as (code, address). -/
structure Work where
  d   : Dev
  err : Option (Nat × Nat) := none

/-- Operand bytes at an address of the own scratchpad (R57); no byte is no access. -/
def Work.rd (m : Work) (c a n : Nat) : List Byte × Work :=
  if m.err.isSome || n = 0 then ([], m)
  else match ownRange (m.d.lid c) a n with
    | none => ([], { m with err := some (2, a) })
    | some b => match m.d.spRead c b n with
      | (some ue, _, d) => ([], { d, err := some (9, ue) })
      | (none, bs, d) => (bs, { m with d })
/-- Result bytes; a narrow write to an uncorrectable codeword has no effect there and is an error (R57, R264). -/
def Work.wr (m : Work) (c a : Nat) (bs : List Byte) : Work :=
  if m.err.isSome then m
  else match ownRange (m.d.lid c) a bs.length with
    | none => { m with err := some (2, a) }
    | some b => match m.d.spWrite c b bs with
      | (some ue, d) => { d, err := some (9, ue) }
      | (none, d) => { m with d }
def Work.log (m : Work) (c : Nat) (f : LCore → LCore) : Work :=
  if m.err.isSome then m else { m with d := m.d.modLog c f }

/-! ### What each computes -/

/-- d[i] ← f a[i] b[i]. -/
def vsMap2 (f : Lane → Lane → Lane) (c : Nat) (u : UOp) (m : Work) : Work :=
  let n := u.n.toNat
  let a := m.rd c u.a.toNat (4 * n)
  let b := a.2.rd c u.b.toNat (4 * n)
  b.2.wr c u.d.toNat (lanesBytes (List.zipWith f (f32s a.1 n) (f32s b.1 n)))

/-- s[SD] ← f of a[0..n−1]. -/
def vsReduce (f : List Lane → Lane) (c : Nat) (u : UOp) (m : Work) : Work :=
  let n := u.n.toNat
  let a := m.rd c u.a.toNat (4 * n)
  a.2.log c (·.setS (rD u.w) ((f (f32s a.1 n)).setWidth 64))

/-- The generator word of a site for a job (R129). -/
def Dev.draw (d : Dev) (step site seq pos tile elem : Nat) : Nat :=
  drawD (mix (d.reg 0x400) (drawCtr step site seq pos tile elem))

/-- `vscvt` (R92, R117, R126, R127). -/
def vsCvt (c : Nat) (u : UOp) (m : Work) : Work :=
  let n := u.n.toNat; let f := fnLo u.w; let g := fnHi u.w
  let a := m.rd c u.a.toNat (packedLen f n)
  let stoch := nbit (mFN u.w) 6 && u.level == 1
  let out := (List.range n).map fun i =>
    let v := decodeEl f (unpackEl f a.1 i)
    if stoch then encodeStoch g (m.d.draw u.step 1 (bits u.x 11 0) (m.d.lid c) 0 i) v else encodeEl g v
  a.2.wr c u.d.toNat (packEls g out)

/-- Elements and scale bytes of consecutive blocks (R115). -/
def quantBlocks (f : Nat) (e : Int) (blocks : List (List FV)) : List Byte :=
  let r := blocks.map (toBlock f e)
  packEls f (r.flatMap Prod.fst) ++ r.map fun x => BitVec.ofNat 8 x.2

def vsQuant (c : Nat) (u : UOp) (m : Work) : Work :=
  let n := u.n.toNat
  let a := m.rd c u.a.toNat (4 * n)
  a.2.wr c u.d.toNat (quantBlocks (fnLo u.w) (scaleExp u.x) ((chunks 32 (n / 32) (f32s a.1 n)).map fun l => l.map f32))

def vsDequant (c : Nat) (u : UOp) (m : Work) : Work :=
  let n := u.n.toNat; let f := fnLo u.w
  let a := m.rd c u.a.toNat (scaledLen f n)
  let out := (List.range n).map fun i =>
    toF32 (scaledVal f (unpackEl f a.1 i) (byteAt a.1 (packedLen f n + i / 32)) (scaleExp u.x))
  a.2.wr c u.d.toNat (lanesBytes out)

/-! ### Tiles -/

/-- Clear a tile to FP32 +0.0, counting the clear (R97, R122, R130). -/
def Tile.clear (t : Tile) : Tile :=
  { clears := if t.cleared then (t.clears + 1) % 4096 else t.clears, cleared := true }
def Tile.at (t : Tile) (i : Nat) : Lane := NMap.get 0 t.elems i
/-- The exact value of an element of either kind (R97). -/
def Tile.val (t : Tile) (i : Nat) : FV :=
  if t.isInt then let v := signed 32 (t.at i).toNat; .fin (decide (v < 0)) v.natAbs 0 else f32 (t.at i)
/-- A tile with all its elements replaced. -/
def Tile.fill (t : Tile) (xs : List Lane) : Tile :=
  { t with elems := ((List.range 512).zip xs).filter fun e => e.2 ≠ 0 }

/-- `mout` (R97). -/
def vsMout (c : Nat) (u : UOp) (m : Work) : Work :=
  let n := rA u.w % 4; let t := (m.d.core c).log.tile n
  let f := fnLo u.w; let e := scaleExp u.x
  let bs :=
    if f = 0 then lanesBytes ((List.range 512).map t.at)
    else if f = 1 || f = 2 || f = 6 then packEls f ((List.range 512).map fun i => encodeEl f ((t.val i).scale (-e)))
    else quantBlocks f e ((List.range 16).map fun r => (List.range 32).map fun k => t.val (32 * r + k))
  let m := m.wr c u.d.toNat bs
  if nbit (mFN u.w) 3 then m.log c (·.setTile n t.clear) else m

/-- `mld` (R97): 2,048 bytes of row-major FP32 into a cleared tile. -/
def vsMld (c : Nat) (u : UOp) (m : Work) : Work :=
  let n := rA u.w % 4
  let a := m.rd c u.b.toNat 2048
  a.2.log c fun l => l.setTile n ((l.tile n).clear.fill (f32s a.1 512))

/-! ### Block fixed point -/

/-- The biased exponent field of an FP32 element. -/
def expField (x : Lane) : Nat := bits x 30 23

/-- `bfxexp`: the largest exponent of the block, FFh when an element is not finite (R98). -/
def vsBfxexp (c : Nat) (u : UOp) (m : Work) : Work :=
  let n := u.n.toNat
  let a := m.rd c u.a.toNat (4 * n)
  a.2.wr c u.d.toNat ((chunks 64 (n / 64) (f32s a.1 n)).map fun l =>
    BitVec.ofNat 8 (l.foldl (fun e x => max e (expField x)) 0))

/-- The width in bits, the exponent offset of the quantum and the clamp of the two widths (R305). -/
def bfxBits (w : Word) : Nat := if nbit (mFN w) 0 then 24 else 40
def bfxOff (w : Word) : Int := if nbit (mFN w) 0 then 135 else 151
def bfxCap (w : Word) : Nat := if nbit (mFN w) 0 then 512 else 2 ^ 25

/-- One element packed against a shared exponent: its integer and whether the clamp flag is due (R305). -/
def bfxElem (w : Word) (ex : Nat) (x : Lane) : Int × Bool :=
  match f32 x with
  | .fin neg n k =>
    let k := k - (ex - bfxOff w)
    let q : Nat := min (roundInt n k) (bfxCap w - 1)
    (if neg then -(q : Int) else q, !(FV.fin false n k).lt (.fin false (bfxCap w) 0))
  | _ => (0, false)

/-- The packed block of 64 integers (Table — Packed block). -/
def packBlock (w : Word) (ns : List Int) (flags : Nat) : List Byte :=
  let res := (ns.foldl (· + ·) 0) % 127
  let b := ns.flatMap fun n => leBytes (bfxBits w / 8) (wrap (bfxBits w) n)
  b ++ [BitVec.ofNat 8 res.toNat, BitVec.ofNat 8 flags] ++ List.replicate (bfxLen w - b.length - 2) 0

/-- `bfxpack` on one block (R99, R305, R306). -/
def bfxBlock (w : Word) (ex : Nat) (xs : List Lane) : List Byte :=
  let own := xs.any fun x => expField x == 0xFF
  if ex = 0xFF || own then packBlock w (List.replicate 64 0) (1 + 16 * b2n own)
  else
    let r := xs.map (bfxElem w ex)
    packBlock w (r.map Prod.fst) (8 * b2n (r.any Prod.snd))

def vsBfxpack (c : Nat) (u : UOp) (m : Work) : Work :=
  let n := u.n.toNat
  let a := m.rd c u.a.toNat (4 * n)
  let b := a.2.rd c u.b.toNat (n / 64)
  b.2.wr c u.d.toNat (((chunks 64 (n / 64) (f32s a.1 n)).zip b.1).flatMap fun x => bfxBlock u.w x.2.toNat x.1)

/-- `bfxunpack` on one block: +0.0 under flag bit 0; N × q otherwise (R100, R307). Under the exponent FFh without the flag
the spec gives no quantum: the lanes are free values from `fresh` on (log 3). -/
def bfxUnblock (w : Word) (ex fresh : Nat) (bs : List Byte) : List Lane :=
  let z := bfxBits w / 8
  if nbit (byteAt bs (64 * z + 1)) 0 then List.replicate 64 0
  else (List.range 64).map fun i =>
    let v := signed (bfxBits w) (ofBytes (slice bs (z * i) z))
    if ex = 0xFF then Config.freeLane (fresh + i) else toF32 (.fin (decide (v < 0)) v.natAbs (ex - bfxOff w))

def vsBfxunpack (c : Nat) (u : UOp) (m : Work) : Work :=
  let n := u.n.toNat; let z := bfxLen u.w
  let a := m.rd c u.a.toNat (n / 64 * z)
  let b := a.2.rd c u.b.toNat (n / 64)
  let out := (List.range (n / 64)).flatMap fun j =>
    bfxUnblock u.w (byteAt b.1 j) (m.d.fresh + 64 * j) (slice a.1 (z * j) z)
  let m := b.2.wr c u.d.toNat (lanesBytes out)
  { m with d := { m.d with fresh := m.d.fresh + n } }

/-! ### The commands -/

/-- vsadd (R118). -/
def execVsadd (c : Nat) (s : State) : Host.Outcome State Fault Refusal := coreCmd opVsadd c s
/-- vsmul (R118). -/
def execVsmul (c : Nat) (s : State) : Host.Outcome State Fault Refusal := coreCmd opVsmul c s
/-- vsaxpy (R118). -/
def execVsaxpy (c : Nat) (s : State) : Host.Outcome State Fault Refusal := coreCmd opVsaxpy c s
/-- vssum (R119). -/
def execVssum (c : Nat) (s : State) : Host.Outcome State Fault Refusal := coreCmd opVssum c s
/-- vsamax (R118). -/
def execVsamax (c : Nat) (s : State) : Host.Outcome State Fault Refusal := coreCmd opVsamax c s
/-- vscvt (R92). -/
def execVscvt (c : Nat) (s : State) : Host.Outcome State Fault Refusal := coreCmd opVscvt c s
/-- vsquant (R92, R115). -/
def execVsquant (c : Nat) (s : State) : Host.Outcome State Fault Refusal := coreCmd opVsquant c s
/-- vsdequant (R92, R117). -/
def execVsdequant (c : Nat) (s : State) : Host.Outcome State Fault Refusal := coreCmd opVsdequant c s
/-- mout (R97). -/
def execMout (c : Nat) (s : State) : Host.Outcome State Fault Refusal := coreCmd opMout c s
/-- mld (R97). -/
def execMld (c : Nat) (s : State) : Host.Outcome State Fault Refusal := coreCmd opMld c s
/-- bfxexp (R98). -/
def execBfxexp (c : Nat) (s : State) : Host.Outcome State Fault Refusal := coreCmd opBfxexp c s
/-- bfxpack (R99). -/
def execBfxpack (c : Nat) (s : State) : Host.Outcome State Fault Refusal := coreCmd opBfxpack c s
/-- bfxunpack (R100). -/
def execBfxunpack (c : Nat) (s : State) : Host.Outcome State Fault Refusal := coreCmd opBfxunpack c s

end Sys2Proof.Machine
end

