-- ==== Sys2Proof/Machine/Matrix.lean ====
section
/-!
DEFINITION. Matrix instructions (03 R93–R97, 04 R120–R124, R140–R144, 05 R152–R158): their checks at issue, the compressed
tiles, the group sums and the checks on the tile they leave.
-/
namespace Sys2Proof.Machine

/-! ### Operands (R93) -/

/-- The element formats of A and B for a FMT (Table — Small field codes). -/
def fmtA (m : Nat) : Nat := match m with | 0 => 3 | 1 => 3 | 2 => 4 | 3 => 4 | 4 => 5 | 5 => 6 | 6 => 1 | _ => 2
def fmtB (m : Nat) : Nat := match m with | 0 => 3 | 1 => 4 | 2 => 3 | 3 => 4 | 4 => 5 | 5 => 6 | 6 => 1 | _ => 2
def isScaled (f : Nat) : Bool := decide (3 ≤ f) && decide (f ≤ 5)
/-- Bytes of an A block of 16 × 32 and of a dense B tile of 32 × 32. -/
def aBlock (f : Nat) : Nat := packedLen f 512 + if isScaled f then 16 else 0
def bTile (f : Nat) : Nat := packedLen f 1024 + if isScaled f then 32 else 0

/-- Element i of packed elements under a scale byte at `sc`, or unscaled. -/
def elemVal (f : Nat) (bs : List Byte) (i sc : Nat) : FV :=
  let x := unpackEl f bs i
  if isScaled f then scaledVal f x (byteAt bs sc) 0 else decodeEl f x
/-- Element (r, k) of an A block, element (k, c) of a dense B tile. -/
def aElem (f : Nat) (bs : List Byte) (r k : Nat) : FV := elemVal f bs (32 * r + k) (packedLen f 512 + r)
def bElem (f : Nat) (bs : List Byte) (k c : Nat) : FV := elemVal f bs (32 * c + k) (packedLen f 1024 + c)

/-! ### Checks at issue -/

def matK (i : Iss) : Nat := (i.s (rB i.w)).toNat
def matA (i : Iss) : Nat := (i.s (rD i.w)).toNat
def matB (i : Iss) : Nat := (i.s (rA i.w)).toNat
def matM (i : Iss) : Nat := (i.s (aSM i.w)).toNat
/-- K is a multiple of 32 from 32 to 16,384 (R94). -/
def badK (k : Nat) : Bool := k % 32 ≠ 0 || decide (k < 32) || decide (16384 < k)

/-- The ranges a matrix instruction reads: A, and what `more` adds. -/
def matRngs (more : Iss → List Rng) (i : Iss) : List Rng :=
  ⟨matA i, matK i / 32 * aBlock (fmtA (aFMT i.w)), 16⟩ :: more i

/-- Late errors: K, a tile of the other kind with Z = 0 (R97), ranges, a misplaced B. -/
def matErrs (more : Iss → List Rng) (i : Iss) : List (Nat × Nat) :=
  (if badK (matK i) || (!aZ i.w && (i.k.log.tile (aAD i.w)).isInt != (aFMT i.w == 5)) then [(1, 0)] else []) ++
  (matRngs more i).flatMap (i.k.rngErrs i.lid) ++
  (if matB i % 16 ≠ 0 then [(4, matB i)] else [])

/-- A matrix instruction over the ranges `more` beside A; `late` are bytes of B that the unit finds only as it works, which hold the
instruction at issue all the same (R63, R87). -/
def opMat (code : Nat) (sm : Bool) (more : Iss → List Rng) (late : Iss → List Rng := fun _ => []) : OpDef where
  code := code
  used := fun _ => [(37, 23), (22, 6)]
  bad := fun i => aFMT i.w == 5 && aLS i.w
  uses := fun w => [.s (rD w), .s (rA w), .s (rB w), .a (aAD w)] ++ if sm then [.s (aSM w)] else []
  tiles := fun w => [aAD w]
  tags := fun w => [rT w]
  late := matErrs more
  held := fun i => i.slow || i.k.log.muFull || (matRngs more i ++ late i).any (i.k.rngHeld i.lid)
  run := fun i d => d.issueM i

/-- The sizes of the tiles that the metadata words at s[SM] name as the instruction issues (R156). -/
def sparseSize (i : Iss) : Nat :=
  match ownRange i.lid (matM i) (matK i / 32 * 8) with
  | some m => ((List.range (matK i / 32)).map fun j => 16 * (ofBytes (getBytes i.k.log.spad (m + 8 * j) 8) / 2 ^ 28 % 256)).foldl (· + ·) 0
  | none => 0
/-- The bytes of column `col` of a gathered B of base `b`: of each tile, its 32 elements and its scale byte (R93, R96). -/
def gatherRngs (f b k col : Nat) : List Rng :=
  (List.range (k / 32)).flatMap fun kb =>
    let a := b + col / 32 * (k / 32) * bTile f + kb * bTile f
    ⟨a + col % 32 * packedLen f 32, packedLen f 32, 1⟩ :: if isScaled f then [⟨a + packedLen f 1024 + col % 32, 1, 1⟩] else []
/-- The columns that the gather list at s[SM] names as the instruction issues. -/
def gatherCols (i : Iss) : List Nat :=
  match ownRange i.lid (matM i) 64 with
  | some m => ((List.range 32).map fun j => ofBytes (getBytes i.k.log.spad (m + 2 * j) 2)).filter (· ≠ 0xFFFF)
  | none => []

def opMma : OpDef := opMat 0x60 false fun i => [⟨matB i, matK i / 32 * bTile (fmtB (aFMT i.w)), 16⟩]
/-- `mmasp`: the metadata words are checked at issue, each tile when the unit reaches it (R157). -/
def opMmasp : OpDef := opMat 0x61 true (fun i => [⟨matM i, matK i / 32 * 8, 8⟩])
  fun i => [⟨matB i, sparseSize i, 1⟩]
/-- `mmag`: the gather list is checked at issue, a gathered column when the unit reads it (R96). -/
def opMmag : OpDef := opMat 0x62 true (fun i => [⟨matM i, 64, 2⟩])
  fun i => (gatherCols i).flatMap (gatherRngs (fmtB (aFMT i.w)) (matB i) (matK i))

/-- mma (R94). -/
def execMma (c : Nat) (s : State) : Host.Outcome State Fault Refusal := coreCmd opMma c s
/-- mmasp (R95). -/
def execMmasp (c : Nat) (s : State) : Host.Outcome State Fault Refusal := coreCmd opMmasp c s
/-- mmag (R96). -/
def execMmag (c : Nat) (s : State) : Host.Outcome State Fault Refusal := coreCmd opMmag c s

/-! ### Compressed tiles (R152–R158) -/

/-- The fields of a tile metadata word. -/
def mdForm (w : Word) : Nat := bits w 63 60
def mdNLift (w : Word) : Nat := bits w 59 58
def mdCol (w : Word) : Bool := bit w 57
def mdLift0 (w : Word) : Nat := bits w 56 52
def mdLift1 (w : Word) : Nat := bits w 51 47
def mdSize (w : Word) : Nat := 16 * bits w 35 28
def mdElem (w : Word) : Nat := bits w 27 25
def mdTrans (w : Word) : Bool := bit w 24
/-- The lifted lines of a tile, in lift order. -/
def mdLifts (w : Word) : List Nat := [mdLift0 w, mdLift1 w].take (mdNLift w)
/-- Slots per group of a form. -/
def formSlots (form : Nat) : Nat := match form with | 1 => 4 | 2 => 2 | _ => 8
/-- The size of a tile (Table — Tile sizes). -/
def tileSize (f form nlift : Nat) : Nat :=
  if form = 0 then bTile f
  else packedLen f (128 * formSlots form) + (if form = 1 then 256 else 128) + nlift * packedLen f 32 +
    if isScaled f then 32 else 0

/-- The checks on a metadata word itself (R156, R157). A LIFT field set without its line, LIFT1 not above LIFT0 and lifts of a dense tile
fail it as reserved values do (DEDUCED, log 106). -/
def mdBad (fmt : Nat) (w : Word) : Bool :=
  oddOnes 41 (bits w 63 23) || decide (2 < mdForm w) || mdNLift w == 3 || bits w 22 0 ≠ 0 ||
  (mdForm w == 0 && mdNLift w ≠ 0) || (mdNLift w == 0 && mdLift0 w ≠ 0) ||
  (if mdNLift w == 2 then decide (mdLift1 w ≤ mdLift0 w) else mdLift1 w ≠ 0) ||
  mdElem w ≠ fmtB fmt || (mdForm w == 2 && (decide (5 ≤ fmt) || mdTrans w)) || (mdCol w && !mdTrans w) ||
  mdSize w ≠ tileSize (fmtB fmt) (mdForm w) (mdNLift w)

/-- The code entry of (c, g) and the position code of slot j in it (R155). -/
def codeEntry (f form : Nat) (bs : List Byte) (c g : Nat) : Nat :=
  let o := packedLen f (128 * formSlots form)
  if form = 1 then ofBytes (slice bs (o + 2 * (4 * c + g)) 2) else byteAt bs (o + 4 * c + g)
def slotCode (f form : Nat) (bs : List Byte) (c g j : Nat) : Nat := codeEntry f form bs c g / 8 ^ j % 8
/-- The value of slot j of group g of column c. -/
def slotVal (f : Nat) (w : Word) (bs : List Byte) (c g j : Nat) : FV :=
  elemVal f bs ((4 * c + g) * formSlots (mdForm w) + j) (tileSize f (mdForm w) (mdNLift w) - 32 + c)
/-- The value of place i of the sliver of lift l. -/
def sliverVal (f : Nat) (w : Word) (bs : List Byte) (l i c : Nat) : FV :=
  let o := packedLen f (128 * formSlots (mdForm w)) + (if mdForm w = 1 then 256 else 128) + l * packedLen f 32
  let x := unpackEl f (bs.drop o) i
  if isScaled f then scaledVal f x (byteAt bs (tileSize f (mdForm w) (mdNLift w) - 32 + c)) 0 else decodeEl f x

/-- The checks on a compressed tile's contents (R157). -/
def tileBad (f : Nat) (w : Word) (bs : List Byte) : Bool :=
  let form := mdForm w; let n := formSlots form
  form ≠ 0 && (List.range 32).any fun c => (List.range 4).any fun g =>
    let live := (List.range n).filter fun j => !(slotVal f w bs c g j).isZero
    decide (codeEntry f form bs c g ≥ 8 ^ n) ||
    (live.any fun j => live.any fun k => decide (j < k) && slotCode f form bs c g j == slotCode f form bs c g k) ||
    (live.any fun j => if mdCol w then (mdLifts w).contains c else (mdLifts w).contains (8 * g + slotCode f form bs c g j))

/-- Element (k, c) of the decompressed tile (R158): of the slots under its code the non-zero one, else a −0 (DEDUCED, log 107), else +0. -/
def tileElem (f : Nat) (w : Word) (bs : List Byte) (k c : Nat) : FV :=
  if mdForm w = 0 then bElem f bs k c
  else
    match (List.range (mdNLift w)).find? fun l => (mdLifts w).getD l 32 == if mdCol w then c else k with
    | some l => sliverVal f w bs l (if mdCol w then k else c) c
    | none =>
      let vs := ((List.range (formSlots (mdForm w))).filter fun j => slotCode f (mdForm w) bs c (k / 8) j == k % 8).map
        (slotVal f w bs c (k / 8))
      match (vs.find? fun v => !v.isZero).orElse fun _ => vs.find? (· == .fin true 0 0) with
      | some v => v
      | none => if isScaled f then scaledVal f 0 (byteAt bs (tileSize f (mdForm w) (mdNLift w) - 32 + c)) 0
                else .fin false 0 0

/-! ### The product -/

/-- Exact arithmetic on finite values, rounding toward +∞ into FP32 (R142). -/
def roundUp (v : FV) : Lane :=
  match v with
  | .fin false n u =>
    let c := cutMag 23 (fmtSub 0) n u
    BitVec.ofNat 32 (min (if c.2.1 = 0 then c.1 else c.1 + 1) 0x7F800000)
  | v => toF32 v

/-- A tile under computation: its elements in row-major order, saturation, and per column the check value and magnitude. -/
structure Acc where
  el  : List Lane
  sat : Bool
  cc  : List Lane
  mc  : List Lane
  ci  : List Int

/-- The sum of a column's 16 elements in ascending row order (R142). -/
def colSum (f : Lane → Lane) (el : List Lane) (c : Nat) : Lane :=
  (List.range 16).foldl (fun a r => fadd a (f (el.getD (32 * r + c) 0))) 0

def accOf (isInt : Bool) (el : List Lane) (sat : Bool) : Acc :=
  { el, sat,
    cc := (List.range 32).map (colSum id el),
    mc := (List.range 32).map fun c => (List.range 16).foldl (fun a r =>
      roundUp ((f32 a).add (f32 (fabs (el.getD (32 * r + c) 0))))) 0,
    ci := (List.range 32).map fun c => if isInt then
        (List.range 16).foldl (fun a r => a + signed 32 (el.getD (32 * r + c) 0).toNat) 0 else 0 }

/-- The products of one group for element (r, c). -/
def products (a b : Nat → Nat → FV) (k0 n r c : Nat) : List FV :=
  (List.range n).map fun k => (a r (k0 + k)).mul (b (k0 + k) c)

/-- One group of up to 128 products added into every element (R120–R122, R124), and into the check row (R142). -/
def Acc.group (isInt : Bool) (draw : Nat → Option Nat) (a b : Nat → Nat → FV) (k0 n : Nat) (x : Acc) : Acc :=
  let ps := (List.range 512).map fun i => products a b k0 n (i / 32) (i % 32)
  if isInt then
    let gs := ps.map fun l => (l.foldl FV.add (.fin false 0 0)).at 0
    let r := List.zipWith groupAddInt x.el gs
    { x with el := r.map Prod.fst, sat := x.sat || r.any Prod.snd,
             ci := (List.range 32).map fun c => x.ci.getD c 0 +
               (List.range 16).foldl (fun s r => s + gs.getD (32 * r + c) 0) 0 }
  else
    let gs := ps.map groupSum
    { x with
      el := (List.range 512).map fun i => groupAdd (draw i) (x.el.getD i 0) (gs.getD i .nan)
      cc := (List.range 32).map fun c => toF32 ((List.range 16).foldl (fun s r => s.add (gs.getD (32 * r + c) .nan))
        (f32 (x.cc.getD c 0)))
      mc := (List.range 32).map fun c => roundUp ((List.range 16).foldl (fun s r =>
        (ps.getD (32 * r + c) []).foldl (fun s p => s.add p.abs) s) (f32 (x.mc.getD c 0))) }

/-- Whether column c fails the check of R142 after G groups. -/
def Acc.badCol (isInt : Bool) (x : Acc) (g c : Nat) : Bool :=
  if isInt then
    !x.sat && (List.range 16).foldl (fun a r => a + signed 32 (x.el.getD (32 * r + c) 0).toNat) 0 ≠ x.ci.getD c 0
  else
    let s := f32 (colSum id x.el c); let k := f32 (x.cc.getD c 0); let m := f32 (x.mc.getD c 0)
    if !s.isFin || !k.isFin || !m.isFin then false
    else
      let tol := ((m.scale (-23)).add (.fin false 1 (-149))).mul (.fin false (2 * g + 32) 0)
      tol.lt (s.add k.neg).abs

/-- The outcome of the unit's work: the tile, the groups added, and the error that ended it as (code, address). -/
structure MatOut where
  acc    : Acc
  groups : Nat := 0
  err    : Option (Nat × Nat) := none

/-- The groups of an instruction, `whole` of its K being usable. -/
def runGroups (isInt : Bool) (draw : Nat → Nat → Option Nat) (a b : Nat → Nat → FV) (k : Nat) : Nat → Acc → Acc × Nat
  | 0, x => (x, 0)
  | n + 1, x =>
    let r := runGroups isInt draw a b k n x
    if 128 * n < k then (r.1.group isInt (draw r.2) a b (128 * n) (min 128 (k - 128 * n)), r.2 + 1) else r

/-- The bytes of each B operand piece, as element (k, c), with the first error and how many k-rows stand before it. -/
structure BOp where
  at_   : Nat → Nat → FV
  rows  : Nat
  err   : Option (Nat × Nat) := none
  forms : List Nat := []
  lifts : Nat := 0

/-- Dense B (R93). -/
def denseB (u : UOp) (c k : Nat) (m : Work) : BOp × Work :=
  let f := fmtB (aFMT u.w)
  let r := m.rd c u.b.toNat (k / 32 * bTile f)
  let tiles := chunks (bTile f) (k / 32) r.1
  ({ at_ := fun k c => bElem f (tiles.getD (k / 32) []) (k % 32) c, rows := k }, r.2)

/-- Compressed B, tile by tile (R155–R157). -/
def sparseTiles (fmt c lid : Nat) (sm : Nat) : List Word → Nat → Nat → Work →
    List (Word × List Byte) × Option (Nat × Nat) × Work
  | [], _, _, m => ([], none, m)
  | w :: ws, a, j, m =>
    let off := (ownRange lid (sm + 8 * j) 8).getD 0
    if mdBad fmt w then ([], some (1, off), m)
    else
      let n := mdSize w
      match ownRange lid a n with
      | none => ([], some (2, off), m)
      | some b =>
        let k := m.d.core c
        if k.anyBank b n 1 then ([], some (6, off), m)
        else if b + n > k.spillBase then ([], some (5, off), m)
        else
          let r := m.rd c a n
          if r.2.err.isSome then ([], none, r.2)
          else if tileBad (fmtB fmt) w r.1 then ([], some (1, off), r.2)
          else
            let rest := sparseTiles fmt c lid sm ws (a + n) (j + 1) r.2
            ((w, r.1) :: rest.1, rest.2)

def sparseB (u : UOp) (c k : Nat) (m : Work) : BOp × Work :=
  let fmt := aFMT u.w
  let r := m.rd c u.x.toNat (k / 32 * 8)
  let ws := (chunks 8 (k / 32) r.1).map fun b => BitVec.ofNat 64 (ofBytes b)
  let t := sparseTiles fmt c (m.d.lid c) u.x.toNat ws u.b.toNat 0 r.2
  ({ at_ := fun k c => match t.1[k / 32]? with
       | some x => tileElem (fmtB fmt) x.1 x.2 (k % 32) c
       | none => .fin false 0 0,
     rows := 32 * t.1.length, err := t.2.1, forms := t.1.map fun x => mdForm x.1,
     lifts := (t.1.map fun x => mdNLift x.1).foldl (· + ·) 0 }, t.2.2)

/-- A piece of a gathered column as the unit reads it: a range that leaves the scratchpad, or touches a gated bank or the spill ring, ends
the instruction with the error of R90 (R96; DEDUCED for the latter two, log 108). -/
def Work.rdB (m : Work) (c : Nat) (r : Rng) : List Byte × Work :=
  match m.err, ownRange (m.d.lid c) r.a r.n with
  | none, some b =>
    let k := m.d.core c
    if k.anyBank b r.n 1 then ([], { m with err := some (6, r.a) })
    else if b + r.n > k.spillBase then ([], { m with err := some (5, r.a) })
    else m.rd c r.a r.n
  | _, _ => m.rd c r.a r.n

/-- Gathered B: each listed column's bytes read from its group; FFFFh feeds zeros (R96, R123), also against an infinite or NaN A element,
whose product is then NaN by R121 (DESIGN CHOICE, log 100). -/
def gatherB (u : UOp) (c k : Nat) (m : Work) : BOp × Work :=
  let f := fmtB (aFMT u.w)
  let r := m.rd c u.x.toNat 64
  let cols := (List.range 32).map fun j => ofBytes (slice r.1 (2 * j) 2)
  let w := packedLen f 32
  let got := cols.foldl (fun (x : List (List (List Byte)) × Work) col =>
    if col = 0xFFFF then (x.1 ++ [[]], x.2)
    else
      let y := (gatherRngs f u.b.toNat k col).foldl (fun (y : List Byte × Work) r =>
        let z := y.2.rdB c r
        (y.1 ++ z.1, z.2)) ([], x.2)
      (x.1 ++ [chunks (w + b2n (isScaled f)) (k / 32) y.1], y.2)) ([], r.2)
  ({ at_ := fun k j => match got.1[j]? with
       | some [] => .fin false 0 0
       | some bl => elemVal f (bl.getD (k / 32) []) (k % 32) w
       | none => .fin false 0 0,
     rows := k }, got.2)

/-! ### Completion -/

/-- The element magnitudes at or past 2^RANGE_EXP (R140). -/
def overRange (isInt : Bool) (ex : Nat) (x : Lane) : Bool :=
  if isInt then decide (2 ^ ex ≤ (signed 32 x.toNat).natAbs)
  else let v := f32 x; v.isFin && !v.abs.lt (.fin false 1 ex)

/-- The errors of the tile a matrix instruction leaves, as (code, whether it stops the core) by ascending code (R140–R144). -/
def tileErrs (isInt checked : Bool) (num : Word) (g : Nat) (x : Acc) : List (Nat × Bool) :=
  (if x.el.any (overRange isInt (bits num 7 0)) then [(0xF, bit num 8)] else []) ++
  (if (if isInt then x.sat else x.el.any fun l => !(f32 l).isFin) then [(0x10, bit num 9)] else []) ++
  (if checked && ((List.range 32).any (x.badCol isInt g)) then [(0x11, true)] else [])

/-- Tag and record the end of a unit's instruction: `errs` of one cycle as (code, address), whether they stop the core. -/
def Dev.endUnit (d : Dev) (c : Nat) (u : UOp) (stop : Bool) (errs : List (Nat × Nat)) : Dev :=
  let tag := u.tag.getD 0
  let d := d.modLog c (·.tagDone tag (if stop then 2 else 0))
  match errs with
  | [] => d
  | e :: es =>
    let d := if stop then d.coreStop c e.1 u.pc 3 tag e.2 0 else d.coreErr c e.1 u.pc 3 tag e.2 0
    es.foldl (fun d e => d.coreErr c e.1 u.pc 3 tag e.2 0) d

/-- The work of a matrix instruction on the tile it names. -/
def matRun (c : Nat) (u : UOp) (d : Dev) : Dev :=
  let fmt := aFMT u.w; let isInt := fmt == 5; let n := aAD u.w; let k := u.n.toNat
  let a := ({ d := d } : Work).rd c u.a.toNat (k / 32 * aBlock (fmtA fmt))
  let o := opcodeOf u.w
  let b := if o == 0x61 then sparseB u c k a.2 else if o == 0x62 then gatherB u c k a.2 else denseB u c k a.2
  let d := b.2.d
  match b.2.err with
  | some e => d.endUnit c u true [e]
  | none =>
    let blocks := chunks (aBlock (fmtA fmt)) (k / 32) a.1
    let av := fun (r k : Nat) => aElem (fmtA fmt) (blocks.getD (k / 32) []) r (k % 32)
    let t := (d.core c).log.tile n
    let t := if aZ u.w then t.clear else t
    let use := if b.1.err.isSome then b.1.rows / 128 * 128 else k
    let draw := fun (g i : Nat) => if aLS u.w && u.level == 1
      then some (d.draw u.step 0 t.clears (d.lid c) n (((t.groups + g) * 512 + i) % 2 ^ 32)) else none
    let r := runGroups isInt draw av b.1.at_ use (ceilDiv use 128) (accOf isInt ((List.range 512).map t.at) t.sat)
    let t := { t.fill r.1.el with isInt := isInt, sat := r.1.sat, groups := t.groups + r.2 }
    let d := d.modLog c (·.setTile n t)
    let d := [0, 1, 2].foldl (fun d f => let x := (b.1.forms.filter (· == f)).length
      if x = 0 then d else d.tally (0x010 + f) 1 c (routerOf c) x) d
    let d := if b.1.lifts = 0 then d else d.tally 0x013 1 c (routerOf c) b.1.lifts
    match b.1.err with
    | some e => d.endUnit c u true [e]
    | none =>
      let es := tileErrs isInt (bit u.num 10) u.num r.2 r.1
      d.endUnit c u (es.any Prod.snd) (es.map fun e => (e.1, 0))

/-- A matrix instruction completes: the one in the unit does its work, writes its tile and clears its tag (R140). -/
def matrixDone (c : Nat) (d : Dev) : Dev :=
  match (d.core c).log.mu with
  | [] => d
  | u :: us => matRun c u (d.modLog c fun l => { l with mu := us })

/-- MATRIX_COMPLETION (R140). -/
def execMatrixCompletion (c : Nat) (s : State) : Host.Outcome State Fault Refusal :=
  onUnit (decide (c < numCores)) (matrixDone c) s

end Sys2Proof.Machine
end

