-- ==== Sys2Proof/Machine/Sluice.lean ====
section
/-!
DEFINITION. Sluice gating (03 R108, R109; 05 R165–R173): gate records, audits, verdicts and dense fallback; and the end of the
vector unit's instructions.
-/
namespace Sys2Proof.Machine

/-! ### Layer entries -/

/-- A field of entry n. -/
def slu (f : Fld) (n : Nat) : Fld := f.nth 0x40 n
/-- The valid entry of a layer. -/
def Core.layer (k : Core) (id : Nat) : Option Nat :=
  (List.range 8).find? fun n => k.flag (slu Fld.CORE_SLU_CFG_VALID n) && k.fld (slu Fld.CORE_SLU_CFG_LAYER n) == id
/-- The layer id, audit base and threshold a register SX holds (R108, R165). -/
def sxLayer (x : Word) : Nat := bits x 47 32
def sxBase (x : Word) : Nat := bits x 63 48
def sxThr (x : Word) : Lane := x.setWidth 32

/-- The rollover of an entry at the first `sgate` or `saudit` under a new step number (R168). -/
def Core.rollover (k : Core) (n step : Nat) : Core :=
  if k.fld (slu Fld.CORE_SLU_STEP_STEP n) = step then k
  else
    let last := fun (k : Core) (l c : Fld) => (k.setFld (slu l n) (k.fld (slu c n))).setFld (slu c n) 0
    let k := last k Fld.CORE_SLU_SKIPPED_LAST Fld.CORE_SLU_SKIPPED_CUR
    let k := last k Fld.CORE_SLU_AUDITED_LAST Fld.CORE_SLU_AUDITED_CUR
    let k := last k Fld.CORE_SLU_MISSES_LAST Fld.CORE_SLU_MISSES_CUR
    let k := last k Fld.CORE_SLU_LOST_LAST Fld.CORE_SLU_LOST_CUR
    let k := k.setReg (0x818 + 0x40 * n) 0
    (k.setFld (slu Fld.CORE_SLU_VERDICT_FALLBACK_FROM n) 0xFFFFFF).setFld (slu Fld.CORE_SLU_STEP_STEP n) step

/-- A float exceeds the threshold; NaN does not (R165). -/
def exceeds (x thr : Lane) : Bool := !(f32 x).isNaN && !(f32 thr).isNaN && (f32 thr).lt (f32 x)

/-! ### Records -/

/-- Bytes of the largest record of n neurons (Table — Gate record). -/
def recordMax (n : Nat) : Nat := 64 + n / 4 + 2 * n
/-- The record of n neurons: masks, list, flags. -/
structure GateRec where
  active : List Bool
  audit  : List Bool
  list   : List Nat
  flags  : Nat

def packMask (m : List Bool) : List Byte :=
  (chunks 8 (m.length / 8) m).map fun b => BitVec.ofNat 8 ((List.range 8).foldl (fun a i => a + b2n (b.getD i false) * 2 ^ i) 0)
def unpackMask (bs : List Byte) (n : Nat) : List Bool := (List.range n).map fun i => nbit (byteAt bs (i / 8)) (i % 8)
/-- A list of neurons padded with FFFFh to a multiple of 32. -/
def padList (l : List Nat) : List Nat := l ++ List.replicate ((32 - l.length % 32) % 32) 0xFFFF
def countOn (m : List Bool) : Nat := (m.filter id).length

def GateRec.bytes (g : GateRec) (count len : Nat) : List Byte :=
  leBytes 4 count ++ leBytes 4 (countOn g.audit) ++ leBytes 4 len ++ leBytes 4 g.flags ++ List.replicate 48 0 ++
  packMask g.active ++ packMask g.audit ++ g.list.flatMap (leBytes 2)

/-- The audited neuron of each group that skipped any (R165), by neuron. -/
def auditMask (seed : Word) (x : Word) (step n : Nat) (active : List Bool) : List Bool :=
  let chosen := (List.range (n / 32)).filterMap fun g =>
    let skip := (List.range 32).filterMap fun i => if active.getD (32 * g + i) false then none else some (32 * g + i)
    let y := mix seed (drawCtr step 2 0 (sxLayer x) ((sxBase x + g) % 2 ^ 16) 0)
    skip[y.toNat * skip.length / 2 ^ 32]?
  (List.range n).map chosen.contains

/-- The record `sgate` builds, gated or in dense fallback (R108). -/
def gateRecord (seed x : Word) (step n : Nat) (scores : List Lane) (dense : Bool) : GateRec :=
  let active := (List.range n).map fun i => dense || exceeds (scores.getD i 0) (sxThr x)
  let audit := if dense then active.map fun _ => false else auditMask seed x step n active
  let list := (List.range n).filter fun i => active.getD i false || audit.getD i false
  { active, audit, list := padList list, flags := b2n dense }

/-! ### sgate -/

/-- The ordinal the record of an `sgate` takes, after the rollover it may bring. -/
def Core.ordinal (k : Core) (n step : Nat) : Nat := (k.rollover n step).fld (slu Fld.CORE_SLU_PROGRESS_ORDINAL n)

def sgateRngs (i : Iss) : VRng :=
  if vsN i = 0 then {} else { dst := [⟨vsD i, recordMax (vsN i), 64⟩], src := [⟨vsA i, 4 * vsN i, 4⟩] }

/-- An `sgate` that would take ORDINAL to FF_FFFFh (R168). -/
def sgateErrs (i : Iss) : List (Nat × Nat) :=
  match (if vsN i = 0 then none else i.k.layer (sxLayer (i.s (mSX i.w)))) with
  | some n => if i.k.ordinal n i.step + 1 ≥ 0xFFFFFF then [(1, 0)] else []
  | none => []

/-- `sgate` takes its record's ordinal as it issues (R168); one of no neurons changes nothing (R91). -/
def opSgate : OpDef :=
  { opVS 0x80 32 usesDANX sgateRngs with
    late := fun i => vsErrs 32 sgateRngs vsN i ++ sgateErrs i
    run := fun i d =>
      let k := d.core i.c
      match (if vsN i = 0 then none else k.layer (sxLayer (i.s (mSX i.w)))) with
      | none => d.issueVS i
      | some n =>
        let k := k.rollover n d.stepNo
        let q := k.fld (slu Fld.CORE_SLU_PROGRESS_ORDINAL n)
        let d := d.setCore i.c (k.setFld (slu Fld.CORE_SLU_PROGRESS_ORDINAL n) (q + 1))
        (d.issueVS i).modLog i.c fun l =>
          { l with vu := l.vu.dropLast ++ (l.vu.getLast?.map fun u => { u with b := BitVec.ofNat 64 q }).toList } }

/-- What an `sgate` in the unit decides: gated (false), dense fallback (true), or still waiting for its verdict (R171). -/
def Core.sgateChoice (k : Core) (u : UOp) : Option Bool :=
  match k.layer (sxLayer u.x) with
  | none => some false
  | some n =>
    let q := u.b.toNat; let lag := k.fld (slu Fld.CORE_SLU_CFG_LAG n)
    if q < lag then some false
    else match k.log.verdict with
      | none => none
      | some v => if bits v 63 48 = u.step % 2 ^ 16 ∧ bits v 23 0 ≥ q - lag + 1 then some (decide (bits v 47 24 ≤ q)) else none

def sgateRun (c : Nat) (u : UOp) (dense : Bool) (m : Work) : Work :=
  let n := u.n.toNat
  let a := m.rd c u.a.toNat (4 * n)
  let g := gateRecord (m.d.reg 0x400) u.x u.step n (f32s a.1 n) dense
  let m := a.2.wr c u.d.toNat (g.bytes (countOn g.active) g.list.length)
  { m with d := (m.d.modLog c fun l => { l with verdict := none }).tally 0x014 1 c (routerOf c) 1 }

/-! ### saudit -/

/-- The list length of the record at an address, as `saudit` reads it at issue. -/
def recordL (i : Iss) : Nat :=
  match ownRange i.lid (vsA i) 64 with
  | some b => ofBytes (getBytes i.k.log.spad (b + 8) 4)
  | none => 0
/-- `saudit` rewrites the record in place and reads the values, which it may not overlap (R91). -/
def sauditRngs (i : Iss) : VRng :=
  if vsN i = 0 then {}
  else { dst := [⟨vsA i, recordMax (vsN i), 64⟩], src := [⟨vsB i, recordL i / 32 * 2048, 16⟩] }

def opSaudit : OpDef :=
  { opVS 0x81 1 (fun w => [.s (rA w), .s (rB w), .s (rN w), .s (mSX w)]) sauditRngs with
    run := fun i d =>
      let d := match (if vsN i = 0 then none else (d.core i.c).layer (sxLayer (i.s (mSX i.w)))) with
        | some n => d.modCore i.c (·.rollover n d.stepNo)
        | none => d
      d.issueVS i }

/-- Count the audits of a record into the windows: the misses of the window and the fallback record (R169). `as` says for
each audit in order whether it is a miss. -/
def windows (w limit r lag : Nat) : List Bool → Nat → Nat → Nat → Nat × Nat
  | [], _, miss, from_ => (miss, from_)
  | m :: ms, ord, miss, from_ =>
    let miss := (if ord % w = 0 then 0 else miss) + b2n m
    let from_ := if from_ = 0xFFFFFF && limit ≠ 0xFF && limit < miss then r + lag else from_
    windows w limit r lag ms (ord + 1) (min miss 0xFFFF) from_

/-- What `saudit` finds in a record: whether each audited neuron, in ascending order, is a detected miss (R166). -/
def misses (thr : Lane) (audited list : List Nat) (vals : List Lane) : List Bool :=
  audited.map fun i =>
    match list.findIdx? (· == i) with
    | some p => (List.range 16).any fun r => exceeds (vals.getD (512 * (p / 32) + 32 * r + p % 32) 0) thr
    | none => false

/-- The owner's counts of one resolved record and its verdict V (R169, R170, R172). -/
def Core.resolve (k : Core) (n skipped : Nat) (ms : List Bool) (dense : Bool) : Word × Core :=
  let r := k.fld (slu Fld.CORE_SLU_PROGRESS_RESOLVED n)
  let hits := countOn ms
  let k := if dense then k else
    let w := windows (k.fld (slu Fld.CORE_SLU_CFG_WINDOW n)) (k.fld (slu Fld.CORE_SLU_CFG_LIMIT n)) r
      (k.fld (slu Fld.CORE_SLU_CFG_LAG n)) ms (k.fld (slu Fld.CORE_SLU_AUDITED_CUR n))
      (k.fld (slu Fld.CORE_SLU_PROGRESS_WIN_MISSES n)) (k.fld (slu Fld.CORE_SLU_VERDICT_FALLBACK_FROM n))
    let k := k.setFld (slu Fld.CORE_SLU_PROGRESS_WIN_MISSES n) w.1
    let k := k.setFld (slu Fld.CORE_SLU_VERDICT_FALLBACK_FROM n) w.2
    let k := k.addFld (slu Fld.CORE_SLU_SKIPPED_CUR n) (skipped - hits)
    let k := k.addFld (slu Fld.CORE_SLU_AUDITED_CUR n) ms.length
    let k := k.addFld (slu Fld.CORE_SLU_MISSES_CUR n) hits
    let a := k.fld (slu Fld.CORE_SLU_AUDITED_CUR n)
    k.setFld (slu Fld.CORE_SLU_LOST_CUR n) (if a = 0 then 0 else
      min 0xFFFFFFFF (k.fld (slu Fld.CORE_SLU_MISSES_CUR n) * (k.fld (slu Fld.CORE_SLU_SKIPPED_CUR n) - a) / a))
  let k := k.setFld (slu Fld.CORE_SLU_PROGRESS_RESOLVED n) (r + 1)
  (BitVec.ofNat 64 (k.fld (slu Fld.CORE_SLU_STEP_STEP n) % 2 ^ 16 * 2 ^ 48 +
    k.fld (slu Fld.CORE_SLU_VERDICT_FALLBACK_FROM n) * 2 ^ 24 + (r + 1)), k)

/-- `saudit` on a record (R109, R166, R167); the owner's verdict to write, if any. The active count at offset 0 stays as it was (DESIGN
CHOICE, log 103). -/
def sauditRun (c : Nat) (u : UOp) (m : Work) : Option (Nat × Word) × Work :=
  let n := u.n.toNat
  let h := m.rd c u.a.toNat (64 + n / 4)
  let len := ofBytes (slice h.1 8 4)
  let l := h.2.rd c (u.a.toNat + 64 + n / 4) (2 * len)
  let v := l.2.rd c u.b.toNat (len / 32 * 2048)
  if v.2.err.isSome then (none, v.2)
  else
    let flags := ofBytes (slice h.1 12 4)
    let dense := nbit flags 0
    let active := unpackMask (h.1.drop 64) n
    let audit := unpackMask (h.1.drop (64 + n / 8)) n
    let list := (List.range len).map fun i => ofBytes (slice l.1 (2 * i) 2)
    let audited := (List.range n).filter fun i => audit.getD i false
    let ms := misses (sxThr u.x) audited list (f32s v.1 (len / 32 * 512))
    let hit := ((audited.zip ms).filter Prod.snd).map Prod.fst
    let k := m.d.core c
    let e := k.layer (sxLayer u.x)
    let strict := match e with | some i => k.flag (slu Fld.CORE_SLU_CFG_STRICT i) | none => false
    let groups := hit.map (· / 32)
    let active' := (List.range n).map fun i => active.getD i false || hit.contains i || (strict && groups.contains (i / 32))
    let rest := if strict then (List.range n).filter fun i =>
      groups.contains (i / 32) && !active.getD i false && !audit.getD i false else []
    let g : GateRec := { active := active', audit, list := padList rest, flags := if hit.isEmpty then flags else flags ||| 2 }
    let skipped := n - countOn active
    let m := v.2.wr c u.a.toNat (g.bytes (ofBytes (slice h.1 0 4)) g.list.length)
    let m := if hit.isEmpty then m else { m with d := m.d.tally 0x015 1 c (routerOf c) hit.length }
    match e with
    | some i =>
      if m.err.isNone && k.flag (slu Fld.CORE_SLU_CFG_ROLE i) then
        let r := (m.d.core c).resolve i skipped ms dense
        (some (i, r.1), { m with d := m.d.setCore c r.2 })
      else (none, m)
    | none => (none, m)

/-! ### The vector unit -/

/-- The instruction of class VS that stands in the unit does its work. -/
def vsWork (c : Nat) (u : UOp) (m : Work) : Work :=
  let o := opcodeOf u.w
  if o == 0x58 then vsMout c u m
  else if o == 0x59 then vsMld c u m
  else if u.n = 0 then m
  else match o with
    | 0x50 => vsMap2 fadd c u m
    | 0x51 => vsMap2 fmul c u m
    | 0x52 => vsMap2 (fun a b => ffma a (u.x.setWidth 32) b) c u m
    | 0x53 => vsReduce vecSum c u m
    | 0x54 => vsReduce vecAmax c u m
    | 0x55 => vsCvt c u m
    | 0x56 => vsQuant c u m
    | 0x57 => vsDequant c u m
    | 0x5C => vsBfxexp c u m
    | 0x5D => vsBfxpack c u m
    | 0x5E => vsBfxunpack c u m
    | _ => m

/-- Whether a class VR result sends a word. -/
def RegW.isSend : RegW → Bool
  | .send _ _ => true
  | _ => false

/-- The next instructions of the unit: VR ones queued behind write their results at once (R41); a word waits while the links stop
(R204). -/
def Dev.drainVR (d : Dev) (c : Nat) : List UOp → Dev
  | [] => d
  | u :: us =>
    if u.tag.isSome || (d.linksStopped c && u.wr.any RegW.isSend) then d
    else ((u.wr.foldl (fun d x => d.regW c x) d).modLog c fun l => { l with vu := us }).drainVR c us

/-- End a VS instruction: its tag clears with `ok`, or with `error` and the core stops (R44, R57). -/
def Work.finish (m : Work) (c : Nat) (u : UOp) : Dev :=
  m.d.endUnit c u m.err.isSome m.err.toList

/-- The FLAG_WRITE of an owner's verdict (R170). -/
def Dev.writeVerdict (d : Dev) (c : Nat) (u : UOp) (n : Nat) (v : Word) : Dev :=
  let k := d.core c
  let id := k.fld (slu Fld.CORE_SLU_VERDICT_CORE n)
  let p : Packet := { ptype := .flagWrite, srcCore := d.lid c, gen := k.gen % 4, dstDev := d.devId,
                      region := k.fld Fld.CORE_PROG_REGION_REGION,
                      aux := k.fld (slu Fld.CORE_SLU_VERDICT_FLAG n), payload := leBytes 8 v.toNat }
  d.startOp c { tag := u.tag.getD 0, pc := u.pc, kind := .verdict, todo := [toCore p id] }

/-- A VS operation finishes its occupancy (R43): the one in the unit does its work and clears its tag. An `sgate` whose verdict
has not come stays (R171). -/
def vsDone (c : Nat) (d : Dev) : Dev :=
  match (d.core c).log.vu with
  | [] => d
  | u :: us =>
    if u.tag.isNone then d.drainVR c (u :: us)
    else
      let pop := fun (d : Dev) => (d.modLog c fun l => { l with vu := us }).drainVR c us
      if opcodeOf u.w = 0x80 && u.n ≠ 0 then
        match (d.core c).sgateChoice u with
        | none => d
        | some dense => ((sgateRun c u dense { d := pop d }).finish c u)
      else if opcodeOf u.w = 0x81 && u.n ≠ 0 then
        match sauditRun c u { d := pop d } with
        | (some x, m) => m.d.writeVerdict c u x.1 x.2
        | (none, m) => m.finish c u
      else (vsWork c u { d := pop d }).finish c u

/-- A waiting `sgate` reads the verdict flag (R171), unless a read is out. -/
def verdictPoll (c : Nat) (d : Dev) : Dev :=
  let k := d.core c
  match k.log.vu with
  | [] => d
  | u :: _ =>
    if opcodeOf u.w ≠ 0x80 || u.tag.isNone || u.n = 0 || (k.sgateChoice u).isSome || (k.log.op (u.tag.getD 0)).isSome then d
    else match k.layer (sxLayer u.x) with
      | none => d
      | some n =>
        let id := k.fld (slu Fld.CORE_SLU_VERDICT_CORE n); let f := k.fld (slu Fld.CORE_SLU_VERDICT_FLAG n)
        let p : Packet := { ptype := .flagRead, srcCore := d.lid c, gen := k.gen % 4, dstDev := d.devId,
                            region := k.fld Fld.CORE_PROG_REGION_REGION, aux := f }
        d.startOp c { tag := u.tag.getD 0, pc := u.pc, kind := .verdictRead id f, todo := [toCore p id] }

/-- sgate (R108). -/
def execSgate (c : Nat) (s : State) : Host.Outcome State Fault Refusal := coreCmd opSgate c s
/-- saudit (R109). -/
def execSaudit (c : Nat) (s : State) : Host.Outcome State Fault Refusal := coreCmd opSaudit c s
/-- VERDICT_POLL (R171). -/
def execVerdictPoll (c : Nat) (s : State) : Host.Outcome State Fault Refusal :=
  onUnit (decide (c < numCores)) (verdictPoll c) s
/-- VS_COMPLETION (R43). -/
def execVsCompletion (c : Nat) (s : State) : Host.Outcome State Fault Refusal :=
  onUnit (decide (c < numCores)) (vsDone c) s

end Sys2Proof.Machine
end

