-- ==== Sys2Proof/Machine/StreamInstr.lean ====
section
/-!
DEFINITION. Stream instructions (03 R101–R103, R87; 06 R183, R186).
-/
namespace Sys2Proof.Machine

/-- The source SRC names (R101). -/
def srcBind (x : Nat) : Bind :=
  match x / 32 with
  | 0 => .inS (x % 32)
  | 1 => .outS (x % 32)
  | 2 => .mq (x % 4)
  | _ => .unbound

/-- `sbind` is illegal for a queue source with SRC[4:2] set, a source another counter holds (R101), and an outbound stream a
route of the running configuration drives (R183). SRC[4:0] of an unbind is not looked at (DESIGN CHOICE, log 102). -/
def badBind (i : Iss) : Bool :=
  let x := tSRC i.w; let b := srcBind x
  (x / 32 == 2 && x / 4 % 8 ≠ 0) ||
  (b ≠ .unbound && (List.range 8).any fun n => n ≠ tSC i.w && i.k.log.bound n == b) ||
  match b with
  | .outS q => i.k.drives i.k.gen q
  | _ => false

/-- The fields of the STR format. -/
def strFields : Word → List (Nat × Nat) := fun _ => [(37, 10)]

def opSbind : OpDef where
  code := 0x70
  used := strFields
  bad := badBind
  run := fun i d => d.modLog i.c fun l => { l with sc := NMap.set .unbound l.sc (tSC i.w) (srcBind (tSRC i.w)) }

/-- The k words of a scratchpad form, at s[SA] (R102). -/
def strRng (i : Iss) : Rng := ⟨(i.s (rD i.w)).toNat, 64 * tK i.w, 64⟩
def isInS (b : Bind) : Bool := match b with | .inS _ => true | _ => false
def isOutS (b : Bind) : Bool := match b with | .outS _ => true | _ => false

/-- What the scratchpad forms share: own condition sc[SC] ≥ k, one range (R87, R102). -/
def opStr (code : Nat) (want : Bind → Bool) (run : Iss → Dev → Dev) : OpDef where
  code := code
  used := strFields
  own := fun w => some (tSC w, tK w)
  want := want
  uses := fun w => [.s (rD w)]
  late := fun i => i.k.rngErrs i.lid (strRng i)
  held := fun i => i.k.rngHeld i.lid (strRng i)
  run := run

/-- Record the move of a stream instruction until it finishes (R87). -/
def Dev.moving (d : Dev) (c lo n : Nat) (writes : Bool) : Dev :=
  d.modLog c fun l => { l with moves := l.moves ++ [{ lo, hi := lo + n, writes }] }

/-- `srecv`: the words go to the scratchpad. -/
def opSrecv : OpDef := opStr 0x71 isInS fun i d =>
  match ownRange i.lid (strRng i).a (strRng i).n with
  | some b => ((d.spWrite i.c b (i.own.flatMap lineBytes)).2).moving i.c b (strRng i).n true
  | none => d

/-- The words of a list leave on outbound stream q, one credit each. -/
def Dev.sendAll (d : Dev) (c q : Nat) (ls : List Line) : Dev :=
  ls.foldl (fun d l => d.sendData c q l) (d.useCredits c q ls.length)

/-- `ssend`: the words come from the scratchpad; an uncorrectable codeword stops the core and nothing is sent (DEDUCED, log 9). -/
def opSsend : OpDef := opStr 0x72 isOutS fun i d =>
  match ownRange i.lid (strRng i).a (strRng i).n, i.k.log.bound (tSC i.w) with
  | some b, .outS q =>
    match d.spRead i.c b (strRng i).n with
    | (some ue, _, d) => d.coreStop i.c 9 i.pc 0 0 ue 0
    | (none, bs, d) => (d.sendAll i.c q ((chunks 64 (tK i.w) bs).map lineOf)).moving i.c b (strRng i).n false
  | _, _ => d

/-- The registers v[SA bits [3:0]] onward (R102). -/
def strRegs (w : Word) : List Nat := (List.range (tK w)).map (rD w % 16 + ·)

def opSrecvv : OpDef where
  code := 0x73
  used := strFields
  own := fun w => some (tSC w, tK w)
  want := isInS
  bad := fun i => decide (15 < rD i.w % 16 + (tK i.w - 1))
  uses := fun w => (strRegs w).map .v
  run := fun i d => d.modLog i.c fun l => ((strRegs i.w).zip i.own).foldl (fun l x => l.setV x.1 x.2) l

def opSsendv : OpDef where
  code := 0x74
  used := strFields
  own := fun w => some (tSC w, tK w)
  want := isOutS
  bad := fun i => decide (15 < rD i.w % 16 + (tK i.w - 1))
  uses := fun w => (strRegs w).map .v
  run := fun i d =>
    match i.k.log.bound (tSC i.w) with
    | .outS q => d.sendAll i.c q ((strRegs i.w).map i.v)
    | _ => d

/-- A seal of tag t on outbound stream q: at once with a credit, else it waits behind the seals that wait (R103). -/
def Dev.sealOn (d : Dev) (c t q : Nat) : Dev :=
  let o := (d.core c).log.outQ q
  if o.wait.isEmpty && decide (0 < o.credits) then d.sendSeal c q
  else d.modCore c fun k => k.setOutQ q { o with wait := o.wait ++ [t] }

/-- Whether a seal of tag t still waits. -/
def LCore.sealWaits (l : LCore) (t : Nat) : Bool := (List.range 32).any fun q => (l.outQ q).wait.contains t

/-- `seal`: one on each stream of s[SM] bits [31:0]; the tag clears once all have entered their links. -/
def opSeal : OpDef where
  code := 0x75
  used := strFields
  uses := fun w => [.s (tSM w)]
  tags := fun w => [tCT w]
  run := fun i d =>
    let t := tCT i.w
    let d := d.issueOp i.c { tag := t, pc := i.pc, kind := .seals }
    let d := ((List.range 32).filter (bit (i.s (tSM i.w)))).foldl (fun d q => d.sealOn i.c t q) d
    if (d.core i.c).log.sealWaits t then d else d.endOp i.c { tag := t, pc := i.pc, kind := .seals }

/-- The oldest stream move of a core finishes (R87). -/
def moveEnd (c : Nat) (d : Dev) : Dev := d.modLog c fun l => { l with moves := l.moves.drop 1 }

/-- sbind (R101). -/
def execSbind (c : Nat) (s : State) : Host.Outcome State Fault Refusal := coreCmd opSbind c s
/-- srecv (R102). -/
def execSrecv (c : Nat) (s : State) : Host.Outcome State Fault Refusal := coreCmd opSrecv c s
/-- ssend (R102). -/
def execSsend (c : Nat) (s : State) : Host.Outcome State Fault Refusal := coreCmd opSsend c s
/-- srecvv (R102). -/
def execSrecvv (c : Nat) (s : State) : Host.Outcome State Fault Refusal := coreCmd opSrecvv c s
/-- ssendv (R102). -/
def execSsendv (c : Nat) (s : State) : Host.Outcome State Fault Refusal := coreCmd opSsendv c s
/-- seal (R103). -/
def execSeal (c : Nat) (s : State) : Host.Outcome State Fault Refusal := coreCmd opSeal c s
/-- STREAM_MOVE_END (R87). -/
def execStreamMoveEnd (c : Nat) (s : State) : Host.Outcome State Fault Refusal :=
  onUnit (decide (c < numCores)) (moveEnd c) s

end Sys2Proof.Machine
end

