-- ==== Sys2Proof/Machine/Lifecycle.lean ====
section
/-!
DEFINITION. What happens to a core outside its program (02 R36–R39, R60–R68, R72; 07 R231; 13 R388, R401): return to LOADED, core
reset, timeouts, the hang watchdog, bank gating.
-/
namespace Sys2Proof.Machine

/-! ### Operations that are given up -/

/-- Messages and units an operation still holds: not yet injected, or answered BUSY. -/
def Op.held (o : Op) : Nat := ((o.todo ++ o.busy).filter fun p => p.ptype == .message || p.ptype == .contrib).length

/-- The gateway discards what core c's operations still hold and counts it in RESET_DISCARDS (R231, R38); `extra` more with it. -/
def Dev.discardOps (d : Dev) (c extra : Nat) : Dev :=
  let n := ((d.core c).log.ops.map Op.held).foldl (· + ·) extra
  d.addFld (Fld.CLU_MSG_STATS_RESET_DISCARDS.at (cluBase (routerOf c))) n

/-- A local member that leaves a barrier it has entered is no longer counted (DEDUCED, log 14). -/
def Dev.leaveBars (d : Dev) (c : Nat) : Dev :=
  let r := routerOf c
  (d.core c).log.ops.foldl (fun d o => match o.kind with
    | .bar b => let x := (d.gw r).bar b; d.setBar r b { x with entered := x.entered - 1 }
    | _ => d) d

/-- Architectural state at its reset values (R34), units empty. -/
def LCore.clearArch (l : LCore) : LCore :=
  { l with s := [], v := [], p := [], lc := [], loops := [], sc := [], pc := 0, ctPend := 0, ctStat := [], tiles := [],
           vu := [], mu := [], ops := [], moves := [], probe := none, verdict := none, step := 0,
           outq := l.outq.map fun e => (e.1, { e.2 with wait := [] }) }

/-- Seals that wait belong to operations: without them the outbound streams keep credits and generation. -/
def LCore.canonOut (l : LCore) : LCore := { l with outq := l.outq.filter fun e => e.2 ≠ ({} : OutQ) }

/-- An abort, a cancelled start or a forced reconfiguration returns a core to LOADED (R36, R203). -/
def Dev.toLoaded (d : Dev) (c : Nat) : Dev :=
  let st := (d.core c).log.state
  if st == .loaded || st == .running || st == .done then
    let d := (d.discardOps c 0).leaveBars c
    d.modCore c fun k => ({ k with log := k.log.clearArch.canonOut } : Core).setState .loaded d.epoch
  else d

/-- The silicon registers at 000h–0FFh back at their reset values (R72, R477), a latched error record kept. -/
def Silicon.atReset (x : Silicon) (keepErr : Bool) : Silicon :=
  { x with regs := x.regs.filter fun e => decide (0x100 ≤ e.1) || (keepErr && decide (0x38 ≤ e.1) && decide (e.1 < 0x60)),
           stall := 0, pcHeld := 0, epochIn := 0, powered := 0xFF, waking := none }

/-- A core reset (R36, R38, R72, R173, R184, R234): EMPTY, instruction memory invalid, queues closed and emptied; the
scratchpad, the queue storage, the instruction memory as it is stored and a latched error record stay. A core that holds no logical
core, or is under test, keeps its state: its registers alone are reset. -/
def Dev.coreReset (d : Dev) (c : Nat) : Dev :=
  let k := d.core c
  let keepErr := k.flag Fld.CORE_ERR_STATUS_LATCHED
  if d.coreState c == .offline || d.coreState c == .underTest then d.setCore c { k with sil := k.sil.atReset keepErr }
  else
    let run := k.log.state == .running
    let queued := (k.log.mq.map fun e => e.2.length).foldl (· + ·) 0
    let d := (d.discardOps c queued).leaveBars c
    let d := d.modCore c fun k =>
      let log := k.log.regs.filter fun e => e.1 == 0x10 || (decide (0x100 ≤ e.1) && decide (e.1 < 0x600))
      let l := { k.log with state := .empty }.clearArch
      let l := { l with regs := log, load := none, mq := [],
                        inq := (l.inq.map fun e => (e.1, { e.2 with allow := 0 })).filter fun e => e.2 ≠ ({} : InQ),
                        outq := (l.outq.map fun e => (e.1, { e.2 with credits := 8 })).filter fun e => e.2 ≠ ({} : OutQ) }
      let k : Core := { log := l, sil := { k.sil.atReset keepErr with dead := 0, fails := [], block := 0, blocked := false } }
      let k := k.setFld Fld.CORE_STITCH_GEN_FORCE_COUNT 0
      k.setFld Fld.CORE_EDDY_STATUS_RESERVED 0
    if run then d.abortStep else d

/-! ### Timeouts and the watchdog -/

/-- A remote access not completed in time completes with `timeout` (R60, R44). -/
def remoteTimeout (c t : Nat) (d : Dev) : Dev :=
  match (d.core c).log.op t with
  | some o => match o.kind with
    | .load _ _ _ _ => d.endOp c { o with st := 3, reason := 0 }
    | .store => d.endOp c { o with st := 3, reason := 0 }
    | _ => d
  | none => d

/-- A core enters HUNG: a step in progress aborts (R36, R39). -/
def Dev.toHung (d : Dev) (c : Nat) : Dev := (d.modCore c fun k => k.setState .hung d.epoch).abortStep

/-- The sequencer watchdog of a RUNNING core expires (R388): HANG_WATCHDOG, HUNG, the targeted test. -/
def watchdog (c : Nat) (d : Dev) : Dev :=
  if d.coreState c ≠ .running then d
  else
    let d := d.addFld Fld.HANG_STATUS_WD_EXPIRIES 1
    (d.coreErr c 0x12 (d.core c).log.pc 0 0 0 0).toHung c

/-- A load that ends short, or fails its check, returns the core to EMPTY with IMEM_LOAD_CHECK latched (R36, R68). -/
def Dev.loadFailed (d : Dev) (c : Nat) : Dev :=
  let d := d.modCore c fun k => ({ k with log := { k.log with load := none } } : Core).setState .empty d.epoch
  d.coreErr c 8 0 0 0 0 0

/-- A LOADING core gets no instruction-load word for 1 ms (R68). -/
def loadTimeout (c : Nat) (d : Dev) : Dev := if (d.core c).log.state == .loading then d.loadFailed c else d

/-! ### Bank gating -/

/-- Accepted accesses of a bank to be gated have finished: its contents are lost (R61). -/
def gateEffect (c b : Nat) (d : Dev) : Dev :=
  d.modCore c fun k =>
    if nbit (k.fld Fld.CORE_BANK_GATE_GATE) b && nbit k.sil.powered b then
      ({ k with sil := { k.sil with powered := k.sil.powered - 2 ^ b } } : Core).zeroBank b
    else k

/-- The wake of a bank ends: it reads as zeros with valid check bits, and the next one in ascending order starts (R62). -/
def wakeEnd (c b : Nat) (d : Dev) : Dev :=
  let k := d.core c
  if k.sil.waking = some b then
    d.afterSpad c (({ k with sil := { k.sil with powered := k.sil.powered ||| 2 ^ b, waking := none } } : Core).fillBank b).startWake
  else d

/-- REMOTE_ACCESS_TIMEOUT (R60). -/
def execRemoteAccessTimeout (c tag : Nat) (s : State) : Host.Outcome State Fault Refusal :=
  onUnit (decide (c < numCores)) (remoteTimeout c tag) s
/-- HANG_WATCHDOG_EXPIRY (R388). -/
def execHangWatchdogExpiry (c : Nat) (s : State) : Host.Outcome State Fault Refusal :=
  onUnit (decide (c < numCores)) (watchdog c) s
/-- IMEM_LOAD_TIMEOUT (R68). -/
def execImemLoadTimeout (c : Nat) (s : State) : Host.Outcome State Fault Refusal :=
  onUnit (decide (c < numCores)) (loadTimeout c) s
/-- BANK_GATE_EFFECT (R61). -/
def execBankGateEffect (c bank : Nat) (s : State) : Host.Outcome State Fault Refusal :=
  onUnit (decide (c < numCores) && decide (bank < 8)) (gateEffect c bank) s
/-- BANK_WAKE_END (R62). -/
def execBankWakeEnd (c bank : Nat) (s : State) : Host.Outcome State Fault Refusal :=
  onUnit (decide (c < numCores) && decide (bank < 8)) (wakeEnd c bank) s

end Sys2Proof.Machine
end

