-- ==== Sys2Proof/Machine/LoadStore.lean ====
section
/-!
DEFINITION. Scalar and vector loads and stores (03 R85, R86; 02 R54–R66): on the own scratchpad at issue, on another core's
window as a tagged remote access.
-/
namespace Sys2Proof.Machine

/-- The effective address s[SA] + OFF. -/
def memEa (i : Iss) : Word := i.s (rA i.w) + BitVec.ofInt 64 (fOff i.w)
/-- The bytes SIZE codes. -/
def memSize (w : Word) : Nat := 2 ^ fSize w

/-- Whether SIZE fits the mnemonic: 0–3 scalar, 4–6 vector, and D names a vector register (R86). -/
def badSize (isV : Bool) (w : Word) : Bool :=
  if isV then decide (fSize w < 4) || fSize w == 7 || decide (15 < rD w) else decide (3 < fSize w)

/-- The address and alignment errors of a MEM instruction (R54, R55, R63, R66, R85). -/
def memErrs (i : Iss) : List (Nat × Nat) :=
  let a := (memEa i).toNat; let n := memSize i.w
  (if a % n ≠ 0 then [(4, a)] else []) ++
  match decodeEa i.lid a with
  | .bad code => [(code, a)]
  | .remote _ _ => if fRT i.w then [] else [(1, a)]
  | .own b => (if b + n > i.k.spillBase then [(5, a)] else []) ++ (if i.k.anyBank b n 1 then [(6, a)] else [])

def memHeld (i : Iss) : Bool := i.k.rngHeld i.lid ⟨(memEa i).toNat, memSize i.w, 1⟩

/-- The value of a loaded scalar: SIZE bytes, extended with zeros or the sign. -/
def loadValue (sx : Bool) (size : Nat) (bs : List Byte) : Word :=
  let x := ofBytes (bs.take size)
  if sx then BitVec.ofInt 64 (signed (8 * size) x) else BitVec.ofNat 64 x

/-- A vector load writes lanes 0 to size / 4 − 1 and leaves the others (R86). -/
def loadLanes (old : Line) (size : Nat) (bs : List Byte) : Line :=
  ofLanes ((List.range 16).map fun j =>
    if j < size / 4 then BitVec.ofNat 32 (ofBytes (slice bs (4 * j) 4)) else lane old j)

/-- Write a load's destination. -/
def LCore.loaded (l : LCore) (dst : Nat) (isV sx : Bool) (size : Nat) (bs : List Byte) : LCore :=
  if isV then l.setV dst (loadLanes (l.vreg dst) size bs) else l.setS dst (loadValue sx size bs)

/-- A load: from the own scratchpad at once, an uncorrectable codeword stopping the core (R57); from another core as a READ. -/
def runLoad (isV sx : Bool) (i : Iss) (d : Dev) : Dev :=
  let a := (memEa i).toNat; let n := memSize i.w
  match decodeEa i.lid a with
  | .own b =>
    match d.spRead i.c b n with
    | (some ue, _, d) => d.coreStop i.c 9 i.pc 0 0 ue 0
    | (none, bs, d) => d.modLog i.c (·.loaded (rD i.w) isV sx n bs)
  | .remote id _ =>
    d.startOp i.c { tag := fMemCT i.w, pc := i.pc, kind := .load (rD i.w) isV sx n, addr := a,
                    todo := [{ toCore (d.fromCore i .read) id with addr := a, aux := n }] }
  | .bad _ => d

/-- The bytes a store takes from its data register at issue. -/
def storeBytes (isV : Bool) (i : Iss) : List Byte :=
  (if isV then lineBytes (i.v (rD i.w)) else leBytes 8 (i.s (rD i.w)).toNat).take (memSize i.w)

/-- A store: on the own scratchpad at once (R264), on another core as a WRITE. -/
def runStore (isV : Bool) (i : Iss) (d : Dev) : Dev :=
  let a := (memEa i).toNat
  match decodeEa i.lid a with
  | .own b =>
    match d.spWrite i.c b (storeBytes isV i) with
    | (some ue, d) => d.coreStop i.c 9 i.pc 0 0 ue 0
    | (none, d) => d
  | .remote id _ =>
    d.startOp i.c { tag := fMemCT i.w, pc := i.pc, kind := .store, addr := a,
                    todo := [{ toCore (d.fromCore i .write) id with addr := a, payload := storeBytes isV i }] }
  | .bad _ => d

/-- What every MEM instruction shares. With RT = 1 it names ct[CT] under R40 (b) whatever its address turns out to be, so also an access to
the own scratchpad waits while that tag is pending (R43, R85; DESIGN CHOICE, log 99). -/
def opMem (code : Nat) (isV : Bool) (run : Iss → Dev → Dev) : OpDef where
  code := code
  used := fun _ => [(37, 33), (32, 28), (27, 25), (24, 24), (23, 19), (18, 0)]
  bad := fun i => badSize isV i.w
  uses := fun w => [.s (rA w), if isV then .v (rD w) else .s (rD w)]
  tags := fun w => if fRT w then [fMemCT w] else []
  late := memErrs
  held := memHeld
  run := run

def opLd : OpDef := opMem 0x30 false (runLoad false false)
def opLds : OpDef := opMem 0x31 false (runLoad false true)
def opSt : OpDef := opMem 0x32 false (runStore false)
def opLdv : OpDef := opMem 0x33 true (runLoad true false)
def opStv : OpDef := opMem 0x34 true (runStore true)

/-- ld (R85). -/
def execLd (c : Nat) (s : State) : Host.Outcome State Fault Refusal := coreCmd opLd c s
/-- lds (R85). -/
def execLds (c : Nat) (s : State) : Host.Outcome State Fault Refusal := coreCmd opLds c s
/-- st (R85). -/
def execSt (c : Nat) (s : State) : Host.Outcome State Fault Refusal := coreCmd opSt c s
/-- ldv (R86). -/
def execLdv (c : Nat) (s : State) : Host.Outcome State Fault Refusal := coreCmd opLdv c s
/-- stv (R86). -/
def execStv (c : Nat) (s : State) : Host.Outcome State Fault Refusal := coreCmd opStv c s

end Sys2Proof.Machine
end

