-- ==== Sys2Proof/Machine/Stitch.lean ====
section
/-!
DEFINITION. The stitch router of a core (06 R174–R190): arrival and check of words, replay, credits, forwarding, the switch of
configurations.
-/
namespace Sys2Proof.Machine

/-! ### Arrival -/

/-- The field of CORE_STITCH_RETRY for an inbound link. -/
def retryFld (link : Nat) : Fld := { Fld.CORE_STITCH_RETRY_NORTH with hi := 16 * link + 15, lo := 16 * link }

/-- Discard a word: counted in a field of CORE_STITCH_DISCARD, its credit returned with its own tag (R187). -/
def Dev.discardWord (d : Dev) (c q : Nat) (w : StitchWord) (f : Fld) : Dev :=
  ((d.modCore c (·.addFld f 1)).giveCredit c q 1 w.gen).tally 0x00B 1 c (routerOf c) 1

/-- The kept words of an outbound link from sequence number `seq` on, resent in order (R176). -/
def fromSeq (ws : List StitchWord) (seq : Nat) : List StitchWord := ws.dropWhile fun w => w.seq ≠ seq

/-- Ask the sender of an inbound link for a replay; the engine of an edge link resends at once (R27, R176). -/
def Dev.askReplay (d : Dev) (c link seq : Nat) : Dev :=
  match d.edgeOf c link with
  | some (e, b) => (fromSeq (NMap.get [] (d.memc e).edgeTx b) seq).foldl (fun d w => d.emit (.edge e b ((d.mapAt w.epoch).edgeCore e b) w)) d
  | none => d.emit (.replay c link seq)

/-- A word whose check fails: the later words of the link wait for its replay; the failure of a third replay stops the core
and closes the link (R175–R177). -/
def Dev.badArrival (d : Dev) (c link : Nat) (w : StitchWord) : Dev :=
  let fails := NMap.get 0 (d.core c).sil.fails link
  if fails ≥ 3 then
    let d := d.modCore c fun k => { k with sil := { k.sil with dead := k.sil.dead ||| 2 ^ link } }
    (d.coreStop c 0xE (d.core c).log.pc 1 (8 * link + if StitchWord.ctlOk w then w.stream else 0) 0 0).abortStep
  else
    let d := d.modCore c fun k =>
      ({ k with sil := { k.sil with awaits := NMap.set none k.sil.awaits link (some w.seq),
                                    fails := NMap.set 0 k.sil.fails link (fails + 1) } } : Core).addFld (retryFld link) 1
    (d.askReplay c link w.seq).tally 0x00A 1 c (routerOf c) 1

/-- An accepted word joins the segment's tail while the segment is not empty or the queue is full, else the queue (R198); a
seal advances the arrival generation (R187). -/
def Core.joinQ (k : Core) (q : Nat) (w : StitchWord) : Core :=
  let x := k.log.inQ q
  let x := { x with agen := if w.kind = 1 then (w.gen + 1) % 4 else w.gen }
  if x.seg.isEmpty && decide (x.q.length < 8) && !x.spill then k.setInQ q { x with q := x.q ++ [{ w := w }] }
  else
    let f := k.ringFlip
    f.2.setInQ q { x with seg := x.seg ++ [{ w := w, errs := f.1 }] }

/-- Accept, count or discard a word by its generation (R187). -/
def Dev.arriveWord (d : Dev) (c q : Nat) (w : StitchWord) : Dev :=
  let k := d.core c
  let x := k.log.inQ q
  let a := x.agen % 4
  let valid := fun (bank : Nat) => bit (k.route bank q) 63
  let join := d.afterSpad c (k.joinQ q w)
  if w.kind ≥ 2 then d.discardWord c q w Fld.CORE_STITCH_DISCARD_ROUTE_MISS
  else if w.gen = a then
    if valid w.gen then join else d.discardWord c q w Fld.CORE_STITCH_DISCARD_ROUTE_MISS
  else if w.gen = (a + 1) % 4 then
    if valid a then
      (d.discardWord c q w Fld.CORE_STITCH_DISCARD_AHEAD).event
        { code := 0x100, kind := 1, unit := c, lid := d.lid c, idKind := 1, id := q }
    else if valid w.gen then join else d.discardWord c q w Fld.CORE_STITCH_DISCARD_ROUTE_MISS
  else d.discardWord c q w Fld.CORE_STITCH_DISCARD_STALE

/-- A word arrives on an inbound link: the words behind a failed one are discarded until its replay (R176). Only a core that the
word's own map joins to a neighbour on that link takes one, and none comes while its links stop (R24, R179, R204, R206). -/
def wordArrival (c link : Nat) (w : StitchWord) (d : Dev) : Dev :=
  let k := d.core c
  if nbit k.sil.dead link || d.linksStopped c || !(d.mapAt w.epoch).hasLink c link then d
  else
    let skip := match NMap.get none k.sil.awaits link with | some s => decide (s ≠ w.seq) | none => false
    if skip then d
    else if !(StitchWord.dataOk w && StitchWord.ctlOk w) then d.badArrival c link w
    else
      let d := d.modCore c fun k => { k with sil := { k.sil with awaits := NMap.set none k.sil.awaits link none,
                                                                 fails := NMap.set 0 k.sil.fails link 0 } }
      d.arriveWord c (8 * link + w.stream) w

/-- A neighbour asks for the kept words of an outbound link from sequence number `seq` on (R176). -/
def replayRequest (c link seq : Nat) (d : Dev) : Dev :=
  (fromSeq (NMap.get [] (d.core c).sil.tx link) seq).foldl (fun d w => d.emit (.word c link ((d.mapAt w.epoch).neighbour c link) w)) d

/-! ### Credits -/

/-- Seals that wait on an outbound stream go while credits last (R103). -/
def Dev.sendWaiting (d : Dev) (c q : Nat) : Nat → Dev
  | 0 => d
  | n + 1 =>
    let o := (d.core c).log.outQ q
    match o.wait with
    | [] => d
    | _ :: rest =>
      if o.credits = 0 then d
      else ((d.modCore c fun k => k.setOutQ q { k.log.outQ q with wait := rest }).sendSeal c q).sendWaiting c q n

/-- The `seal` operations of a core none of whose seals waits any more complete (R103). -/
def Dev.endSeals (d : Dev) (c : Nat) : Dev :=
  ((d.core c).log.ops.filter fun o => o.kind == .seals && !(d.core c).log.sealWaits o.tag).foldl
    (fun d o => d.endOp c o) d

/-- A credit return: accepted with the stream's generation or one less, else ignored (R184); none comes while the links stop (R204). -/
def creditReturn (c q count gen : Nat) (d : Dev) : Dev :=
  let o := (d.core c).log.outQ q
  if d.linksStopped c then d
  else if gen = o.gen % 4 || (gen + 1) % 4 = o.gen % 4 then
    let d := d.modCore c fun k => k.setOutQ q { o with credits := o.credits + count }
    (d.sendWaiting c q (o.wait.length)).endSeals c
  else d

/-! ### Forwarding -/

/-- The outbound stream an output of a word's entry drives. -/
def outStream (e : Word) (out : Nat) : Nat := 8 * (out - 1) + routeStream e

/-- Link output `out` takes the next word of inbound stream q that its entry sends there, when it holds a credit (R181, R186):
DATA, PAR and GEN stay the word's own, and the outbound stream's generation follows it. -/
def forward (c q out : Nat) (d : Dev) : Dev :=
  let k := d.core c
  let x := k.log.inQ q
  let ent := fun (w : StitchWord) => k.route w.gen q
  if nbit k.sil.dead (q / 8) || d.coreHeld c then d
  else match markFirst out (fun w => nbit (routeMask (ent w)) out) x.q with
    | none => d
    | some (w, q') =>
      let oq := outStream (ent w) out
      let o := k.log.outQ oq
      if o.credits = 0 then d
      else
        let k := (k.setInQ q { x with q := q' }).setOutQ oq
          { o with credits := o.credits - 1, gen := if w.kind = 1 then (w.gen + 1) % 4 else w.gen }
        ((d.setCore c k).sendWord c oq w.kind w.gen w.data w.par).popQueue c q

/-! ### The switch -/

/-- The inbound streams with LOCAL in a valid entry of bank CFG_GEN[0] (R189). -/
def Core.localStreams (k : Core) : List Nat := (List.range 32).filter fun q => nbit (routeMask (k.route k.gen q)) 0

/-- Whether the first word of stream q that the core has not taken is the seal of its generation. -/
def Core.sealAtHead (k : Core) (q : Nat) : Bool :=
  match (k.log.inQ q).q with
  | x :: _ => x.w.kind == 1 && x.w.gen == k.gen % 4 && !nbit x.taken 0
  | [] => false

/-- LOCAL takes the seal at the head of queue q. -/
def Dev.takeSeal (d : Dev) (c q : Nat) : Dev :=
  (d.modCore c fun k => let x := k.log.inQ q
    match x.q with
    | w :: rest => k.setInQ q { x with q := { w with taken := w.taken + 1 } :: rest }
    | [] => k).popQueue c q

/-- Every LOCAL stream has its seal at the head: the seals go, CFG_GEN advances (R189). -/
def configSwitch (c : Nat) (d : Dev) : Dev :=
  let k := d.core c
  let qs := k.localStreams
  if !qs.isEmpty && qs.all k.sealAtHead then
    (qs.foldl (fun d q => d.takeSeal c q) d).modCore c fun k => k.setFld Fld.CORE_STITCH_GEN_CFG_GEN (k.gen + 1)
  else d

/-- STITCH_WORD_ARRIVAL (R175–R177, R187, R198). -/
def execStitchWordArrival (c link : Nat) (w : StitchWord) (s : State) : Host.Outcome State Fault Refusal :=
  onUnit (decide (c < numCores) && decide (link < 4)) (wordArrival c link w) s
/-- STITCH_REPLAY_REQUEST (R176). -/
def execStitchReplayRequest (c link seq : Nat) (s : State) : Host.Outcome State Fault Refusal :=
  onUnit (decide (c < numCores) && decide (link < 4)) (replayRequest c link seq) s
/-- STITCH_CREDIT_RETURN (R184). -/
def execStitchCreditReturn (c link stream count gen : Nat) (s : State) : Host.Outcome State Fault Refusal :=
  onUnit (decide (c < numCores) && decide (link < 4) && decide (stream < 8)) (creditReturn c (8 * link + stream) count gen) s
/-- STITCH_FORWARD (R181, R186). -/
def execStitchForward (c q out : Nat) (s : State) : Host.Outcome State Fault Refusal :=
  onUnit (decide (c < numCores) && decide (q < 32) && decide (1 ≤ out) && decide (out ≤ 4)) (forward c q out) s
/-- CONFIG_SWITCH (R189). -/
def execConfigSwitch (c : Nat) (s : State) : Host.Outcome State Fault Refusal :=
  onUnit (decide (c < numCores)) (configSwitch c) s

end Sys2Proof.Machine
end

