-- ==== Sys2Proof/Machine/Packets.lean ====
section
/-!
DEFINITION. Packets at the unit they reach (07 R213, R218, R228–R237; 02 R60, R67, R68): addressed reads and writes, messages, flags,
barriers, instruction loads, and the answers at the sending gateway.
-/
namespace Sys2Proof.Machine

/-! ### Admission and names -/

/-- The logical core a copy of a multicast names at gateway r: the core at DST_CORE's row and column offset, under the map of the packet's
epoch (R22, R217). -/
def Dev.copyCore (d : Dev) (r : Nat) (p : Packet) : Nat :=
  if p.mc = 1 || p.mc = 2 then
    let v := (d.mapAt p.epoch).v
    let crow := r / 8 - b2n (decide (v < r / 8))
    (crow * 8 + p.dstCore / 128 % 8) * 128 + r % 8 * 16 + p.dstCore % 16
  else p.dstCore

/-- The address a copy of a multicast names: the same offset of its own core's scratchpad window. -/
def Dev.copyAddr (d : Dev) (r : Nat) (p : Packet) : Nat :=
  if p.mc = 1 || p.mc = 2 then 0x400000000000 + d.copyCore r p * 2 ^ 19 + p.addr % 2 ^ 19 else p.addr

/-- Whether the unit at a node serves an address: a gateway scratchpads, a controller its memory. -/
def Dev.serves (d : Dev) (node a : Nat) : Bool :=
  match d.locate a with
  | .spad _ _ => node % 4 == 0
  | .mem k _ => node == memNode k || node == memNode1 k
  | .hole => false

/-! ### Addressed accesses -/

/-- READ: AUX gives the bytes, 1–1,024. -/
def readPacket (node : Nat) (p : Packet) (d : Dev) : Dev :=
  d.consume node p fun d =>
    if p.aux = 0 || decide (1024 < p.aux) then (d.take node p).error node p 0x8B
    else if !d.serves node p.addr then (d.take node p).error node p 0x83
    else match d.devRead (d.reqOf p) p.addr p.aux with
      | (.ok bs, d) => (d.take node p).answer node p .readData 0 bs
      | (.err x, d) => (d.take node p).error node p x
      | (.wait, d) => d.hold node p

/-- A request of the same core to the same scratchpad that the gateway registered before this one and still holds: the later one waits
(R59). -/
def Dev.behindOther (d : Dev) (node : Nat) (p : Packet) : Bool :=
  p.srcCore ≠ 0x3FFF &&
  ((d.arrived.takeWhile fun x => !(x.1 == node && x.2.p == p)).any fun x =>
    x.1 == node && x.2.p.ptype == .write && x.2.p.srcCore == p.srcCore && x.2.p.srcDev == p.srcDev &&
    x.2.p.addr / 2 ^ 19 == p.addr / 2 ^ 19)

/-- WRITE of its payload. -/
def writePacket (node : Nat) (p : Packet) (d : Dev) : Dev :=
  d.consume node p fun d =>
    let a := d.copyAddr (node / 4) p
    if p.payload.isEmpty || decide (1024 < p.payload.length) then (d.take node p).error node p 0x8B
    else if !d.serves node a then (d.take node p).error node p 0x83
    else if d.behindOther node p then d.hold node p
    else match d.devWrite (d.reqOf p) a p.payload with
      | (.ok _, d) => (d.take node p).answer node p .writeAck 0 []
      | (.err x, d) => (d.take node p).error node p x
      | (.wait, d) => d.hold node p

/-! ### Messages (R228–R232) -/

/-- The step number a gateway forms from STEP8 (R229). -/
def stepOf (s step8 : Nat) : Nat :=
  let base := s - 128
  base + (step8 + 256 - base % 256) % 256

/-- The queue entry of a message (Table — Message queue entry). -/
def Dev.msgEntry (d : Dev) (p : Packet) : Line :=
  let n := stepOf d.stepNo p.step8
  lineOf ((p.payload ++ List.replicate 32 0).take 32 ++
    leBytes 4 (p.srcCore % 2 ^ 14 + p.tag % 2 ^ 12 * 2 ^ 16) ++
    leBytes 4 (p.srcDev % 2 ^ 14 + p.gen % 4 * 2 ^ 16 + b2n (p.srcDev ≠ d.devId) * 2 ^ 18) ++
    leBytes 8 (n % 2 ^ 48) ++ leBytes 8 d.t ++ leBytes 8 0)

/-- The queue number of a mapped tag (R228). -/
def Core.tagQueue (k : Core) (t : Nat) : Option Nat :=
  if bit (k.reg (0xE00 + 8 * (t / 64))) (t % 64) then
    some (bits (k.reg (0xA00 + 8 * (t / 32))) (2 * (t % 32) + 1) (2 * (t % 32)))
  else none

/-- Why a core's queues are closed to a message, as a bounce reason (R35, R232). -/
def closedReason (s : CState) : Option Nat :=
  match s with
  | .loaded | .running => none
  | .done => some 1
  | .empty | .loading => some 2
  | .faulted | .hung => some 3
  | .underTest => some 9
  | .offline => some 2

/-- A MESSAGE at the destination gateway. -/
def messagePacket (node : Nat) (p : Packet) (d : Dev) : Dev :=
  d.consume node p fun d =>
    let held := d.hold node p
    let d := d.take node p
    let lid := d.copyCore (node / 4) p
    let bounce := fun (r : Nat) => d.answer node p .bounce r []
    if lid ≥ numLogical then d.error node p 0x81
    else match d.hostOf lid with
      | none => d.error node p 0x8D
      | some c =>
        let k := d.core c
        if d.coreHeld c then held
        else match closedReason (d.coreState c) with
        | some r => bounce r
        | none => match k.tagQueue p.tag with
          | none => bounce 4
          | some n =>
            if (p.gen + 4 - k.gen % 4) % 4 = 2 then bounce 5
            else if 32 ≤ (k.log.mqueue n).length then d.answer node p .busy 0 []
            else
              let d := d.modLog c fun l => { l with mq := NMap.set [] l.mq n (l.mqueue n ++ [d.msgEntry p]) }
              (d.answer node p .accept 0 []).tally 0x104 3 (node / 4) (node / 4) 1

/-! ### Answers at the sending gateway (R231–R233, R237) -/

/-- The operation of a core of gateway r that awaits an answer of transaction txn: core, operation, packet. -/
def Dev.findOut (d : Dev) (r txn : Nat) : Option (Nat × Op × Packet) :=
  (d.clusterOps r).findSome? fun x => (x.2.out.find? fun y => y.1.txn == txn).map fun y => (x.1, x.2, y.1)

/-- One answer of a packet has come. -/
def Op.answered (o : Op) (txn : Nat) : Op :=
  { o with out := (o.out.map fun y => if y.1.txn = txn then (y.1, y.2 - 1) else y).filter fun y => y.2 ≠ 0,
           again := o.again.filter (· ≠ txn) }

/-- The verdict read of a waiting `sgate` failed: the `sgate` completes with `error` (DEDUCED, log 5). -/
def Dev.failVerdict (d : Dev) (c : Nat) (o : Op) (reason : Nat) : Dev :=
  let d := d.modLog c (·.dropOp o.tag)
  match (d.core c).log.vu with
  | u :: us => ((d.complete c o.tag 2 u.pc 0xA 0 reason).modLog c fun l => { l with vu := us }).drainVR c us
  | [] => d

/-- An answer with a status for an operation of gateway r. -/
def Dev.answerOp (d : Dev) (r : Nat) (p : Packet) (st reason : Nat) : Dev :=
  match d.findOut r p.txn with
  | none => d
  | some (c, o, _) =>
    match o.kind with
    | .verdictRead _ _ => if st = 0 then d else (d.failVerdict c o reason).pump r
    | _ => (d.settleOp c ((o.answered p.txn).worse st reason)).pump r

/-- A forwarded block that is neither accepted nor to be sent again: counted and reported (R309). -/
def Dev.fwdFailed (d : Dev) (r n : Nat) (q : Packet) (reason : Nat) : Dev :=
  (d.addFld ((Fld.CLU_CONF_STATUS_DELIVERY_BOUNCES.nth 32 n).at (cluBase r)) 1).event
    { code := 0x204, kind := 3, unit := r, lid := q.dstCore, idKind := 2, id := q.tag,
      detail := leBytes 4 q.aux ++ leBytes 2 reason }

/-- A forwarded block leaves with the step of its own entry (R309). -/
def Dev.sendFwd (d : Dev) (r n : Nat) (q : Packet) : Dev :=
  let g := d.gw r
  (d.setGw r { g with fwd := g.fwd ++ [(n, q)] }).send (4 * r) .ownStep q

/-- A forwarded block's answer (R309). -/
def Dev.answerFwd (d : Dev) (r : Nat) (p : Packet) : Dev :=
  let g := d.gw r
  match g.fwd.find? fun x => x.2.txn == p.txn with
  | none => d
  | some (n, q) =>
    let d := d.setGw r { g with fwd := g.fwd.filter (· ≠ (n, q)),
                                fwdBusy := if p.ptype == .busy then g.fwdBusy ++ [(n, q)] else g.fwdBusy }
    if p.ptype == .accept || p.ptype == .busy then d else d.fwdFailed r n q p.reason

/-- An answer in which the gateway finds a parity error: the operation it answers completes with `error`, reason `parity` (R210). -/
def Dev.badAnswer (d : Dev) (r : Nat) (p : Packet) : Dev :=
  (d.answerFwd r { p with ptype := .error, reason := 0x87 }).answerOp r p 2 0x87

/-- READ_DATA at the requester: the load's destination, the flag a `fwait` reads, the verdict of an `sgate`. -/
def readDataPacket (node : Nat) (p : Packet) (d : Dev) : Dev :=
  d.byEpoch node p fun d =>
    let d := d.take node p
    let r := node / 4
    if node % 4 ≠ 0 then d
    else if !p.badPar.isEmpty then d.badAnswer r p
    else match d.findOut r p.txn with
      | none => d
      | some (c, o, _) =>
        match o.kind with
        | .load dst isV sx size => ((d.modLog c (·.loaded dst isV sx size p.payload)).endOp c (o.answered p.txn)).pump r
        | .flagWait _ _ v =>
          if v.toNat ≤ ofBytes p.payload then (d.endOp c (o.answered p.txn)).pump r
          else (d.modLog c (·.setOp (o.answered p.txn))).pump r
        | .verdictRead _ _ =>
          (d.modLog c fun l => { l.dropOp o.tag with verdict := some (BitVec.ofNat 64 (ofBytes p.payload)) }).pump r
        | _ => d

/-- An answer without data at the requester: WRITE_ACK and ACCEPT `ok`, BOUNCE `closed`, ERROR `error`. -/
def plainAnswer (st : Nat) (node : Nat) (p : Packet) (d : Dev) : Dev :=
  d.byEpoch node p fun d =>
    let d := d.take node p
    if node % 4 ≠ 0 then d
    else if !p.badPar.isEmpty then d.badAnswer (node / 4) p
    else (d.answerFwd (node / 4) p).answerOp (node / 4) p st p.reason

/-- The packet a sender sends again after BUSY: to the one core of a multicast whose gateway refused it (R217, R231). -/
def Dev.resendOf (d : Dev) (q ans : Packet) : Packet :=
  if q.mc = 0 then q
  else if q.mc < 4 then { q with mc := 0, dstCore := d.copyCore (ans.src / 4) q }
  else { q with mc := 0, dstDev := ans.srcDev }

/-- BUSY: the message or unit waits for its resend. -/
def busyPacket (node : Nat) (p : Packet) (d : Dev) : Dev :=
  d.byEpoch node p fun d =>
    let d := d.take node p
    if node % 4 ≠ 0 then d
    else if !p.badPar.isEmpty then d.badAnswer (node / 4) p
    else
      let r := node / 4
      let d := d.answerFwd r p
      match d.findOut r p.txn with
      | none => d
      | some (c, o, q) => d.modLog c (·.setOp { o.answered p.txn with busy := o.busy ++ [d.resendOf q p] })

/-- 256 Race cycles after BUSY the gateway sends the packet again (R231), when its regulator admits it and no routing-table flip holds
it. A forwarded block keeps its step (R309), and a mode that does not carry it ends it (R221). -/
def busyResend (r txn : Nat) (d : Dev) : Dev :=
  let found := (d.clusterOps r).findSome? fun x => (x.2.busy.find? fun q => q.txn == txn).map fun q => (x.1, x.2, q)
  match found with
  | some (c, o, q) =>
    if !d.admitsCore r q || d.flipHold r q then d
    else
      let o := { o with busy := o.busy.filter fun x => x.txn ≠ txn }
      match d.refuseSend r q with
      | some reason => (d.settleOp c { (o.worse 2 reason) with todo := [] }).pump r
      | none =>
        let (t, d) := d.newTxn
        let q := { q with txn := t, epoch := d.epoch % 4 }
        ((d.modLog c (·.setOp { o with out := o.out ++ [(q, 1)], again := o.again ++ [t] })).inject (4 * r) q).pump r
  | none =>
    let g := d.gw r
    match g.fwdBusy.find? fun x => x.2.txn == txn with
    | none => d
    | some (n, q) =>
      let d := d.setGw r { g with fwdBusy := g.fwdBusy.filter (· ≠ (n, q)) }
      if d.mayInject (4 * r) .contrib then
        let (t, d) := d.newTxn
        d.sendFwd r n { q with txn := t }
      else d.fwdFailed r n q 0x89

/-! ### Instruction loads (R67, R68, R253) -/

/-- TOTAL, CRC-32 and the first index of an ILOAD packet (log 18): ADDR bits [12:0] and [28:16], AUX. -/
def iloadIndex (p : Packet) : Nat := p.addr % 2 ^ 13
def iloadTotal (p : Packet) : Nat := p.addr / 2 ^ 16 % 2 ^ 13

/-- Words written to instruction memory. -/
def LCore.putImem (l : LCore) (i : Nat) : List Word → LCore
  | [] => l
  | w :: ws => ({ l with imem := NMap.set 0 l.imem i w, badPar := l.badPar.filter (· ≠ i) } : LCore).putImem (i + 1) ws

/-- The CRC-32 of the first n instructions, each little-endian. -/
def LCore.imemCrc (l : LCore) (n : Nat) : Nat :=
  crc32 ((List.range n).flatMap fun i => leBytes 8 (NMap.get 0 l.imem i).toNat)

/-- Words of a load reach a core that may take them. -/
def Dev.loadWords (d : Dev) (c : Nat) (p : Packet) : Dev :=
  let ws := (chunks 8 128 p.payload).map fun b => (BitVec.ofNat 64 (ofBytes b) : Word)
  let i := iloadIndex p
  let d := if d.coreState c == .loading then d
    else d.modCore c fun k =>
      ({ k with log := { k.log with load := some { total := iloadTotal p, crc := p.aux } } } : Core).setState .loading d.epoch
  if 4096 < i + ws.length then d.loadFailed c
  else
    let d := d.modLog c fun l =>
      { l.putImem i ws with load := l.load.map fun x => { x with got := x.got + ws.length } }
    match (d.core c).log.load with
    | none => d
    | some x =>
      if x.got < x.total then d
      else if x.got = x.total && (d.core c).log.imemCrc x.total = x.crc then
        d.modCore c fun k => ({ k with log := { k.log.clearArch.canonOut with load := none } } : Core).setState .loaded d.epoch
      else d.loadFailed c

/-- An ILOAD packet at a gateway. -/
def iloadPacket (node : Nat) (p : Packet) (d : Dev) : Dev :=
  d.consume node p fun d =>
    let held := d.hold node p
    let d := d.take node p
    let lid := d.copyCore (node / 4) p
    if lid ≥ numLogical then d.error node p 0x81
    else match d.hostOf lid with
      | none => d.error node p 0x8D
      | some c =>
        if d.coreHeld c then held
        else match d.coreState c with
        | .empty | .loading | .done => (d.loadWords c p).answer node p .writeAck 0 []
        | .underTest => d.error node p 0x90
        | _ => d.error node p 0x91

/-! ### Flags, barriers, seals, notices -/

/-- FLAG_WRITE replaces a flag (R236). -/
def flagWritePacket (node : Nat) (p : Packet) (d : Dev) : Dev :=
  d.consume node p fun d =>
    let d := d.take node p
    let g := d.gw (node / 4)
    if node % 4 ≠ 0 then d.error node p 0x8B
    else (d.setGw (node / 4) { g with flags := NMap.set 0 g.flags (p.aux % 64) (BitVec.ofNat 64 (ofBytes p.payload)) }).answer
      node p .writeAck 0 []

/-- FLAG_READ returns a flag (R236). -/
def flagReadPacket (node : Nat) (p : Packet) (d : Dev) : Dev :=
  d.consume node p fun d =>
    let d := d.take node p
    if node % 4 ≠ 0 then d.error node p 0x8B
    else d.answer node p .readData 0 (leBytes 8 (NMap.get 0 (d.gw (node / 4)).flags (p.aux % 64)).toNat)

/-- The seal deadline D of the step (R318). -/
def Dev.sealBy (d : Dev) : Nat := d.step.start + d.fld Fld.COB_STEP_CFG_SEAL_OFFSET

/-- A sealed device whose subtree is complete sends its seal on; the root decides: FAIL where its own D has passed or a failing seal
is registered, else it holds COMMIT ready until the Race cycle is over (R319, R320). -/
def Dev.collect (d : Dev) : Dev :=
  let step := d.fld Fld.COB_STEP_STATUS_STEP
  if d.step.sent || d.stepState ≠ 3 || d.flag Fld.COB_STEP_CMD_EXPEL || d.fld Fld.COB_STEP_SEALS_COUNT ≠ d.collector.2 then d
  else
    let e := { d with step := { d.step with sent := true } }
    match d.collector.1 with
    | some dest => e.inject cobNode { ptype := .barEnter, dst := cobNode, dstDev := dest, addr := step,
                                      aux := 0x80000000 + d.collector.2 }
    | none => if decide (d.t < d.sealBy) && d.fld Fld.COB_STEP_SEALS_FAILS == 0 then e else e.decideStep step false

/-- The root's COMMIT, once the Race cycle of the completing seal is over with no failing seal in it (R320). -/
def Dev.rootCommit (d : Dev) : Dev :=
  if d.step.sent && d.stepState == 3 && d.collector.1.isNone && !d.flag Fld.COB_STEP_CMD_EXPEL then
    d.decideStep (d.fld Fld.COB_STEP_STATUS_STEP) true
  else d

/-- A seal or failing seal is registered by the device (R319, R320); an expelled one accepts none (R330). A failing seal is passed on
whatever step it names. -/
def Dev.sealIn (d : Dev) (step count : Nat) (failing : Bool) : Dev :=
  if d.flag Fld.COB_STEP_CMD_EXPEL then d
  else if failing then
    (if step = d.fld Fld.COB_STEP_STATUS_STEP then d.addFld Fld.COB_STEP_SEALS_FAILS 1 else d).passFail step
  else if step ≠ d.fld Fld.COB_STEP_STATUS_STEP then d
  else
    let n := d.fld Fld.COB_STEP_SEALS_COUNT + count
    if d.collector.1.isNone && decide (d.collector.2 < n) then
      (d.addFld Fld.COB_STEP_SEALS_EXCESS 1).decideStep step false
    else (d.addFld Fld.COB_STEP_SEALS_COUNT count).collect

/-- BAR_ENTER: at Cobbler's node a seal; at a root gateway one more member gateway, the last of which releases the barrier (R235,
R318, R319). -/
def barEnterPacket (node : Nat) (p : Packet) (d : Dev) : Dev :=
  d.consume node p fun d =>
    let d := d.take node p
    if node = cobNode then d.sealIn p.addr (p.aux % 2 ^ 29) (nbit p.aux 29)
    else
      let r := node / 4
      let b := p.aux % 256
      let x := (d.gw r).bar b
      if node % 4 ≠ 0 || !x.valid then d
      else if x.arrived + 1 < x.awaits then d.setBar r b { x with arrived := x.arrived + 1 }
      else
        let d := (d.setBar r b { x with arrived := 0 }).barRelease r b
        if b = d.fld Fld.COB_STEP_CFG_SEAL_BAR && d.inProgress then { d with step := { d.step with barDone := true } } else d

/-- BAR_RELEASE: at Cobbler's node a verdict; at a gateway the release of a barrier (R235, R321). -/
def barReleasePacket (node : Nat) (p : Packet) (d : Dev) : Dev :=
  d.consume node p fun d =>
    let d := d.take node p
    if node = cobNode then (if d.flag Fld.COB_STEP_CMD_EXPEL then d else d.verdict p.addr (p.aux % 4 == 1))
    else if node % 4 ≠ 0 then d else d.barReleased (node / 4) (p.aux % 256) p.mc

/-- RESET_NOTICE: at a Ford port's node the port sends it on as link control (R280); at a gateway, what its cores sent to the
resetting node ends with `unit_reset` (R386). -/
def resetNoticePacket (node : Nat) (p : Packet) (d : Dev) : Dev :=
  d.consume node p fun d =>
    let d := d.take node p
    if node % 4 ≠ 0 then
      match portAt node with
      | some q => let x := d.port q; d.setPort q { x with ctrl := x.ctrl ++ [.resetNotice p.aux d.t] }
      | none => d
    else
      let r := node / 4
      ((d.clusterOps r).flatMap fun x => (x.2.out.filter fun y => (d.translate y.1).dst == p.src).map fun y => y.1).foldl
        (fun d q => d.answerOp r q 2 0x8E) d

/-- MESSAGE (R228–R232). -/
def execMessage (node : Nat) (p : Packet) (s : State) : Host.Outcome State Fault Refusal :=
  onUnit (decide (node < 416) && node % 4 == 0) (messagePacket node p) s
/-- ACCEPT (R237). -/
def execAccept (node : Nat) (p : Packet) (s : State) : Host.Outcome State Fault Refusal :=
  onUnit (nodeOk node) (plainAnswer 0 node { p with reason := 0 }) s
/-- BOUNCE (R232). -/
def execBounce (node : Nat) (p : Packet) (s : State) : Host.Outcome State Fault Refusal :=
  onUnit (nodeOk node) (plainAnswer 1 node p) s
/-- BUSY (R231). -/
def execBusy (node : Nat) (p : Packet) (s : State) : Host.Outcome State Fault Refusal :=
  onUnit (nodeOk node) (busyPacket node p) s
/-- BUSY_RESEND (R231). -/
def execBusyResend (gw txn : Nat) (s : State) : Host.Outcome State Fault Refusal :=
  onUnit (decide (gw < numRouters)) (busyResend gw txn) s
/-- ILOAD (R67, R68). -/
def execIload (node : Nat) (p : Packet) (s : State) : Host.Outcome State Fault Refusal :=
  onUnit (decide (node < 416) && node % 4 == 0) (iloadPacket node p) s
/-- BAR_ENTER (R235, R319). -/
def execBarEnter (node : Nat) (p : Packet) (s : State) : Host.Outcome State Fault Refusal :=
  onUnit (nodeOk node) (barEnterPacket node p) s
/-- BAR_RELEASE (R235, R321). -/
def execBarRelease (node : Nat) (p : Packet) (s : State) : Host.Outcome State Fault Refusal :=
  onUnit (nodeOk node) (barReleasePacket node p) s
/-- FLAG_WRITE (R236). -/
def execFlagWrite (node : Nat) (p : Packet) (s : State) : Host.Outcome State Fault Refusal :=
  onUnit (nodeOk node) (flagWritePacket node p) s
/-- FLAG_READ (R236). -/
def execFlagRead (node : Nat) (p : Packet) (s : State) : Host.Outcome State Fault Refusal :=
  onUnit (nodeOk node) (flagReadPacket node p) s
/-- RESET_NOTICE (R213, R280, R386). -/
def execResetNotice (node : Nat) (p : Packet) (s : State) : Host.Outcome State Fault Refusal :=
  onUnit (nodeOk node) (resetNoticePacket node p) s

end Sys2Proof.Machine
end

