-- ==== Sys2Proof/Machine/Confluence.lean ====
section
/-!
DEFINITION. Confluence queues (07 R237–R242; 10 R309–R314): contributions, deliveries, deadlines, forwards, the norm screen, and the
opening of an entry for a step.
-/
namespace Sys2Proof.Machine

/-! ### An entry's registers -/

/-- A field of entry n at gateway r. -/
def cf (f : Fld) (r n : Nat) : Fld := (f.nth 32 n).at (cluBase r)
/-- A field of CLU_CONF_REDn. -/
def cr (f : Fld) (r n : Nat) : Fld := (f.nth 8 n).at (cluBase r)
def Dev.confState (d : Dev) (r n : Nat) : Nat := d.fld (cf Fld.CLU_CONF_CFG_STATE r n)
def Dev.confKind (d : Dev) (r n : Nat) : Nat := d.fld (cf Fld.CLU_CONF_CFG_KIND r n)
def Dev.confFirst (d : Dev) (r n : Nat) : Nat := d.fld (cf Fld.CLU_CONF_CFG_FIRST_BLOCK r n)
/-- BLOCKS: 000h gives 512. -/
def Dev.confBlocks (d : Dev) (r n : Nat) : Nat :=
  let b := d.fld (cf Fld.CLU_CONF_CFG_BLOCKS r n); if b = 0 then 512 else b
def Dev.confStep (d : Dev) (r n : Nat) : Nat := d.fld (cf Fld.CLU_CONF_STATUS_STEP r n)
def Dev.conf (d : Dev) (r n : Nat) : Conf := NMap.get {} (d.gw r).conf n
def Dev.setConf (d : Dev) (r n : Nat) (x : Conf) : Dev :=
  let g := d.gw r; d.setGw r { g with conf := NMap.set {} g.conf n x }
def Conf.block (x : Conf) (i : Nat) : ConfBlock := NMap.get {} x.blocks i
def Dev.setBlock (d : Dev) (r n i : Nat) (b : ConfBlock) : Dev :=
  let x := d.conf r n; d.setConf r n { x with blocks := NMap.set {} x.blocks i b }
/-- The entry for a tag that is OPEN or DONE. -/
def Dev.confOf (d : Dev) (r tag : Nat) : Option Nat :=
  (List.range 64).find? fun n => d.fld (cf Fld.CLU_CONF_CFG_TAG r n) == tag && (d.confState r n == 1 || d.confState r n == 2)
/-- D = S + OFFSET (R240). -/
def Dev.confDue (d : Dev) (r n : Nat) : Nat := (d.conf r n).start + d.fld (cf Fld.CLU_CONF_TIME_OFFSET r n)

/-! ### A block's sum -/

/-- The unit a slot holds: zeros before the first contribution. -/
def ConfBlock.bytes (b : ConfBlock) (kind : Nat) : List Byte :=
  let ns := (b.sum ++ List.replicate 64 0).take 64
  if kind = 0 then ns.map fun n => BitVec.ofInt 8 n else mkBlk kind ns b.resid b.flags

/-- The unit put back into a slot. -/
def ConfBlock.hold (b : ConfBlock) (kind : Nat) (u : List Byte) : ConfBlock :=
  if kind = 0 then { b with sum := u.map fun x => (x.toNat : Int) }
  else { b with sum := blkInts kind u, resid := blkResid kind u, flags := blkFlags kind u }

/-- The source a forward keeps: the first contribution with flag bit 4, failing that with bit 0 (R309). -/
def keepSource (old : Option (Bool × Nat × Nat)) (p : Packet) : Option (Bool × Nat × Nat) :=
  let f := unitFlags p.con.kind p.payload
  if nbit f 4 then (match old with | some (true, _) => old | _ => some (true, p.con.origin, p.srcCore))
  else if nbit f 0 then (match old with | some _ => old | none => some (false, p.con.origin, p.srcCore))
  else old

/-- The norm Σ|n_i| of a packet, 0 with flag bit 0 (R312). -/
def normOf (p : Packet) : Nat :=
  if nbit (unitFlags p.con.kind p.payload) 0 then 0 else ((blkInts p.con.kind p.payload).map Int.natAbs).foldl (· + ·) 0

/-! ### Delivery (R241, R309, R312, R314) -/

/-- A sorted list of numbers. -/
def insSort : List Nat → List Nat
  | [] => []
  | x :: l => ins x (insSort l)
where
  ins (x : Nat) : List Nat → List Nat
    | [] => [x]
    | y :: l => if x ≤ y then x :: y :: l else y :: ins x l
/-- The lower median. -/
def lowMedian (l : List Nat) : Nat := (insSort l).getD ((l.length - 1) / 2) 0

/-- The norm screen of a delivered block (R312): PLAUSIBILITY for each packet far above the others' median. -/
def Dev.screen (d : Dev) (r n i : Nat) (b : ConfBlock) : Dev :=
  if !d.flag (cr Fld.CLU_CONF_RED_SCREEN r n) || d.confKind r n = 0 || b.norms.length < 2 then d
  else
    (List.range b.norms.length).foldl (fun d j =>
      let x := b.norms.getD j (0, 0, 0)
      let m := lowMedian ((b.norms.eraseIdx j).map Prod.fst)
      if 0 < m && decide (d.fld (cr Fld.CLU_CONF_RED_FACTOR r n) * m < x.1) then
        let d := d.event { code := 0x205, kind := 3, unit := r, lid := x.2.2, idKind := 2,
                           id := d.fld (cf Fld.CLU_CONF_CFG_TAG r n),
                           detail := leBytes 2 x.2.1 ++ leBytes 4 i ++ leBytes 8 x.1 ++ leBytes 8 m }
        { d with step := { d.step with plaus := d.step.plaus + 1 } }
      else d) d

/-- The delivery cores of an entry (CLU_CONF_DELIVERn). -/
def Dev.confCores (d : Dev) (r n : Nat) : List Nat :=
  let core := d.fld (cf Fld.CLU_CONF_DELIVER_CORE r n)
  let lo := d.fld (cf Fld.CLU_CONF_DELIVER_SPAN_LO r n)
  let hi := d.fld (cf Fld.CLU_CONF_DELIVER_SPAN_HI r n)
  let span := (List.range (hi + 1 - lo)).map (lo + ·)
  match d.fld (cf Fld.CLU_CONF_DELIVER_DELIVER_MODE r n) with
  | 0 => [core]
  | 1 => span.map fun cc => core / 128 * 128 + cc * 16 + core % 16
  | 2 => span.map fun rr => (rr * 8 + core / 128 % 8) * 128 + core % 128
  | _ => []

/-- A delivery that is refused: counted and reported (R241). -/
def Dev.confBounce (d : Dev) (r n core block reason : Nat) : Dev :=
  (d.addFld (cf Fld.CLU_CONF_STATUS_DELIVERY_BOUNCES r n) 1).event
    { code := 0x204, kind := 3, unit := r, lid := core, idKind := 2, id := d.fld (cf Fld.CLU_CONF_CFG_TAG r n),
      detail := leBytes 4 block ++ leBytes 2 reason }

/-- Write a sum into a delivery core's scratchpad; a refused write aborts the step, a waking bank holds it. -/
def Dev.confWrite (d : Dev) (r n core i off : Nat) (bs : List Byte) : Dev :=
  match d.devWrite { source := 2, core } (0x400000000000 + core * 2 ^ 19 + off) bs with
  | (.ok _, d) => d
  | (.err x, d) => (d.confBounce r n core i x).abortStep
  | (.wait, d) => let x := d.conf r n; d.setConf r n { x with writes := x.writes ++ [(core, i, off, bs)] }

/-- A block goes on as one CONTRIB (R309). -/
def Dev.confForward (d : Dev) (r n i : Nat) (b : ConfBlock) : Dev :=
  if b.count = 0 then d
  else
    let kind := d.confKind r n
    let core := d.fld (cr Fld.CLU_CONF_RED_FWD_CORE r n)
    let off := d.flag (cr Fld.CLU_CONF_RED_FWD_OFFDEV r n)
    let src := match b.src with | some (_, o, c) => (o, c) | none => (d.devId, 0x3FFF)
    let (txn, d) := d.newTxn
    let p : Packet :=
      { toCore { ptype := .contrib } core with
          dstDev := if off then d.fld (cr Fld.CLU_CONF_RED_FWD_DEV r n) else d.devId,
          tag := d.fld (cr Fld.CLU_CONF_RED_FWD_TAG r n), aux := i, txn, step8 := d.confStep r n % 256, srcCore := src.2, payload := b.bytes kind,
          con := { count := b.count, kind, mergeOk := !d.flag (cr Fld.CLU_CONF_RED_FWD_SCREEN r n), origin := src.1 } }
    if d.mayInject (4 * r) .contrib then
      d.sendFwd r n p
    else d.confBounce r n core i 0x89

/-- The kind 1h queue entry of a core (R241): the time of its acceptance is set when it is accepted. -/
def Dev.postEntry (d : Dev) (r n core : Nat) : Line :=
  let kind := d.confKind r n
  let x := d.conf r n
  let flags := x.blocks.foldl (fun a b => a ||| b.2.flags) 0
  lineOf (leBytes 8 (0x400000000000 + core * 2 ^ 19 + d.fld (cf Fld.CLU_CONF_DELIVER_DELIVER_OFFSET r n)) ++
    leBytes 4 (d.confBlocks r n * unitLen kind) ++ leBytes 4 (kind + 1) ++ leBytes 4 (d.confFirst r n) ++ leBytes 4 0 ++
    leBytes 8 0 ++
    leBytes 4 (0x3FFF + d.fld (cf Fld.CLU_CONF_DELIVER_DELIVER_TAG r n) * 2 ^ 16 + 2 ^ 28) ++ leBytes 4 d.devId ++
    leBytes 8 (d.confStep r n) ++ leBytes 8 0 ++ leBytes 4 x.shortN ++ leBytes 4 (if kind = 0 then 0 else flags % 256))

/-- Try to post an entry to a delivery core's queue: true when it is done with, accepted or given up (R241). -/
def Dev.post (d : Dev) (r n core : Nat) (e : Line) : Bool × Dev :=
  match (if core < numLogical then d.hostOf core else none) with
  | none => (true, d.confBounce r n core (d.confFirst r n) 0x8D)
  | some c =>
    let k := d.core c
    match closedReason (d.coreState c), k.tagQueue (d.fld (cf Fld.CLU_CONF_DELIVER_DELIVER_TAG r n)) with
    | some x, _ => (true, d.confBounce r n core (d.confFirst r n) x)
    | none, none => (true, d.confBounce r n core (d.confFirst r n) 4)
    | none, some q =>
      if 32 ≤ (k.log.mqueue q).length || (d.conf r n).writes.any (fun w => w.1 == core) then (false, d)
      else
        let e := e ||| (BitVec.ofNat 512 d.t <<< 384)
        (true, d.modLog c fun l => { l with mq := NMap.set [] l.mq q (l.mqueue q ++ [e]) })

/-- The last block is delivered: entries are posted, the entry is DONE (R241). -/
def Dev.confDone (d : Dev) (r n : Nat) : Dev :=
  let d := (d.confCores r n).foldl (fun d core =>
    let e := d.postEntry r n core
    match d.post r n core e with
    | (true, d) => d
    | (false, d) => let x := d.conf r n; d.setConf r n { x with posts := x.posts ++ [(core, e)] }) d
  d.setFld (cf Fld.CLU_CONF_CFG_STATE r n) 2

/-- Every block of the entry's step is delivered. -/
def Dev.confAll (d : Dev) (r n : Nat) : Bool :=
  (List.range (d.confBlocks r n)).all fun i => ((d.conf r n).block (d.confFirst r n + i)).done ≠ 0

/-- Deliver one block, short of contributions or not (R239–R241); flag bit 1, also a contributor's, makes the step INCOMPLETE
(R317). -/
def Dev.deliverBlock (d : Dev) (r n i : Nat) (short : Bool) : Dev :=
  let kind := d.confKind r n
  let b := (d.conf r n).block i
  let b := if short && kind ≠ 0 then { b with flags := b.flags ||| 2 } else b
  let d := d.screen r n i b
  let owner := d.fld (cf Fld.CLU_CONF_DELIVER_DELIVER_MODE r n) ≠ 3
  let d :=
    if owner && kind ≠ 0 && nbit b.flags 0 then
      let src := match b.src with | some (_, o, c) => (o, c) | none => (d.devId, 0x3FFF)
      let d := d.event { code := 0x206, kind := 3, unit := r, lid := src.2, idKind := 2,
                         id := d.fld (cf Fld.CLU_CONF_CFG_TAG r n), detail := leBytes 2 src.1 ++ leBytes 4 i }
      { d with step := { d.step with nonfin := d.step.nonfin + 1 } }
    else d
  let d := d.setBlock r n i { flags := b.flags, count := b.count, done := if short then 2 else 1 }
  let d := if owner then
      let off := d.fld (cf Fld.CLU_CONF_DELIVER_DELIVER_OFFSET r n) + (i - d.confFirst r n) * unitLen kind
      (d.confCores r n).foldl (fun d core => d.confWrite r n core i off (b.bytes kind)) d
    else d.confForward r n i b
  let d := d.tally 0x107 3 r r 1
  let d :=
    if short then
      let x := d.conf r n
      let d := (d.setConf r n { x with shortN := x.shortN + 1 }).tally 0x108 3 r r 1
      { d with step := { d.step with shorts := d.step.shorts + 1 } }
    else d
  let d := if short || nbit b.flags 1 then d.incomplete 3 else d
  if d.confAll r n then d.confDone r n else d

/-! ### Contributions (R238, R239) -/

/-- Block slots in use at a gateway. -/
def Dev.slotsUsed (d : Dev) (r : Nat) : Nat :=
  ((d.gw r).conf.map fun e => (e.2.blocks.filter fun b => b.2.done == 0 && b.2.count ≠ 0).length).foldl (· + ·) 0

/-- Add an accepted contribution to its block; a full count delivers it. -/
def Dev.addContrib (d : Dev) (r n : Nat) (p : Packet) : Dev :=
  let kind := d.confKind r n
  let b := (d.conf r n).block p.aux
  let s := addUnits kind (b.bytes kind) p.payload
  let b := { b.hold kind s.1 with count := b.count + p.con.count, src := keepSource b.src p }
  let b := if d.flag (cr Fld.CLU_CONF_RED_SCREEN r n) then
      { b with norms := b.norms ++ [(normOf p, p.con.origin, p.srcCore)] } else b
  let d := d.setBlock r n p.aux b
  let d := if s.2 then d.adderFault 3 r p else d
  if b.count = d.fld (cf Fld.CLU_CONF_CFG_EXPECTED r n) then d.deliverBlock r n p.aux false else d

/-- What answers a contribution registered at time t that the entry does not accept (R238), or none when it accepts it. -/
def Dev.contribCase (d : Dev) (r n t : Nat) (p : Packet) : Option (PType × Nat) :=
  let s := d.confStep r n
  let first := d.confFirst r n
  let b := (d.conf r n).block p.aux
  if p.step8 = (s + 1) % 256 then some (.busy, 0)
  else if p.step8 ≠ s % 256 then some (.bounce, 5)
  else if p.con.kind ≠ d.confKind r n || decide (p.aux < first) || decide (first + d.confBlocks r n ≤ p.aux) then
    some (.bounce, 0xA)
  else if b.done = 2 || (b.done = 0 && decide (d.confDue r n ≤ t)) then some (.bounce, 7)
  else if b.done = 1 || decide (d.fld (cf Fld.CLU_CONF_CFG_EXPECTED r n) < b.count + p.con.count) then some (.bounce, 8)
  else if b.count = 0 && decide (512 ≤ d.slotsUsed r) then some (.busy, 0) else none

/-- A CONTRIB at a gateway; it is late or on time by when the gateway's interface registered it (R240). -/
def contribPacket (node : Nat) (p : Packet) (d : Dev) : Dev :=
  d.consume node p fun d =>
    let t := d.regTime node p
    let d := d.take node p
    let r := node / 4
    if numLogical ≤ p.dstCore then d.error node p 0x81
    else match d.confOf r p.tag with
      | none => d.answer node p .bounce 6 []
      | some n => match d.contribCase r n t p with
        | some x => d.answer node p x.1 x.2 []
        | none => (d.answer node p .accept 0 []).addContrib r n p

/-! ### Deadlines, retries, opening (R240, R241) -/

/-- The contributions to an entry that its gateway registered before the deadline and has not taken yet. -/
def Dev.confOnTime (d : Dev) (r n : Nat) : List Packet :=
  (d.arrived.filter fun x => x.1 == 4 * r && x.2.p.ptype == .contrib && d.confOf r x.2.p.tag == some n &&
    decide (x.2.at_ < d.confDue r n)).map fun x => x.2.p
def Dev.confTake (d : Dev) (r n : Nat) : Dev := (d.confOnTime r n).foldl (fun d p => contribPacket (4 * r) p d) d

/-- Deliver every block not yet delivered, short; CONF_DEADLINE names how many (R240). -/
def Dev.confExpire (d : Dev) (r n : Nat) : Dev :=
  let due := (List.range (d.confBlocks r n)).filter fun i => ((d.conf r n).block (d.confFirst r n + i)).done == 0
  let first := d.confFirst r n
  let d := due.foldl (fun d i => d.deliverBlock r n (first + i) true) d
  (d.setFld (cf Fld.CLU_CONF_STATUS_SHORT r n) (min due.length 255)).event
    { code := 0x203, kind := 3, unit := r, idKind := 2, id := d.fld (cf Fld.CLU_CONF_CFG_TAG r n),
      detail := leBytes 2 due.length }

/-- The deadline of an OPEN entry: what came in time counts first. -/
def confDeadline (r n : Nat) (d : Dev) : Dev :=
  if d.confState r n = 1 && decide (d.confDue r n ≤ d.t) then
    let d := d.confTake r n
    if d.confState r n = 1 then d.confExpire r n else d
  else d

/-- Waiting writes and the waiting post of one core are tried again. -/
def postRetry (r n core : Nat) (d : Dev) : Dev :=
  let x := d.conf r n
  let ws := x.writes.filter fun w => w.1 == core
  let d := d.setConf r n { x with writes := x.writes.filter fun w => w.1 ≠ core }
  let d := ws.foldl (fun d w => d.confWrite r n core w.2.1 w.2.2.1 w.2.2.2) d
  let x := d.conf r n
  match x.posts.find? fun e => e.1 == core with
  | none => d
  | some e =>
    match d.post r n core e.2 with
    | (true, d) => let x := d.conf r n; d.setConf r n { x with posts := x.posts.erase e }
    | (false, d) => d

/-- At a step start tick an entry still OPEN meets its deadline, waiting posts are given up, and the entry opens, or closes when
ENABLE is 0 (R241). Sums that wait for a waking bank stay: they are still to be written. -/
def Dev.confOpen (d : Dev) (r n step start : Nat) : Dev :=
  let d := if d.confState r n = 1 then d.confTake r n else d
  let d := if d.confState r n = 1 then d.confExpire r n else d
  let d := (d.conf r n).posts.foldl (fun d e => d.confBounce r n e.1 (d.confFirst r n) 0) d
  if d.flag (cf Fld.CLU_CONF_CFG_ENABLE r n) then
    let d := (d.setConf r n { start, writes := (d.conf r n).writes }).setFld (cf Fld.CLU_CONF_CFG_STATE r n) 1
    d.setFld (cf Fld.CLU_CONF_STATUS_STEP r n) step
  else
    let d := d.setConf r n { writes := (d.conf r n).writes }
    if d.confState r n = 0 then d else d.setFld (cf Fld.CLU_CONF_CFG_STATE r n) 3

/-- CONTRIB (R238, R239). -/
def execContrib (node : Nat) (p : Packet) (s : State) : Host.Outcome State Fault Refusal :=
  onUnit (decide (node < 416) && node % 4 == 0) (contribPacket node p) s
/-- CONF_DEADLINE (R240). -/
def execConfDeadline (gw entry : Nat) (s : State) : Host.Outcome State Fault Refusal :=
  onUnit (decide (gw < numRouters) && decide (entry < 64)) (confDeadline gw entry) s
/-- DELIVERY_POST_RETRY (R241). -/
def execDeliveryPostRetry (gw entry core : Nat) (s : State) : Host.Outcome State Fault Refusal :=
  onUnit (decide (gw < numRouters) && decide (entry < 64)) (postRetry gw entry core) s

end Sys2Proof.Machine
end

