-- ==== Sys2Proof/Machine/Wire.lean ====
section
/-!
DEFINITION. What travels on the wire, byte by byte: the header and flits of a Race packet (07 R211, R212), the slots and frames of a
Ford port and their CRC-64 (09 R277–R279).
-/
namespace Sys2Proof.Machine

/-- A list of bytes cut or padded with zeros to n. -/
def fit (n : Nat) (l : List Byte) : List Byte := l.take n ++ List.replicate (n - l.length) 0

/-- The VC bit: that of the type, of a reserved type the packet's own. -/
def vcBit (p : Packet) : Nat := match p.ptype with | .reserved _ => b2n p.resp | t => vcOf t

/-- The 32 bytes of a packet header (07 R211). -/
def packetHeader (p : Packet) : List Byte :=
  let b := fun (lo v w : Nat) => v % 2 ^ w * 2 ^ lo
  let con := b 144 p.con.count 15 + b 159 p.con.kind 2 + b 161 (b2n p.con.mergeOk) 1 + b 162 (b2n p.con.merged) 1 + b 163 p.con.origin 14
  leBytes 32 (ptypeCode p.ptype % 256 + b 8 (vcBit p) 1 + b 9 p.epoch 2 + b 11 p.gen 2 + b 13 p.mc 2 + b 15 (b2n p.adapt) 1 +
    b 16 p.dst 9 + b 25 p.src 9 + b 34 p.mcLo 4 + b 38 p.mcHi 4 + b 42 p.payload.length 11 + b 53 (b2n p.rsvd) 1 + b 56 p.dstCore 14 + b 70 p.srcCore 14 +
    b 84 p.dstDev 14 + b 98 p.srcDev 14 + b 112 p.tag 12 + b 124 p.region 4 + b 128 p.txn 16 +
    (if p.ptype = .contrib then con else b 144 p.addr 48) + b 192 p.aux 32 + b 224 p.reason 8 + b 232 p.age 16 + b 248 p.step8 8)

/-- Flit i of a packet (R212): the header with the payload of a control packet, or 128 payload bytes. -/
def flitBytes (p : Packet) (i : Nat) : List Byte :=
  if i = 0 then packetHeader p ++ fit 96 (if p.payload.length ≤ 96 then p.payload else [])
  else fit 128 (slice p.payload (128 * (i - 1)) 128)

/-- A slot of 134 bytes: its header, then a body of 128 (R279). -/
def slotBytes (kind vc cls x : Nat) (body : List Byte) : List Byte :=
  leBytes 6 (kind + vc * 2 ^ 3 + cls * 2 ^ 4 + x * 2 ^ 8) ++ fit 128 body
/-- A link control slot (Table — Link control). -/
def ctrlBytes (ctrl : Nat) (body : List Byte) : List Byte := slotBytes 3 0 0 ctrl body

def slotWire : Slot → List Byte
  | .empty => slotBytes 0 0 0 0 []
  | .first vc cls n p => slotBytes 1 vc cls n (flitBytes p 0)
  | .following vc cls i p => slotBytes 2 vc cls 0 (flitBytes p i)
  | .keepalive n => ctrlBytes 1 (leBytes 8 n)
  | .resetNotice k t => ctrlBytes 2 (leBytes 8 k ++ leBytes 8 t)
  | .timeReq t1 e => ctrlBytes 3 (leBytes 8 t1 ++ leBytes 2 e)
  | .timeRsp t1 t2 t3 e => ctrlBytes 4 (leBytes 8 t1 ++ leBytes 8 t2 ++ leBytes 8 t3 ++ leBytes 2 e)
  | .ident i => ctrlBytes 5 (leBytes 2 (i.devId % 2 ^ 14 + b2n i.valid * 2 ^ 15) ++ leBytes 1 i.port ++ leBytes 13 0 ++
      fit 16 i.nonce ++ fit 32 i.fingerprint)
  | .key i b => ctrlBytes (6 + i) b
  | .proof i b => ctrlBytes (9 + i) b
  | .reserved => slotBytes 4 0 0 0 []

/-- Bytes 0–2,561 of a frame: header and 19 slots, those past its last one empty (R277, R278). -/
def frameBody (f : Frame) : List Byte :=
  leBytes 2 f.seq ++ leBytes 2 f.ack ++ leBytes 1 (f.fkind % 4 + 4 * b2n f.nak) ++
  leBytes 6 (((f.credits.take 4).map (· % 4096)).foldr (fun c a => c + 4096 * a) 0) ++ leBytes 1 0 ++ leBytes 4 f.session ++
  (List.range 19).flatMap fun i => slotWire (f.slots.getD i .empty)
/-- The CRC-64 a frame carries in bytes 2,562–2,569 (R277). -/
def frameSum (f : Frame) : Word := crc64 polyEcma (frameBody f)
/-- The 2,570 bytes of a frame. -/
def frameBytes (f : Frame) : List Byte := frameBody f ++ leBytes 8 f.crc.toNat
/-- A frame with its CRC-64, as a port transmits it. -/
def frameSeal (f : Frame) : Frame := { f with crc := frameSum f }
/-- A port transmits a frame. -/
def Dev.emitFrame (d : Dev) (p : Nat) (f : Frame) : Dev := d.emit (.frame p (frameSeal f))

end Sys2Proof.Machine
end

