-- ==== Sys2Proof/Machine/Ford.lean ====
section
/-!
DEFINITION. Ford ports (09 R274–R301): frames, retry, credits, routing between devices, training, peers, loss of a link, fabric
time.
-/
namespace Sys2Proof.Machine

/-! ### State of a port -/

def Dev.pfld (d : Dev) (f : Fld) (p : Nat) : Nat := d.fld (f.at (fordBase p))
def Dev.setPfld (d : Dev) (f : Fld) (p v : Nat) : Dev := d.setFld (f.at (fordBase p)) v
/-- 0 DISABLED, 1 TRAINING, 2 UP, 3 DOWN, 4 ISOLATED (Table — Port states). -/
def Dev.portState (d : Dev) (p : Nat) : Nat := d.pfld Fld.FORD_STATE_STATE p
/-- A link is up: UP or ISOLATED. -/
def Dev.linked (d : Dev) (p : Nat) : Bool := d.portState p == 2 || d.portState p == 4
def Port.credit (x : Port) (key : Nat) : Nat := NMap.get 2048 x.credits key
def Port.pool (x : Port) (key : Nat) : List QPkt := NMap.get [] x.pools key
def Port.queue (x : Port) (key : Nat) : List QPkt := NMap.get [] x.tx key
def Dev.modPort (d : Dev) (p : Nat) (f : Port → Port) : Dev := d.setPort p (f (d.port p))
/-- A link control slot to send. -/
def Dev.sendCtrl (d : Dev) (p : Nat) (c : Slot) : Dev := d.modPort p fun x => { x with ctrl := x.ctrl ++ [c] }

/-! ### Fabric time sources (R298–R300) -/

/-- The source of fabric time is lost (R300). -/
def Dev.holdover (d : Dev) : Dev :=
  if d.fld Fld.FT_SOURCE_SOURCE = 0x1F || d.flag Fld.FT_STATUS_HOLDOVER then d
  else ((d.setFld Fld.FT_STATUS_HOLDOVER 1).setFld Fld.FT_STATUS_LOCKED 0).event { code := 0x402, kind := 0x24 }

/-- An offset from the source of this device's time (R300, R375, R425): before the device first leaves TRAIN after a cold reset it steps
forward once, after that it slews. -/
def Dev.offsetFrom (d : Dev) (offset : Int) (bound : Nat) : Dev :=
  let early := !d.flag Fld.FT_STATUS_VALID && !d.cob.trained
  let d := d.setFld Fld.FT_STATUS_OFFSET (wrap 32 offset)
  let d := (d.setFld Fld.FT_STATUS_HOLDOVER 0).setFld Fld.FT_STATUS_ERR_BOUND (min bound (2 ^ 16 - 1))
  let d :=
    if early && decide (offset ≤ 0) then
      ({ d with now := BitVec.ofNat 64 (d.t + (-offset).toNat), slew := 0 } : Dev).setFld Fld.FT_STATUS_VALID 1
    else { d with slew := -offset }
  let rest : Int := if early && decide (offset ≤ 0) then 0 else offset
  let d := d.setFld Fld.FT_STATUS_LOCKED (b2n (decide (rest.natAbs < 100)))
  if rest.natAbs ≤ 1000 then d.setFld Fld.FT_STATUS_IN_SPEC 1
  else (d.setFld Fld.FT_STATUS_IN_SPEC 0).event { code := 0x403, kind := 0x24, detail := leBytes 4 (wrap 32 offset) }

/-! ### Going down (R296) -/

/-- Packets a port has to send or has sent and not had acknowledged, each once: one whose first flit is in a frame kept for retry is
counted there. -/
def Port.unsent (x : Port) : List Packet :=
  let kept := x.retry.flatMap fun f => f.slots.filterMap fun s => match s with | .first _ _ _ q => some q | _ => none
  kept ++ (List.range 4).flatMap (fun key => (x.queue key).map QPkt.p) ++
  ((x.txPart.toList.map fun y => y.2.2).filter fun q => !kept.contains q)
/-- Packets a port has received and not passed on. -/
def Port.received (x : Port) : List Packet :=
  (List.range 4).flatMap (fun key => (x.pool key).map QPkt.p) ++ (x.part.toList.map fun y => y.2.2)

/-- A port discards a packet (R296): a request that expects an answer draws `link_down`, another packet counts in DOWN_DISCARDS. The
inputs of a packet the port itself merged are answered through its entry (R224). -/
def Dev.portDiscards (d : Dev) (p : Nat) (q : Packet) : Dev :=
  let x := d.port p
  match (if q.src = portNode p && q.srcDev = d.devId && q.con.merged then NMap.get none x.merges q.txn else none) with
  | some m =>
    m.ins.foldl (fun d y => d.inject (portNode p) (mergeCopy (answerTo q .error 0x8C []) y))
      (d.setPort p { x with merges := NMap.set none x.merges q.txn none })
  | none => d.portRefuses p q

/-- A port loses what it holds. -/
def Dev.fordDrop (d : Dev) (p : Nat) : Dev :=
  let x := d.port p
  let d := d.setPort p { x with retry := [], replay := [], resent := 0, pools := [], tx := [], txPart := none, part := none,
                                ctrl := [], credits := [], give := [], pend := [], nak := 0 }
  (x.unsent ++ x.received).foldl (fun d q => d.portDiscards p q) d

/-- A frame kept for retry without its Race flits. -/
def Frame.ctrlOnly (f : Frame) : Frame :=
  { f with slots := f.slots.map fun s => match s with | .first _ _ _ _ => .empty | .following _ _ _ _ => .empty | s => s }
/-- An UP port becomes ISOLATED (R293, R330, R383): from then on it carries link control only, and what it had to send is treated as
assigned to an ISOLATED port. -/
def Dev.isolate (d : Dev) (p : Nat) : Dev :=
  let x := d.port p
  let d := d.setPort p { x with retry := x.retry.map Frame.ctrlOnly, replay := x.replay.map Frame.ctrlOnly, tx := [], txPart := none }
  x.unsent.foldl (fun d q => d.portDiscards p q) (d.setPfld Fld.FORD_STATE_STATE p 4)

/-- A port goes to state `st` for a reason: its session ends, FORD_DOWN is raised, a step in progress is incomplete (R296, R317). -/
def Dev.portDown (d : Dev) (p st reason : Nat) : Dev :=
  let was := d.linked p
  let d := ((d.setPfld Fld.FORD_STATE_STATE p st).setPfld Fld.FORD_STATE_DOWN_REASON p reason).setPfld Fld.FORD_STATE_WIDTH p 0
  let d := ((d.setPfld Fld.FORD_STATE_PHASE p 0).setPfld Fld.FORD_STATE_SESSION p 0).setPfld Fld.FORD_LANES_ACTIVE p 0
  let d := (d.fordDrop p).modPort p fun x => { x with downAt := d.t }
  let d := d.event { code := 0x400, kind := 9, unit := p, detail := leBytes 1 reason }
  let d := if was && d.fld Fld.FT_SOURCE_SOURCE == p then d.holdover else d
  let d := if [3, 4, 5, 9].contains reason then d.wantTest 9 p 0 0 else d
  d.incomplete 2

/-- A port that goes DOWN. -/
def Dev.fordFails (d : Dev) (p reason : Nat) : Dev := if d.portState p = 3 || d.portState p = 0 then d else d.portDown p 3 reason

/-! ### Digests (R328) -/

/-- Count a packet's payload in one direction's digest of its step: `tx` 080h or 090h is the bank's register. -/
def Dev.fordDigest (d : Dev) (p bank : Nat) (q : Packet) : Dev :=
  let s := d.stepNo
  let count := fun (step : Nat) =>
    let o := fordBase p + bank + 8 * (step % 2)
    d.setReg o (~~~ (crc64Run polyEcma (~~~ (d.reg o)) q.payload))
  if q.step8 = s % 256 then count s
  else if 0 < s && q.step8 = (s - 1) % 256 then count (s - 1)
  else d.addFld (Fld.FORD_DIGEST_STEP_STRAY.at (fordBase p)) 1

/-! ### Sending frames (R277–R279, R282, R284) -/

/-- Flits of the packet in hand that fit into n slots, as slots, and what is left of it. -/
def Port.flits (x : Port) (n : Nat) : List Slot × Port :=
  match x.txPart with
  | none => ([], x)
  | some (key, left, q) =>
    let m := min n left
    let all := flitsOf q
    let slots := (List.range m).map fun i =>
      if left = all && i = 0 then Slot.first (key / 2) (key % 2) all q
      else Slot.following (key / 2) (key % 2) (all - left + i) q
    (slots, { x with txPart := if m = left then none else some (key, left - m, q) })

/-- The next packet to start: the first of a pool whose credits cover all its flits, responses first. Queues are in order of arrival,
and a long-held packet's AGE is rewritten (R209). -/
def Dev.portStart (d : Dev) (x : Port) : Option (Packet × Port) :=
  [2, 3, 0, 1].findSome? fun key =>
    match x.queue key with
    | y :: rest =>
      let n := flitsOf y.p
      if n ≤ x.credit key then
        some (d.aged y, { x with tx := NMap.set [] x.tx key rest, credits := NMap.set 2048 x.credits key (x.credit key - n),
                                 txPart := some (key, n, d.aged y) })
      else none
    | [] => none

/-- Fill n slots with flits; the packets started are counted in the transmit digest. -/
def fillSlots (p : Nat) : Nat → Nat → Dev → List Slot × Dev
  | 0, _, d => ([], d)
  | f + 1, n, d =>
    if n = 0 then ([], d)
    else
      let x := d.port p
      match x.txPart with
      | some _ =>
        let r := x.flits n
        let y := fillSlots p f (n - r.1.length) (d.setPort p r.2)
        (r.1 ++ y.1, y.2)
      | none =>
        match d.portStart x with
        | some (q, x) => fillSlots p f n ((d.setPort p x).fordDigest p 0x80 q)
        | none => ([], d)

/-- A link control slot as it leaves: TIME_REQ and TIME_RSP are stamped (R299). -/
def Dev.stampCtrl (d : Dev) (c : Slot) : Slot :=
  match c with
  | .timeReq _ e => .timeReq d.t e
  | .timeRsp t1 t2 _ e => .timeRsp t1 t2 d.t e
  | c => c

/-- A replayed frame: link control of time exchanges leaves an empty slot (R299). -/
def replaySlot (c : Slot) : Slot :=
  match c with
  | .timeReq _ _ => .empty
  | .timeRsp _ _ _ _ => .empty
  | c => c

/-- The exchanges that a replayed frame abandons. -/
def Port.abandon (x : Port) (ss : List Slot) : Port :=
  ss.foldl (fun x c => match c with | .timeReq _ e => { x with pend := NMap.set 0 x.pend e 0 } | _ => x) x

/-- Credits that fit one frame, lowest pool first, taken from those to return. -/
def Port.returns (x : Port) : List Nat × Port :=
  let now := (List.range 4).map fun key => min (NMap.get 0 x.give key) 4095
  (now, { x with give := (List.range 4).foldl (fun g key => NMap.set 0 g key (NMap.get 0 x.give key - now.getD key 0)) x.give })

/-- A kept frame goes out again; the eighth resend of one SEQ in a row takes the port DOWN (R282, R283). -/
def resendFrame (p : Nat) (f : Frame) (rest : List Frame) (d : Dev) : Dev :=
  let x := d.port p
  let oldest := (x.retry.head?.map Frame.seq) == some f.seq
  let n := if oldest then x.resent + 1 else x.resent
  let g := { f with ack := x.ack, nak := x.nak == 1, slots := f.slots.map replaySlot }
  let kept := x.retry.map fun y => if y.seq = f.seq then { y with slots := y.slots.map replaySlot } else y
  let x := { (x.abandon f.slots) with replay := rest, resent := n, nak := if x.nak = 1 then 2 else x.nak, retry := kept }
  let d := ((d.setPort p x).addFld (Fld.FORD_RETRY_REPLAYS.at (fordBase p)) 1).tally 0x301 9 p 0 1
  let d := d.emitFrame p g
  if n ≥ 8 then d.fordFails p 9 else d

/-- A fresh frame: link control, then flits of packets when the port is UP and the retry buffer has room. -/
def newFrame (p : Nat) (d : Dev) : Dev :=
  let x := d.port p
  let ctrl := (x.ctrl.take 19).map d.stampCtrl
  let pend := ctrl.foldl (fun m c => match c with | .timeReq t e => NMap.set 0 m e (t + 1) | _ => m) x.pend
  let d := d.setPort p { x with ctrl := x.ctrl.drop 19, pend }
  let data := d.portUp p && decide (x.retry.length < 128)
  let y := if data then fillSlots p 64 (19 - ctrl.length) d else ([], d)
  let d := y.2
  let kind := if y.1.isEmpty then 1 else 0
  let r := (d.port p).returns
  let x := r.2
  let f : Frame := { seq := x.seq, ack := x.ack, fkind := kind, nak := x.nak == 1, credits := r.1,
                     session := d.pfld Fld.FORD_STATE_SESSION p, slots := ctrl ++ y.1 }
  let x := { x with nak := if x.nak = 1 then 2 else x.nak }
  let x := if kind = 0 then { x with seq := (x.seq + 1) % 2 ^ 16, retry := x.retry ++ [f],
                                     ackAt := if x.retry.isEmpty then d.t else x.ackAt } else x
  let d := (d.setPort p x).emitFrame p f
  if kind = 0 then d.tally 0x300 9 p 0 1 else d

/-- A frame time: a frame to resend, a new frame, or a training frame (R277, R278, R282, R290). -/
def frameSend (p : Nat) (d : Dev) : Dev :=
  let x := d.port p
  if d.captured 9 p then d
  else if d.linked p then
    match x.replay with
    | f :: rest => resendFrame p f rest d
    | [] => newFrame p d
  else if d.portState p = 1 then
    (d.setPort p { x with ctrl := x.ctrl.drop 19 }).emitFrame p { seq := x.seq, ack := x.ack, fkind := 2, session := 0, slots := x.ctrl.take 19 }
  else d

/-! ### Receiving frames (R276, R279, R281, R282) -/

/-- TIME_REQ received: stamped and to be answered (R299). -/
def takeReq (p t1 exch : Nat) (d : Dev) : Dev :=
  if d.linked p then d.sendCtrl p (.timeRsp t1 d.t 0 exch) else d

/-- Delays in rising order. -/
def insertInt (x : Int) : List Int → List Int
  | [] => [x]
  | y :: l => if x ≤ y then x :: y :: l else y :: insertInt x l

/-- The middle of the last delays: the mean of the two middle ones of an even number, toward zero (log 23). -/
def median (l : List Int) : Int :=
  let s := l.foldr insertInt []
  let n := s.length
  if n = 0 then 0 else if n % 2 = 1 then s.getD (n / 2) 0 else (s.getD (n / 2 - 1) 0 + s.getD (n / 2) 0).tdiv 2

/-- A TIME_RSP completes an exchange (R299): delay and offset, and for the device's source its effect on fabric time; `bound` is the
peer's ERR_BOUND. -/
def takeRsp (p t1 t2 t3 exch bound : Nat) (d : Dev) : Dev :=
  let x := d.port p
  if !d.linked p || NMap.get 0 x.pend exch ≠ t1 + 1 then d
  else
    let t4 := d.t
    let delay := (((t4 : Int) - t1) - ((t3 : Int) - t2)).tdiv 2
    let offset := (((t1 : Int) - t2) + ((t4 : Int) - t3)).tdiv 2
    let ds := (x.delays ++ [delay]).drop (x.delays.length + 1 - 8)
    let d := d.setPort p { x with pend := NMap.set 0 x.pend exch 0, delays := ds }
    let d := (d.setPfld Fld.FORD_DELAY_DELAY p (wrap 32 (median ds))).setPfld Fld.FORD_DELAY_OFFSET p (wrap 32 offset)
    if d.fld Fld.FT_SOURCE_SOURCE = p then d.offsetFrom offset (bound + 8) else d

/-- A whole packet has come, its byte parity made anew (R281): into its receive pool, counted in the receive digest; an ISOLATED port,
or a flex port that serves no direction, carries none (R275, R293). -/
def poolIn (p key : Nat) (q : Packet) (d : Dev) : Dev :=
  let q := { q with badPar := [] }
  if d.portUp p then
    ((d.modPort p fun x => { x with pools := NMap.set [] x.pools key (x.pool key ++ [{ p := q, at_ := d.t }]) }).fordDigest p 0x90 q).tally
      0x303 9 p 0 (flitsOf q)
  else (d.modPort p fun x => { x with give := NMap.set 0 x.give key (NMap.get 0 x.give key + flitsOf q) }).addFld
    (Fld.FORD_RETRY_DOWN_DISCARDS.at (fordBase p)) 1

/-- One slot of an accepted frame. -/
def takeSlot (p : Nat) (d : Dev) (c : Slot) : Dev :=
  match c with
  | .first vc cls n q =>
    let key := 2 * vc + cls
    if n ≤ 1 then poolIn p key q d else d.modPort p fun x => { x with part := some (key, n - 1, q) }
  | .following _ _ _ _ =>
    match (d.port p).part with
    | some (key, left, q) =>
      if left ≤ 1 then poolIn p key q (d.modPort p fun x => { x with part := none })
      else d.modPort p fun x => { x with part := some (key, left - 1, q) }
    | none => d
  | .keepalive _ => d.modPort p fun x => { x with keepAt := d.t }
  | .resetNotice _ _ => d.fordFails p 8
  | .timeReq t1 e => takeReq p t1 e d
  | .timeRsp t1 t2 t3 e => takeRsp p t1 t2 t3 e (Config.peerBound d.fresh).toNat { d with fresh := d.fresh + 1 }
  | _ => d

/-- ACK, NAK and credits of a good frame. -/
def takeHeader (p : Nat) (f : Frame) (d : Dev) : Dev :=
  d.modPort p fun x =>
    let x := if x.retry.any fun y => y.seq == f.ack then
        { x with retry := (x.retry.dropWhile fun y => y.seq ≠ f.ack).drop 1, resent := 0, ackAt := d.t,
                 replay := x.replay.filter fun y => ((x.retry.dropWhile fun z => z.seq ≠ f.ack).drop 1).any fun z => z.seq == y.seq }
      else x
    let x := if f.nak then { x with replay := x.retry } else x
    { x with credits := (List.range 4).foldl (fun m key => NMap.set 2048 m key (NMap.get 2048 m key + f.credits.getD key 0)) x.credits }

/-- A frame is received (R276, R282): after a NAK every frame is discarded until SEQ is ACK + 1 again. -/
def frameReceive (p : Nat) (f : Frame) (d : Dev) : Dev :=
  if !d.linked p then d
  else
    let b := fordBase p
    let d := ((d.addFld (Fld.FORD_LINK_ERR_FEC_CORRECTED.at b) f.corrected).tally 0x302 9 p 0 f.corrected).addFld
      (Fld.FORD_LINK_ERR_FEC_UNCORR.at b) f.uncorr
    let d := d.modPort p fun x => { x with unlocked := if f.fecOk then 0 else x.unlocked + 1 }
    let d := if f.fecOk && f.crc ≠ frameSum f then d.addFld (Fld.FORD_LINK_ERR_CRC_FAIL.at b) 1 else d
    if (d.port p).unlocked ≥ 4 then d.fordFails p 4
    else
      let x := d.port p
      let good := f.fecOk && f.crc == frameSum f && f.session == d.pfld Fld.FORD_STATE_SESSION p
      let next := f.seq == (x.ack + 1) % 2 ^ 16
      if f.fkind = 2 || (f.fkind ≠ 0 && (!good || (x.nak ≠ 0 && !next))) then d
      else if f.fkind = 0 && !(good && next) then
        if x.nak = 0 then (d.setPort p { x with nak := 1 }).addFld (Fld.FORD_RETRY_NAKS.at b) 1 else d
      else
        let d := if f.fkind = 0 then d.setPort p { x with ack := f.seq, nak := 0 } else d
        (f.slots.take 19).foldl (takeSlot p) (takeHeader p f d)

/-- ACK has not advanced for 2 µs: resend from the oldest unacknowledged frame (R282). -/
def retryTimeout (p : Nat) (d : Dev) : Dev :=
  let x := d.port p
  if d.linked p && !x.retry.isEmpty && decide (x.ackAt + 2000 ≤ d.t) then d.setPort p { x with replay := x.retry, ackAt := d.t } else d

/-! ### Packets between devices (R284–R289) -/

/-- The direction a port serves (R274, R275): a flex port the one whose active mask has it. -/
def Dev.portDir (d : Dev) (p : Nat) : Option Nat :=
  if p < 18 then some (p / 3) else (List.range 6).find? fun dir => (d.dirPorts dir).contains p

/-- A packet leaves a receive pool, its credits to be returned. -/
def poolOut (p cls : Nat) (q : Packet) (d : Dev) : Dev :=
  let key := 2 * vcOf q.ptype + cls
  d.modPort p fun x =>
    match takeFirst (fun y : QPkt => y.p == q) (x.pool key) with
    | some r => { x with pools := NMap.set [] x.pools key r.2, give := NMap.set 0 x.give key (NMap.get 0 x.give key + flitsOf q) }
    | none => x

/-- A packet in a receive pool, with the time of its arrival: now for one that has just come. -/
def Dev.pooled (d : Dev) (p cls : Nat) (q : Packet) : QPkt :=
  (((d.port p).pool (2 * vcOf q.ptype + cls)).find? fun y => y.p == q).getD { p := q, at_ := d.t }
/-- A long-held packet that came before it into the pool goes first, unless it is of an epoch still to come (R209). -/
def Dev.poolTurn (d : Dev) (p cls : Nat) (q : Packet) : Bool :=
  !((d.port p).pool (2 * vcOf q.ptype + cls)).any fun y =>
    y.p ≠ q && d.longHeld y && decide (y.at_ < (d.pooled p cls q).at_) && d.age2 y.p.epoch ≠ 3

/-- A core id that names no core, 3FFFh apart (R18). -/
def noCore (id : Nat) : Bool := decide (numLogical ≤ id) && id ≠ 0x3FFF

/-- A request that the Race's mode does not carry: one issued in the present epoch by a unit that may not (R221). -/
def Dev.modeRefuses (d : Dev) (q : Packet) : Bool := d.age2 q.epoch == 0 && !d.mayInject q.src q.ptype

/-- Deliver a packet on this device: DST_NODE is the gateway of DST_CORE's cluster under the map of the packet's epoch, or as sent when
DST_CORE is 3FFFh (R22, R286). -/
def fordDeliver (p : Nat) (q : Packet) (d : Dev) : Dev :=
  let n := portNode p
  if noCore q.dstCore then d.error n q 0x81
  else
    let node := if q.dstCore = 0x3FFF then q.dst else 4 * routerOf ((d.mapAt q.epoch).toPhys q.dstCore)
    d.send n .asIs { q with dst := if isResponse q.ptype then q.dst else node, dstDev := d.devId, cls := 0, mc := if q.mc ≥ 4 then 0 else q.mc }

/-- Pass a packet on toward the port of its next hop, in its class within the same dimension, its header as it came (R280, R284,
R285). -/
def fordPass (p cls : Nat) (q : Packet) (d : Dev) : Dev :=
  let same := match d.portDir p, d.dirOf q with | some x, some y => x / 2 == y.1 / 2 | _, _ => false
  match d.exitPort q with
  | some _ => d.send (portNode p) .asIs { q with cls := if same then cls else 0 }
  | none => d.portRefuses p q

/-- Flits that wait in a port's transmit queue. -/
def Port.queuedTx (x : Port) (key : Nat) : Nat := ((x.queue key).map fun y => flitsOf y.p).foldl (· + ·) 0
/-- The port a packet is passed on to has room for all of it in the transmit queue of its pool (R286); the queue's length is free. -/
def Dev.roomToPass (d : Dev) (q : Packet) : Bool :=
  match d.exitPort q with
  | some o => decide ((d.port o).queuedTx (2 * vcOf q.ptype + d.exitClass q) + flitsOf q ≤ Config.fordTx)
  | none => true

/-- The devices of this packet: whether it is for this one, and whether it goes on (R286, R288). -/
def Dev.forHere (d : Dev) (q : Packet) : Bool :=
  if q.mc ≥ 4 then let c := d.coord (q.mc - 4); decide (q.mcLo ≤ c) && decide (c ≤ q.mcHi) else q.dstDev == d.devId
def Dev.goesOn (d : Dev) (q : Packet) : Bool := q.dstDev ≠ d.devId

/-- A port takes a packet from its pool (R286, R288): held an epoch ahead, discarded two epochs away, else delivered here or
passed on once the regulator of its slot and the next port's queue have room; a torus line multicast leaves a copy at each device
of its span. -/
def packetReceive (p cls : Nat) (q : Packet) (d : Dev) : Dev :=
  let n := portNode p
  let key := 2 * vcOf q.ptype + cls
  match d.age2 q.epoch with
  | 3 =>
    if ((d.port p).pool key).any fun y => y.p == q then d
    else d.modPort p fun x => { x with pools := NMap.set [] x.pools key (x.pool key ++ [{ p := q, at_ := d.t }]) }
  | 2 => (poolOut p cls q d).errorAny n q 0x88
  | _ =>
    if d.modeRefuses q then (poolOut p cls q d).error n q 0x89
    else if !d.poolTurn p cls q || !(d.toSend n (vcOf q.ptype)).isEmpty || !d.admits n q || (d.goesOn q && !d.roomToPass q) then d
    else
      let x := d.aged (d.pooled p cls q)
      let d := poolOut p cls q d
      let d := if d.forHere q then fordDeliver p x d else d
      if d.goesOn q then fordPass p cls x d else d

/-- A sending port merges two contributions that wait in one transmit pool (R289). -/
def portMerge (p : Nat) (d : Dev) : Dev :=
  let x := d.port p
  let pair := (List.range 4).findSome? fun key => (mergePair ((x.queue key).map fun y => (key, y))).map fun r => (key, r.1.2, r.2.2)
  if d.fld Fld.COB_RACE_STATUS_SERVICE ≠ 1 then d
  else match pair, freeMerge x.merges with
    | some (key, a, b), some entry =>
      let m := mergePackets (portNode p) d.devId entry a.p b.p
      let q := ((x.queue key).erase b).map fun y => if y = a then { a with p := m.1 } else y
      let d := d.setPort p { x with tx := NMap.set [] x.tx key q,
                                    merges := NMap.set none x.merges entry (some ⟨[mergeIn a.p, mergeIn b.p]⟩) }
      if m.2 then d.adderFault 9 p a.p else d
    | _, _ => d

/-! ### Training (R290–R293, R297) -/

/-- The fault records in force: fuse map, ledger, and faults that the full ledger could not take (11 R337, R338). -/
def Dev.records (d : Dev) : List Defect := fuses ++ d.heal.field ++ d.heal.unwritten
/-- A record names a unit. -/
def Dev.recorded (d : Dev) (kind unit : Nat) : Bool := d.records.any fun r => r.kind == kind && r.unit == unit
/-- A port with a record stays DISABLED (11 R335; 12 R374). -/
def Dev.portOut (d : Dev) (p : Nat) : Bool := d.recorded 9 p
/-- The lanes of a port that its training leaves out: those with a record (11 R335). -/
def Dev.lanesOut (d : Dev) (p : Nat) : Nat :=
  (List.range 8).foldl (fun a i => if d.records.any fun r => r.kind == 8 && r.unit == p && r.sub == i then a + 2 ^ i else a) 0

/-- A port enters TRAINING at DETECT. -/
def Dev.trainStart (d : Dev) (p : Nat) : Dev :=
  let d := ((d.setPfld Fld.FORD_STATE_STATE p 1).setPfld Fld.FORD_STATE_PHASE p 1).setPfld Fld.FORD_STATE_WIDTH p 0
  let d := ((d.addFld (Fld.FORD_STATE_TRAIN_COUNT.at (fordBase p)) 1).setPfld Fld.FORD_PEER_PROOF_OK p 0).setPfld Fld.FORD_LANES_ACTIVE p 0
  d.modPort p fun x => { x with phaseAt := d.t, ctrl := [], seen := none, seq := 0, ack := 0xFFFF, nak := 0 }

/-- The fast path: FAST_PATH 1 and saved settings (R290). -/
def Dev.fastPath (d : Dev) (p : Nat) : Bool := d.pfld Fld.FORD_CTRL_FAST_PATH p == 1 && d.pfld Fld.FORD_SAVED_VALID p == 1

/-- The body of this device's IDENT (Table — Link control). -/
def identBody (i : Ident) : List Byte :=
  leBytes 2 (i.devId + if i.valid then 2 ^ 15 else 0) ++ leBytes 1 i.port ++ leBytes 13 0 ++ i.nonce.take 16 ++
  i.fingerprint.take 32 ++ leBytes 64 0

/-- What this device sends of itself on a port (R292). -/
def Dev.ownIdent (d : Dev) (p : Nat) (proof : List Byte) : Ident :=
  { devId := d.devId, valid := bit (d.reg 0x18) 63, port := p, nonce := (d.port p).nonce, modulus := Config.modulus, proof,
    fingerprint := (List.range 4).flatMap fun i => leBytes 8 (d.reg (0x0D000000 + 8 * i)).toNat }

/-- Three slots of 128 bytes. -/
def inThree (bs : List Byte) (f : Nat → List Byte → Slot) : List Slot := (List.range 3).map fun i => f i (slice bs (128 * i) 128)

/-- INIT begins: a nonce, the own IDENT and KEY0–KEY2 (R292). -/
def Dev.initPhase (d : Dev) (p : Nat) : Dev :=
  let d := { d.modPort p fun x => { x with nonce := Config.nonce d.fresh } with fresh := d.fresh + 1 }
  let own := d.ownIdent p []
  (Slot.ident { own with modulus := [] } :: inThree own.modulus Slot.key).foldl (fun d c => d.sendCtrl p c) d

/-- The own PROOF0–PROOF2: the signature over the peer's nonce and the body of the own IDENT (R292). -/
def Dev.sendProof (d : Dev) (p : Nat) (i : Ident) : Dev :=
  (inThree (Config.sign (sha256 (i.nonce.take 16 ++ identBody (d.ownIdent p [])))) Slot.proof).foldl (fun d c => d.sendCtrl p c) d

/-- A port takes its width: the lanes of R291. -/
def widthOf (pass : Nat) : Option (Nat × Nat × Nat) :=
  if pass = 0xFF then some (8, 0, 0xFF) else if pass % 16 = 15 then some (4, 0, 0x0F) else if pass / 16 = 15 then some (4, 1, 0xF0)
  else none

/-- Whether the peer seen is the one recorded (R293): id or port, and fingerprint. -/
def Port.sameId (x : Port) (i : Ident) : Bool := match x.peer with | some r => r.devId == i.devId && r.port == i.port | none => true
def Port.sameKey (x : Port) (i : Ident) : Bool := match x.peer with | some r => r.key == i.fingerprint | none => true

/-- A peer's device id, port and fingerprint in an event: the fingerprint by its first 8 bytes, DETAIL having no room for it (DESIGN
CHOICE, log 92). -/
def peerBytes (devId port : Nat) (key : List Byte) : List Byte :=
  leBytes 2 devId ++ leBytes 2 port ++ (key ++ List.replicate 8 0).take 8

/-- Training ends at UP, or at ISOLATED for a peer that changed, an expelled device or one in SAFE (R293, R330, R383); a cold
training that reaches UP saves its settings (R290, R372). WIDTH stands from here on (Table of FORD_STATE). -/
def Dev.portReady (d : Dev) (p : Nat) (i : Ident) : Dev :=
  let x := d.port p
  let idOk := x.sameId i; let keyOk := x.sameKey i
  let apart := !idOk || !keyOk || d.flag Fld.COB_STEP_CMD_EXPEL || d.fld Fld.COB_BRINGUP_STATE == 7
  let cold := !d.fastPath p
  let width := match widthOf (d.pfld Fld.FORD_LANES_PASS p) with | some w => w.1 | none => 0
  let d := (d.setPfld Fld.FORD_STATE_STATE p (if apart then 4 else 2)).setPfld Fld.FORD_STATE_PHASE p 0
  let d := (d.setPfld Fld.FORD_STATE_DOWN_REASON p 0).setPfld Fld.FORD_STATE_WIDTH p width
  let d := d.setPort p { x with seq := 0, ack := 0xFFFF, nak := 0, resent := 0, credits := [], give := [], keepAt := d.t, ackAt := d.t,
                                unlocked := 0, delays := [], changed := !idOk || !keyOk,
                                expelled := d.flag Fld.COB_STEP_CMD_EXPEL }
  let d := if cold && !apart then (d.setPfld Fld.FORD_SAVED_VALID p 1).setPfld Fld.FORD_SAVED_SAVED_TIME p (d.t % 2 ^ 63) else d
  if idOk && keyOk then d
  else
    let d := if idOk then d else d.latch (Fld.FORD_PEER_ID_CHANGED.at (fordBase p))
    let d := if keyOk then d else d.latch (Fld.FORD_PEER_KEY_CHANGED.at (fordBase p))
    let old := match x.peer with | some r => peerBytes r.devId r.port r.key | none => peerBytes 0 0 []
    d.event { code := 0x401, kind := 9, unit := p, detail := old ++ peerBytes i.devId i.port i.fingerprint }

/-- A phase of training ends with the lanes that passed it and, for MARGIN, their margins (R290–R292). -/
def phaseEnd (p lanes : Nat) (margins : List Nat) (d : Dev) : Dev :=
  if d.portState p ≠ 1 then d
  else
    let ph := d.pfld Fld.FORD_STATE_PHASE p
    let pass := d.pfld Fld.FORD_LANES_PASS p
    let next := fun (d : Dev) (n : Nat) => (d.setPfld Fld.FORD_STATE_PHASE p n).modPort p fun x => { x with phaseAt := d.t }
    match ph with
    | 1 => next (d.setPfld Fld.FORD_LANES_PASS p (0xFF - d.lanesOut p)) (if d.fastPath p then 3 else 2)
    | 2 => next (d.setPfld Fld.FORD_LANES_PASS p (pass &&& lanes)) 3
    | 3 =>
      let min8 := d.pfld Fld.FORD_CTRL_MARGIN_MIN p
      let ok := (List.range 8).foldl (fun a i => if min8 ≤ margins.getD i 0 then a + 2 ^ i else a) 0
      let d := (List.range 8).foldl (fun d i => d.setFld ⟨fordBase p + 0x18, 8 * i + 7, 8 * i⟩ (min (margins.getD i 0) 255)) d
      next (d.setPfld Fld.FORD_LANES_PASS p (pass &&& lanes &&& ok)) 4
    | 4 => next (d.setPfld Fld.FORD_LANES_PASS p (pass &&& lanes)) 5
    | 5 =>
      match widthOf pass with
      | some (_, g, act) =>
        let d := (d.setPfld Fld.FORD_STATE_LANE_GROUP p g).setPfld Fld.FORD_LANES_ACTIVE p act
        (next d 6).initPhase p
      | none => d.fordFails p 5
    | _ =>
      match (d.port p).seen with
      | some i => if d.pfld Fld.FORD_PEER_PROOF_OK p = 1 then d.portReady p i else d.fordFails p 6
      | none => d.fordFails p 6

/-- The limit of each phase in ms (Table — Training phases). -/
def phaseLimit (ph : Nat) : Nat := match ph with | 1 => 10 | 2 => 300 | 3 => 20 | 4 => 5 | 5 => 1 | _ => 5

/-- A phase overruns: the DOWN reason is the phase's own (R290). -/
def phaseOverrun (p : Nat) (d : Dev) : Dev :=
  let ph := d.pfld Fld.FORD_STATE_PHASE p
  if d.portState p = 1 && decide ((d.port p).phaseAt + phaseLimit ph * 10 ^ 6 ≤ d.t) then d.fordFails p ph else d

/-- The peer's IDENT and KEY, and its PROOF once it has come (R292): the IDENT names the peer and its nonce draws the own PROOF; key and
PROOF are checked, and a failure takes the port DOWN. -/
def identCheck (p : Nat) (i : Ident) (d : Dev) : Dev :=
  if d.portState p ≠ 1 || d.pfld Fld.FORD_STATE_PHASE p ≠ 6 then d
  else
    let own := d.ownIdent p []
    let first := (d.port p).seen.isNone
    let d := ((d.setPfld Fld.FORD_PEER_PEER_VALID p (b2n i.valid)).setPfld Fld.FORD_PEER_PEER_PORT p i.port).setPfld
      Fld.FORD_PEER_PEER_ID p i.devId
    let d := (List.range 4).foldl (fun d j => d.setReg (fordBase p + 0x28 + 8 * j) (BitVec.ofNat 64 (ofBytes (slice i.fingerprint (8 * j) 8)))) d
    let s := ofBytes (own.nonce.take 4) ^^^ ofBytes (i.nonce.take 4)
    let d := (d.setPfld Fld.FORD_STATE_SESSION p (s % 2 ^ 32)).modPort p fun x => { x with seen := some i }
    let d := if first then d.sendProof p i else d
    if sha256 i.modulus ≠ i.fingerprint then d.fordFails p 6
    else if i.proof.isEmpty then d
    else
      let ok := rsaVerify i.modulus (sha256 (own.nonce.take 16 ++ identBody i)) i.proof
      let d := d.setPfld Fld.FORD_PEER_PROOF_OK p (b2n ok)
      if ok then d else d.fordFails p 6

/-- A DOWN port tries again (R297). -/
def retrain (p : Nat) (d : Dev) : Dev :=
  if d.portState p = 3 && d.pfld Fld.FORD_CTRL_AUTO_RETRAIN p == 1 && d.pfld Fld.FORD_CTRL_ENABLE p == 1 && !d.portOut p &&
      decide ((d.port p).downAt + d.pfld Fld.FORD_CTRL_RETRAIN_DELAY p * 10 ^ 6 ≤ d.t) then d.trainStart p
  else d

/-- ACCEPT_PEER: an ISOLATED port records the peer it has and goes UP, unless the device is expelled or in SAFE (R293, R330). -/
def Dev.acceptPeer (d : Dev) (p : Nat) : Dev :=
  match d.portState p, (d.port p).seen with
  | 4, some i =>
    let d := d.modPort p fun x => { x with peer := some ⟨i.devId, i.port, i.fingerprint, (x.peer.map Peer.dir).getD 6⟩, changed := false }
    if d.flag Fld.COB_STEP_CMD_EXPEL || d.fld Fld.COB_BRINGUP_STATE == 7 then d else d.setPfld Fld.FORD_STATE_STATE p 2
  | _, _ => d

/-! ### Notices, keepalives, ENABLE (R294, R295) -/

/-- RESET_NOTICE on a port in UP or ISOLATED: 1 device warm, 2 device cold, 3 port. -/
def Dev.sendNotice (d : Dev) (kind p : Nat) : Dev :=
  if d.linked p then
    let x := d.port p
    d.emitFrame p { seq := x.seq, ack := x.ack, fkind := 1, session := d.pfld Fld.FORD_STATE_SESSION p, slots := [.resetNotice kind d.t] }
  else d

/-- A write of ENABLE (FORD_CTRL): 1 starts a DISABLED port's training where no record keeps it out, 0 disables a port after its notice. -/
def Dev.portEnable (d : Dev) (p : Nat) (on : Bool) : Dev :=
  if on then (if d.portState p = 0 && !d.portOut p then d.trainStart p else d)
  else if d.portState p = 0 then d
  else (d.sendNotice 3 p).portDown p 0 0xA

/-- Every 1 µs a KEEPALIVE (R294). -/
def keepaliveSend (p : Nat) (d : Dev) : Dev :=
  if d.linked p then (d.sendCtrl p (.keepalive (d.port p).keepTx)).modPort p fun x => { x with keepTx := (x.keepTx + 1) % 2 ^ 64 } else d

/-- No KEEPALIVE for KEEPALIVE_LIMIT µs (R294). -/
def keepaliveLapse (p : Nat) (d : Dev) : Dev :=
  if d.linked p && decide ((d.port p).keepAt + d.pfld Fld.FORD_CTRL_KEEPALIVE_LIMIT p * 1000 ≤ d.t) then d.fordFails p 7 else d

/-- Every 100 µs a TIME_REQ, stamped as its frame leaves (R299). -/
def reqSend (p : Nat) (d : Dev) : Dev :=
  if d.linked p then
    (d.sendCtrl p (.timeReq 0 (d.port p).exch)).modPort p fun x => { x with exch := (x.exch + 1) % 2 ^ 16 }
  else d

/-- A port that exists. -/
def fordOk (p : Nat) : Bool := decide (p < 20)

/-- FORD_FRAME_RECEIVE (R282). -/
def execFordFrameReceive (p : Nat) (f : Frame) (s : State) : Host.Outcome State Fault Refusal := onUnit (fordOk p) (frameReceive p f) s
/-- FORD_RETRY_TIMEOUT (R282). -/
def execFordRetryTimeout (p : Nat) (s : State) : Host.Outcome State Fault Refusal := onUnit (fordOk p) (retryTimeout p) s
/-- FORD_PACKET_RECEIVE (R286). -/
def execFordPacketReceive (p cls : Nat) (pk : Packet) (s : State) : Host.Outcome State Fault Refusal :=
  onUnit (fordOk p && decide (cls < 2)) (packetReceive p cls pk) s
/-- FORD_PORT_MERGE (R289). -/
def execFordPortMerge (p : Nat) (s : State) : Host.Outcome State Fault Refusal := onUnit (fordOk p) (portMerge p) s
/-- FORD_DOWN (R296). -/
def execFordDown (p reason : Nat) (s : State) : Host.Outcome State Fault Refusal := onUnit (fordOk p) (·.fordFails p reason) s
/-- FORD_KEEPALIVE_SEND (R294). -/
def execFordKeepaliveSend (p : Nat) (s : State) : Host.Outcome State Fault Refusal := onUnit (fordOk p) (keepaliveSend p) s
/-- FORD_KEEPALIVE_LAPSE (R294). -/
def execFordKeepaliveLapse (p : Nat) (s : State) : Host.Outcome State Fault Refusal := onUnit (fordOk p) (keepaliveLapse p) s
/-- FORD_RESET_NOTICE (R295). -/
def execFordResetNotice (p : Nat) (s : State) : Host.Outcome State Fault Refusal :=
  onUnit (fordOk p) (fun d => if d.linked p then d.fordFails p 8 else d) s
/-- TIME_REQ_SEND (R299). -/
def execTimeReqSend (p : Nat) (s : State) : Host.Outcome State Fault Refusal := onUnit (fordOk p) (reqSend p) s
/-- TIME_REQ (R299). -/
def execTimeReq (p t1 exch : Nat) (s : State) : Host.Outcome State Fault Refusal := onUnit (fordOk p) (takeReq p t1 exch) s
/-- TIME_RSP (R299, R300). -/
def execTimeRsp (p t1 t2 t3 exch peerBound : Nat) (s : State) : Host.Outcome State Fault Refusal :=
  onUnit (fordOk p) (takeRsp p t1 t2 t3 exch peerBound) s
/-- FT_HOLDOVER (R300). -/
def execFtHoldover (s : State) : Host.Outcome State Fault Refusal := effect (·.holdover) s
/-- TRAINING_PHASE_END (R290). -/
def execTrainingPhaseEnd (p lanes : Nat) (margins : List Nat) (s : State) : Host.Outcome State Fault Refusal :=
  onUnit (fordOk p) (phaseEnd p lanes margins) s
/-- TRAINING_PHASE_OVERRUN (R290). -/
def execTrainingPhaseOverrun (p : Nat) (s : State) : Host.Outcome State Fault Refusal := onUnit (fordOk p) (phaseOverrun p) s
/-- IDENT (R292). -/
def execIdent (p : Nat) (i : Ident) (s : State) : Host.Outcome State Fault Refusal := onUnit (fordOk p) (identCheck p i) s
/-- FORD_RETRAIN (R297). -/
def execFordRetrain (p : Nat) (s : State) : Host.Outcome State Fault Refusal := onUnit (fordOk p) (retrain p) s
/-- FORD_FRAME_SEND (R277, R278). -/
def execFordFrameSend (p : Nat) (s : State) : Host.Outcome State Fault Refusal := onUnit (fordOk p) (frameSend p) s

end Sys2Proof.Machine
end

