-- ==== Sys2Proof/Machine/Welt.lean ====
section
/-!
DEFINITION. Welt engines (08 R246–R259): rings, the check of a descriptor, copies, fills, edge streams, instruction loads,
completion.
-/
namespace Sys2Proof.Machine

/-! ### A descriptor (R249) -/

/-- n bytes at offset o of a descriptor, as a number. -/
def dField (b : List Byte) (o n : Nat) : Nat := ofBytes (slice b o n)
def dOp (b : List Byte) : Nat := dField b 0 1
def dWait (b : List Byte) : Bool := nbit (dField b 1 1) 1
def dPost (b : List Byte) : Bool := nbit (dField b 1 1) 2
def dNotify (b : List Byte) : Bool := nbit (dField b 1 1) 4
def dMc (b : List Byte) : Nat := dField b 2 1
def dLo (b : List Byte) : Nat := dField b 3 1 % 16
def dHi (b : List Byte) : Nat := dField b 3 1 / 16
def dLen (b : List Byte) : Nat := dField b 4 4
def dSrc (b : List Byte) : Nat := dField b 8 8
def dDst (b : List Byte) : Nat := dField b 16 8
/-- FENCE, which DIGEST, SCALE_RULES and FLIP always have (R325). -/
def dFence (b : List Byte) : Bool := nbit (dField b 1 1) 3 || [7, 9, 0xA].contains (dOp b)

/-- The bytes of 24–47 an operation uses (Table — Welt operations, Table — Commit operations). -/
def opBytes (op : Nat) : List Nat :=
  match op with
  | 2 | 3 => [24, 25, 26, 28, 29]
  | 4 => List.range' 24 6
  | 5 | 7 | 0xA | 0xB => List.range' 24 8
  | 6 => List.range' 24 4 ++ List.range' 32 16
  | 8 => List.range' 24 12
  | 9 => List.range' 24 21
  | _ => []

/-- A compression control word (R159): its fields, and whether it is refused. -/
def zCompress (b : List Byte) : Bool := nbit (dField b 24 4) 0
def z28 (b : List Byte) : Bool := nbit (dField b 24 4) 1
def zEmitT (b : List Byte) : Bool := nbit (dField b 24 4) 2
def zElem (b : List Byte) : Nat := dField b 24 4 / 8 % 8
def zLifts (b : List Byte) : Nat := dField b 24 4 / 64 % 4
def zBad (b : List Byte) : Bool :=
  decide (dField b 24 4 ≥ 256) || zElem b == 0 || zElem b == 7 || zLifts b == 3 ||
  (z28 b && [1, 2, 6].contains (zElem b))
def zTiles (b : List Byte) : Nat := dLen b / bTile (zElem b)

/-- The unit of LENGTH. -/
def opUnit (b : List Byte) : Nat :=
  match dOp b with
  | 1 => 1 | 4 => 8 | 6 => bTile (zElem b) | _ => 64

/-- The bytes of a STORE_Z's tiles that the check knows: all of them with COMPRESS 0 (R256), else the first (log 19). -/
def zLen (b : List Byte) : Nat := if zCompress b then 1 else zTiles b * bTile (zElem b)

/-- The source and destination ranges of an operation, as (address, length). -/
def opRanges (b : List Byte) : List (Nat × Nat) :=
  let s := (dSrc b, dLen b); let t := (dDst b, dLen b)
  match dOp b with
  | 1 | 9 => [s, t]
  | 2 | 4 | 8 => [s]
  | 3 | 5 | 0xB => [t]
  | 6 => [s, (dDst b, zLen b), (dField b 32 8, 8 * zTiles b * if zEmitT b then 2 else 1)] ++
         if zEmitT b then [(dField b 40 8, zLen b)] else []
  | 7 => [(dDst b, 32)]
  | _ => []

def inWindow (a : Nat) : Bool := match rangeId a with | some i => decide (18 ≤ i) | none => false

/-- Multicast that the check refuses (R250). -/
def mcBad (b : List Byte) : Bool :=
  decide (3 ≤ dMc b) || (dMc b ≠ 0 &&
    (!(dOp b == 4 || ((dOp b == 1 || dOp b == 5) && inWindow (dDst b))) || decide (dHi b < dLo b) ||
     decide ((if dMc b = 1 then 7 else 11) < dHi b)))

/-- A malformed descriptor of engine e (R250). -/
def descBad (e : Nat) (b : List Byte) : Bool :=
  let op := dOp b
  decide (0xB < op) || decide (dField b 1 1 ≥ 32) || mcBad b ||
  (List.range' 24 24).any (fun i => !(opBytes op).contains i && byteAt b i ≠ 0) ||
  ((op == 2 || op == 3) && (nbit (byteAt b 26) 7 || decide (16 ≤ e) || dField b 24 2 == 0)) ||
  (op == 9 && decide (1 < byteAt b 44)) ||
  [48, 52].any (fun o => dField b o 4 / 2 ^ 14 % 4 ≠ 0 || decide (dField b o 4 ≥ 2 ^ 22)) ||
  (op == 6 && zBad b) ||
  (if op = 0 then dLen b ≠ 0 else dLen b == 0 || dLen b % opUnit b ≠ 0) ||
  (op == 0xA && dLen b ≠ 64) ||
  (opRanges b).any (fun r => !rangeOk r.1 r.2) ||
  (op == 4 && (dField b 28 2 == 0 || decide (4096 < dField b 28 2) || dDst b / 2 ^ 14 % 4 ≠ 0 || decide (dDst b ≥ 2 ^ 28)))

/-! ### Rings (R247) -/

def ringFld (f : Fld) (e r : Nat) : Fld := (f.nth 16 r).at (memBase e)
def Dev.ring (d : Dev) (f : Fld) (e r : Nat) : Nat := d.fld (ringFld f e r)
/-- The started descriptors of a ring. -/
def Dev.live (d : Dev) (e r : Nat) : List Desc := (d.memc e).descs.filter fun x => x.ring == r
/-- No free completion entry: every started descriptor has reserved one (R257). -/
def Dev.cqFull (d : Dev) (e : Nat) : Bool :=
  let w := d.fld (Fld.HBM_WELT_CQ_PTR_WRITE.at (memBase e)); let r := d.fld (Fld.HBM_WELT_CQ_PTR_READ.at (memBase e))
  decide (2 ^ d.fld (Fld.HBM_WELT_CQ_BASE_SIZE_LOG2.at (memBase e)) ≤ (w + 2 ^ 16 - r) % 2 ^ 16 + (d.memc e).descs.length)

/-- Who an engine's requests come from. -/
def weltReq (e r : Nat) : Req := { region := r, node := memNode e }

/-- The completion entry of a descriptor (Table — Welt completion entry). -/
def Dev.entryBytes (d : Dev) (x : Desc) : List Byte :=
  leBytes 1 x.ring ++ leBytes 1 x.status ++ leBytes 1 (if x.status = 1 then x.reason else 0) ++ leBytes 1 (dOp x.bytes) ++
  leBytes 2 x.index ++ leBytes 2 0 ++ leBytes 8 x.moved ++ leBytes 8 d.t ++ leBytes 6 d.stepNo ++ leBytes 2 0

/-- Write a completion entry, reported when NOTIFY asks for it (R257, R419, log 20); none while its memory holds the write. -/
def Dev.weltEntry (d : Dev) (e : Nat) (x : Desc) : Option Dev :=
  let b := memBase e
  let w := d.fld (Fld.HBM_WELT_CQ_PTR_WRITE.at b)
  let a := 32 * d.fld (Fld.HBM_WELT_CQ_BASE_BASE.at b) + 32 * (w % 2 ^ d.fld (Fld.HBM_WELT_CQ_BASE_SIZE_LOG2.at b))
  let bs := d.entryBytes x
  match d.devWrite (weltReq e x.ring) a bs with
  | (.wait, _) => none
  | (_, d) =>
    let d := (d.setFld (Fld.HBM_WELT_CQ_PTR_WRITE.at b) (w + 1)).tally 0x204 0x0A e 0 1
    some (if dNotify x.bytes then d.event { code := 0, kind := 0x0A, unit := e, region := x.ring, detail := bs } else d)

/-- A ring stops, and the step in progress aborts where the status is `error` or `timeout` (R258). -/
def Dev.weltStop (d : Dev) (e r status : Nat) : Dev :=
  let d := d.setFld (ringFld Fld.HBM_WELT_RING_CTRL_STATE e r) 2
  if status = 1 || status = 2 then d.abortStep else d

/-- A completion for the descriptor at HEAD that never started: the ring stops. -/
def Dev.weltHeadEnd (d : Dev) (e r status reason : Nat) (bytes : List Byte) : Dev :=
  match d.weltEntry e { ring := r, index := d.ring Fld.HBM_WELT_RING_CTRL_HEAD e r, bytes, at_ := d.t, status, reason } with
  | some d => d.weltStop e r status
  | none => d

/-- Whether a ring may fetch: RUNNING, enabled, a REPEAT ring inside a pass, a completion entry free; in SAFE, one that firmware
issues (R247, R248, R257; 12 R383). -/
def Dev.ringGo (d : Dev) (e r : Nat) : Bool :=
  d.ring Fld.HBM_WELT_RING_CTRL_STATE e r == 1 && d.ring Fld.HBM_WELT_RING_CTRL_ENABLE e r == 1 &&
  (d.ring Fld.HBM_WELT_RING_CTRL_REPEAT e r == 0 || nbit (d.memc e).passing r) && !d.cqFull e && !d.captured 0x0A e &&
  (d.fld Fld.COB_BRINGUP_STATE ≠ 7 || nbit (d.memc e).fwRings r)

/-- The address of the descriptor at HEAD. -/
def Dev.headAddr (d : Dev) (e r : Nat) : Nat :=
  64 * d.ring Fld.HBM_WELT_RING_BASE_BASE e r +
    64 * (d.ring Fld.HBM_WELT_RING_CTRL_HEAD e r % 2 ^ d.ring Fld.HBM_WELT_RING_BASE_SIZE_LOG2 e r)

/-- The engine starts the descriptor at HEAD and advances HEAD (R247). -/
def Dev.weltBegin (d : Dev) (e r : Nat) (bytes : List Byte) : Dev :=
  let h := d.ring Fld.HBM_WELT_RING_CTRL_HEAD e r
  let m := d.memc e
  (d.setMemc e { m with descs := m.descs ++ [{ ring := r, index := h, bytes, at_ := d.t }] }).setFld
    (ringFld Fld.HBM_WELT_RING_CTRL_HEAD e r) (h + 1)

/-- Fetch, check and start the descriptor at HEAD (R247, R250, R251); one with WAIT_EN starts at a poll of its flag. -/
def descStart (e r : Nat) (d : Dev) : Dev :=
  let h := d.ring Fld.HBM_WELT_RING_CTRL_HEAD e r; let t := d.ring Fld.HBM_WELT_RING_CTRL_TAIL e r
  if !d.ringGo e r || h == t then d
  else if 2 ^ d.ring Fld.HBM_WELT_RING_BASE_SIZE_LOG2 e r < (t + 2 ^ 16 - h) % 2 ^ 16 then d.weltHeadEnd e r 3 0 []
  else match d.devRead (weltReq e r) (d.headAddr e r) 64 with
    | (.wait, _) => d
    | (.err x, d) => d.weltHeadEnd e r 1 x []
    | (.ok bs, d) =>
      if descBad e bs then d.weltHeadEnd e r 3 0 bs
      else if dFence bs && !(d.live e r).isEmpty then d
      else if dWait bs then d
      else d.weltBegin e r bs

/-- A gateway flag of a logical core's cluster, named as a WAIT or POST field names it (R249): its router and index, or a reason
of R233. -/
def Dev.flagAt (d : Dev) (core flag : Nat) : Nat ⊕ (Nat × Nat) :=
  if core ≥ numLogical then .inl 0x81
  else match d.hostOf core with
    | none => .inl 0x8D
    | some c => .inr (routerOf c, flag)
def Dev.flagVal (d : Dev) (x : Nat × Nat) : Nat := (NMap.get 0 (d.gw x.1).flags x.2).toNat

/-- A ring with TAIL_SRC 1 and HEAD at TAIL reads its tail flag (R247). -/
def tailPoll (e r : Nat) (d : Dev) : Dev :=
  if !d.ringGo e r || d.ring Fld.HBM_WELT_RING_CTRL_TAIL_SRC e r == 0 ||
      d.ring Fld.HBM_WELT_RING_CTRL_HEAD e r ≠ d.ring Fld.HBM_WELT_RING_CTRL_TAIL e r then d
  else match d.flagAt (d.ring Fld.HBM_WELT_RING_CTRL_TAIL_CORE e r) (d.ring Fld.HBM_WELT_RING_CTRL_TAIL_FLAG e r) with
    | .inl x => d.weltHeadEnd e r 1 x []
    | .inr f => d.setFld (ringFld Fld.HBM_WELT_RING_CTRL_TAIL e r) (d.flagVal f % 2 ^ 16)

/-- The descriptor at HEAD with WAIT_EN reads its flag (R251). -/
def waitPoll (e r : Nat) (d : Dev) : Dev :=
  if !d.ringGo e r || d.ring Fld.HBM_WELT_RING_CTRL_HEAD e r == d.ring Fld.HBM_WELT_RING_CTRL_TAIL e r then d
  else match d.devRead (weltReq e r) (d.headAddr e r) 64 with
    | (.ok bs, d) =>
      if descBad e bs || !dWait bs || (dFence bs && !(d.live e r).isEmpty) then d
      else match d.flagAt (dField bs 48 4 % 2 ^ 14) (dField bs 48 4 / 2 ^ 16) with
        | .inl x => d.weltHeadEnd e r 1 x bs
        | .inr f => if dField bs 56 4 ≤ d.flagVal f then d.weltBegin e r bs else d
    | _ => d

/-! ### Requests of an engine -/

/-- In `sync_only` an engine reaches its own memory alone (R220). -/
def Dev.weltMay (d : Dev) (e a : Nat) : Bool :=
  d.fld Fld.COB_RACE_STATUS_SERVICE ≠ 0 || match d.locate a with | .mem k _ => k == e | _ => false

/-- One request of at most 1 KiB (R246). -/
def Dev.weltRead1 (d : Dev) (e r a n : Nat) : Res (List Byte) × Dev :=
  if d.weltMay e a then d.devRead (weltReq e r) a n else (.err 0x89, d)
def Dev.weltWrite1 (d : Dev) (e r a : Nat) (bs : List Byte) : Res Unit × Dev :=
  if d.weltMay e a then d.devWrite (weltReq e r) a bs else (.err 0x89, d)

/-- The requests of n bytes: offset and length of each, ascending (R246, R251). -/
def requestsOf (n : Nat) : List (Nat × Nat) :=
  (List.range (ceilDiv n 1024)).map fun i => (1024 * i, min 1024 (n - 1024 * i))
/-- A read of n bytes, in requests of at most 1 KiB; the first error or wait ends it. -/
def Dev.weltRead (d : Dev) (e r a n : Nat) : Res (List Byte) × Dev :=
  (requestsOf n).foldl (fun x o =>
    match x with
    | (.ok bs, d) => (match d.weltRead1 e r (a + o.1) o.2 with | (.ok cs, d) => (.ok (bs ++ cs), d) | y => y)
    | _ => x) (.ok [], d)
/-- A write, in requests of at most 1 KiB; the first error or wait ends it. -/
def Dev.weltWrite (d : Dev) (e r a : Nat) (bs : List Byte) : Res Unit × Dev :=
  (requestsOf bs.length).foldl (fun x o =>
    match x with
    | (.ok _, d) => d.weltWrite1 e r (a + o.1) (slice bs o.1 o.2)
    | _ => x) (.ok (), d)

/-- The copies of a write at an address: itself, or one per logical cluster of the span (R217). -/
def copyLids (mc lo hi lid : Nat) : List Nat :=
  let row := lid / 128; let col := lid % 128
  if mc = 1 then (List.range' lo (hi + 1 - lo)).map fun x => row * 128 + x * 16 + col % 16
  else if mc = 2 then (List.range' lo (hi + 1 - lo)).map fun y => (y * 8 + row % 8) * 128 + col
  else [lid]

def copyAddrs (b : List Byte) (a : Nat) : List Nat :=
  if dMc b = 0 then [a]
  else (copyLids (dMc b) (dLo b) (dHi b) ((a - 0x400000000000) / 2 ^ 19)).map fun l =>
    0x400000000000 + l * 2 ^ 19 + a % 2 ^ 19

/-- Write at each of several addresses: a copy that is refused leaves the others, and the first error is the outcome (R217, R258). -/
def Dev.weltWrites (d : Dev) (e r : Nat) (bs : List Byte) : List Nat → Res Unit × Dev
  | [] => (.ok (), d)
  | a :: as =>
    match d.weltWrite e r a bs with
    | (.ok _, d) => d.weltWrites e r bs as
    | (.err x, d) => (match d.weltWrites e r bs as with | (.wait, d) => (.wait, d) | (_, d) => (.err x, d))
    | (.wait, d) => (.wait, d)

/-- Move n bytes in requests of up to 1 KiB, ascending (R246, R251): what was moved before the first error or wait. -/
def weltMove (get : Dev → Nat → Nat → Res (List Byte) × Dev) (put : Dev → Nat → List Byte → Res Unit × Dev) :
    Nat → Nat → Nat → Dev → Dev × Nat × Res Unit
  | 0, o, _, d => (d, o, .ok ())
  | f + 1, o, n, d =>
    if n ≤ o then (d, o, .ok ())
    else match get d o (min 1024 (n - o)) with
      | (.ok bs, d) => match put d o bs with
        | (.ok _, d) => weltMove get put f (o + bs.length) n d
        | (.err x, d) => (d, o, .err x)
        | (.wait, d) => (d, o, .wait)
      | (.err x, d) => (d, o, .err x)
      | (.wait, d) => (d, o, .wait)

/-- What a run leaves of a descriptor: an error ends it with status `error`, also where its uncorrectable read has aborted the step
(R258, R272); one that the step's abort has ended stays so otherwise. -/
def Desc.ranAs (u x : Desc) : Res Unit → Desc
  | .err n => { x with ran := true, status := 1, reason := n }
  | .ok _ => if u.ran then u else { x with ran := true, asked := none }
  | .wait => if u.ran then u else x

/-- The oldest started descriptor of a ring with an operation runs: `f` gives the state, the descriptor's progress and the outcome;
one that must wait keeps what `f` gives. -/
def Dev.weltRun (d : Dev) (e r op : Nat) (f : Desc → Dev → Dev × Desc × Res Unit) : Dev :=
  match (d.memc e).descs.find? fun x => x.ring == r && !x.ran && dOp x.bytes == op with
  | none => d
  | some x =>
    let y := f x d
    let m := y.1.memc e
    let same := fun u : Desc => u.ring == x.ring && u.index == x.index && u.at_ == x.at_
    y.1.setMemc e { m with descs := m.descs.map fun u => if same u then u.ranAs y.2.1 y.2.2 else u }

/-- A request of the descriptor has no answer, since now at the latest (R258). -/
def Desc.ask (x : Desc) (now : Nat) : Desc := { x with asked := some (x.asked.getD now) }

/-- An operation that holds until every memory it needs serves it: no part of it stays (log 21). -/
def whole (f : Desc → Dev → Dev × Nat × Res Unit) (x : Desc) (d : Dev) : Dev × Desc × Res Unit :=
  match f x d with
  | (_, _, .wait) => (d, x.ask d.t, .wait)
  | (d, n, y) => (d, { x with moved := n }, y)

def runNop (e r : Nat) (d : Dev) : Dev := d.weltRun e r 0 fun x d => (d, x, .ok ())

def runCopy (e r : Nat) (d : Dev) : Dev :=
  d.weltRun e r 1 <| whole fun x d =>
    let b := x.bytes
    weltMove (fun d o n => d.weltRead e r (dSrc b + o) n)
      (fun d o bs => d.weltWrites e r bs (copyAddrs b (dDst b + o))) (dLen b / 1024 + 2) 0 (dLen b) d

def runFill (e r : Nat) (d : Dev) : Dev :=
  d.weltRun e r 5 <| whole fun x d =>
    let b := x.bytes
    weltMove (fun d _ n => (.ok ((List.replicate (n / 8) (slice b 24 8)).flatten), d))
      (fun d o bs => d.weltWrites e r bs (copyAddrs b (dDst b + o))) (dLen b / 1024 + 2) 0 (dLen b) d

/-! ### Edge streams (R254, R255) -/

def edgeLinks (b : List Byte) : List Nat := (List.range 16).filter (nbit (dField b 24 2))
def edgeStream (b : List Byte) : Nat := byteAt b 26 % 8
def edgeSeal (b : List Byte) : Bool := nbit (byteAt b 26) 3
/-- The link word i goes on. -/
def edgeOfWord (b : List Byte) (i : Nat) : Nat :=
  let ls := edgeLinks b; let ch := dField b 28 2
  ls.getD ((if ch = 0 then Config.chunkZero i else i / ch) % ls.length) 0
/-- The links that carry a word, ascending. -/
def edgeUsed (b : List Byte) : List Nat :=
  let ls := edgeLinks b; let ch := dField b 28 2; let n := dLen b / 64
  if ch = 0 then ls.filter fun l => (List.range n).any fun i => edgeOfWord b i == l else ls.take (ceilDiv n ch)

/-- Put a word on an edge link, kept for replay (R174–R176). -/
def Dev.edgeSend (d : Dev) (e b st kind gen : Nat) (data : Line) : Dev :=
  let m := d.memc e
  let seq := NMap.get 0 m.edgeSeq b
  let w : StitchWord := { data, par := parOf data, kind, stream := st, gen, epoch := d.epoch % 4, seq,
                          cpar := cparOf kind st gen (d.epoch % 4) seq }
  let old := NMap.get [] m.edgeTx b
  (d.setMemc e { m with edgeSeq := NMap.set 0 m.edgeSeq b ((seq + 1) % 8),
                        edgeTx := NMap.set [] m.edgeTx b ((old ++ [w]).drop (old.length + 1 - 8)) }).emit (.edge e b (d.map.cur.edgeCore e b) w)

/-- The generation an edge stream's words carry (R254). -/
def edgeGen (b : List Byte) (x : Edge) : Nat := if nbit (byteAt b 26) 4 then byteAt b 26 / 32 % 4 else x.gen

/-- STREAM_OUT as far as credits last, then its seals; no word leaves while the links stop (R204). -/
def streamOutGo (e r : Nat) : Nat → Desc → Dev → Dev × Desc × Res Unit
  | 0, x, d => (d, x, .wait)
  | f + 1, x, d =>
    let b := x.bytes; let st := edgeStream b
    if x.moved < dLen b then
      let l := edgeOfWord b (x.moved / 64)
      let y := d.edge e l st
      if y.credits = 0 || d.cob.copying then (d, { x with asked := none }, .wait)
      else match d.weltRead e r (dSrc b + x.moved) 64 with
        | (.ok bs, d) =>
          let d := (d.edgeSend e l st 0 (edgeGen b y) (lineOf bs)).setEdge e l st
            { y with credits := y.credits - 1, gen := edgeGen b y }
          streamOutGo e r f { x with moved := x.moved + 64, asked := none } d
        | (.err n, d) => (d, x, .err n)
        | (.wait, _) => (d, x.ask d.t, .wait)
    else if !edgeSeal b then (d, x, .ok ())
    else match (edgeUsed b)[x.seals]? with
      | none => (d, x, .ok ())
      | some l =>
        let y := d.edge e l st
        if y.credits = 0 || d.cob.copying then (d, x, .wait)
        else
          let d := (d.edgeSend e l st 1 (edgeGen b y) 0).setEdge e l st
            { y with credits := y.credits - 1, gen := (edgeGen b y + 1) % 4 }
          streamOutGo e r f { x with seals := x.seals + 1 } d

/-- STREAM_IN as far as words have come, then its seals; each word taken returns its credit. -/
def streamInGo (e r : Nat) : Nat → Desc → Dev → Dev × Desc × Res Unit
  | 0, x, d => (d, x, .wait)
  | f + 1, x, d =>
    let b := x.bytes; let st := edgeStream b
    let drop := fun (d : Dev) (l : Nat) (w : StitchWord) =>
      let y := d.edge e l st
      (d.setEdge e l st { y with inq := y.inq.drop 1 }).emit (.edgeCredit e l st 1 w.gen)
    if x.moved < dLen b then
      let l := edgeOfWord b (x.moved / 64)
      match (d.edge e l st).inq with
      | [] => (d, { x with asked := none }, .wait)
      | w :: _ =>
        if w.kind = 1 then (d, { x with asked := none }, .wait)
        else match d.weltWrite e r (dDst b + x.moved) (lineBytes w.data) with
          | (.ok _, d) => streamInGo e r f { x with moved := x.moved + 64, asked := none } (drop d l w)
          | (.err n, d) => (d, x, .err n)
          | (.wait, _) => (d, x.ask d.t, .wait)
    else if !edgeSeal b then (d, x, .ok ())
    else match (edgeUsed b)[x.seals]? with
      | none => (d, x, .ok ())
      | some l =>
        match (d.edge e l st).inq with
        | [] => (d, x, .wait)
        | w :: _ => if w.kind = 1 then streamInGo e r f { x with seals := x.seals + 1 } (drop d l w) else (d, x, .wait)

/-- One run moves at most 16 links × 8 words and the seals. -/
def runStreamOut (e r : Nat) (d : Dev) : Dev := d.weltRun e r 2 (streamOutGo e r 256)
def runStreamIn (e r : Nat) (d : Dev) : Dev := d.weltRun e r 3 (streamInGo e r 256)

/-! ### Instruction loads (R67, R68, R253) -/

/-- One packet of a load reaches one core: the reason of its refusal, or the words. -/
def Dev.loadOne (d : Dev) (lid : Nat) (p : Packet) : Res Unit × Dev :=
  if lid ≥ numLogical then (.err 0x81, d)
  else match d.hostOf lid with
    | none => (.err 0x8D, d)
    | some c =>
      match d.coreState c with
      | .empty | .loading | .done => (.ok (), d.loadWords c p)
      | .underTest => (.err 0x90, d)
      | _ => (.err 0x91, d)

/-- Every core of the span gets its copy: a refusal ends the descriptor with an error and stops no other copy (R67, R217). -/
def Dev.loadAll (d : Dev) (p : Packet) : List Nat → Res Unit × Dev
  | [] => (.ok (), d)
  | l :: ls => match d.loadOne l p with
    | (.ok _, d) => d.loadAll p ls
    | (x, d) => (x, (d.loadAll p ls).2)

def runIload (e r : Nat) (d : Dev) : Dev :=
  d.weltRun e r 4 <| whole fun x d =>
    let b := x.bytes
    let lid := dDst b % 2 ^ 14
    weltMove (fun d o n => d.weltRead e r (dSrc b + o) n)
      (fun d o bs =>
        if d.fld Fld.COB_RACE_STATUS_SERVICE = 0 then (.err 0x89, d)
        else d.loadAll { ptype := .iload, payload := bs, aux := dField b 24 4,
                         addr := (dDst b / 2 ^ 16 + o / 8) + dField b 28 2 * 2 ^ 16 }
               (copyLids (dMc b) (dLo b) (dHi b) lid)) (dLen b / 1024 + 2) 0 (dLen b) d

/-! ### Completion (R252, R257, R258) -/

/-- The descriptor's POST, after an operation that ended `ok`: a flag write refused makes it an error. -/
def Dev.weltPost (d : Dev) (x : Desc) : Dev × Desc :=
  if x.status ≠ 0 || !dPost x.bytes then (d, x)
  else match d.flagAt (dField x.bytes 52 4 % 2 ^ 14) (dField x.bytes 52 4 / 2 ^ 16) with
    | .inl n => (d, { x with status := 1, reason := n })
    | .inr f => (d.setGw f.1 { d.gw f.1 with flags := NMap.set 0 (d.gw f.1).flags f.2 (BitVec.ofNat 64 (dField x.bytes 60 4)) }, x)

/-- The first descriptor of a ring whose operation has ended completes: its POST, its entry, and for an error or timeout the
ring stops and the step aborts. -/
def descComplete (e r : Nat) (d : Dev) : Dev :=
  match (d.memc e).descs.find? fun x => x.ring == r && x.ran with
  | none => d
  | some x =>
    let p := d.weltPost x
    match p.1.weltEntry e p.2 with
    | none => d
    | some d =>
      let m := d.memc e
      let d := d.setMemc e { m with descs := m.descs.erase x }
      if p.2.status = 1 || p.2.status = 2 then d.weltStop e r p.2.status else d

/-- The controllers an address keeps waiting: the request timer pauses while they train or fill (R391). -/
def Dev.memPauses (d : Dev) (a : Nat) : Bool :=
  match d.locate a with | .mem k _ => d.memState k == 1 || d.memState k == 2 | _ => false

/-- A request not answered within WELT_TIMEOUT ends its descriptor with `timeout`: time that a descriptor spends on its flag, on words
or on credits is no request's (R258, R391). -/
def weltTimeout (e r : Nat) (d : Dev) : Dev :=
  match (d.memc e).descs.find? fun x => x.ring == r && !x.ran && x.asked.isSome with
  | none => d
  | some x =>
    if d.t < x.asked.getD 0 + 1000 * d.fld Fld.HANG_TIMEOUTS_WELT_TIMEOUT ||
        d.memPauses (dSrc x.bytes) || d.memPauses (dDst x.bytes) then d
    else
      let m := d.memc e
      d.setMemc e { m with descs := m.descs.map fun u => if u = x then { x with ran := true, status := 2 } else u }

/-- Engine e and ring r exist. -/
def ringOk (e r : Nat) : Bool := decide (e < 20) && decide (r < 16)

/-- WELT_DESCRIPTOR_START (R247, R250, R251). -/
def execWeltDescriptorStart (e r : Nat) (s : State) : Host.Outcome State Fault Refusal := onUnit (ringOk e r) (descStart e r) s
/-- WELT_TAIL_POLL (R247). -/
def execWeltTailPoll (e r : Nat) (s : State) : Host.Outcome State Fault Refusal := onUnit (ringOk e r) (tailPoll e r) s
/-- WELT_WAIT_POLL (R251). -/
def execWeltWaitPoll (e r : Nat) (s : State) : Host.Outcome State Fault Refusal := onUnit (ringOk e r) (waitPoll e r) s
/-- Welt operation NOP (R249). -/
def execWeltNop (e r : Nat) (s : State) : Host.Outcome State Fault Refusal := onUnit (ringOk e r) (runNop e r) s
/-- Welt operation COPY (R249). -/
def execCopy (e r : Nat) (s : State) : Host.Outcome State Fault Refusal := onUnit (ringOk e r) (runCopy e r) s
/-- Welt operation STREAM_OUT (R254). -/
def execStreamOut (e r : Nat) (s : State) : Host.Outcome State Fault Refusal := onUnit (ringOk e r) (runStreamOut e r) s
/-- Welt operation STREAM_IN (R255). -/
def execStreamIn (e r : Nat) (s : State) : Host.Outcome State Fault Refusal := onUnit (ringOk e r) (runStreamIn e r) s
/-- Welt operation ILOAD (R253). -/
def execWeltIload (e r : Nat) (s : State) : Host.Outcome State Fault Refusal := onUnit (ringOk e r) (runIload e r) s
/-- Welt operation FILL (R249). -/
def execFill (e r : Nat) (s : State) : Host.Outcome State Fault Refusal := onUnit (ringOk e r) (runFill e r) s
/-- WELT_DESCRIPTOR_COMPLETE (R252, R257, R258). -/
def execWeltDescriptorComplete (e r : Nat) (s : State) : Host.Outcome State Fault Refusal :=
  onUnit (ringOk e r) (descComplete e r) s
/-- WELT_REQUEST_TIMEOUT (R258, R391). -/
def execWeltRequestTimeout (e r : Nat) (s : State) : Host.Outcome State Fault Refusal := onUnit (ringOk e r) (weltTimeout e r) s

end Sys2Proof.Machine
end

