-- ==== Sys2Proof/Machine/StoreZ.lean ====
section
/-!
DEFINITION. The compressing store (05 R152–R163, 08 R256): the choice of a tile's form and lifts, its layout, its metadata
word and its transpose.
-/
namespace Sys2Proof.Machine

/-- A tile as its element codes by (k, c) and its 32 scale bytes (none for an unscaled format). -/
structure ZTile where
  el     : Nat → Nat → Nat
  scales : List Byte

/-- The dense B tile of R93 in bytes. -/
def zTile (f : Nat) (bs : List Byte) : ZTile :=
  { el := fun k c => unpackEl f bs (32 * c + k), scales := if isScaled f then bs.drop (packedLen f 1024) else [] }

/-- A non-zero element (R153): under a column scale of FFh every element is NaN (R114). -/
def ZTile.nz (t : ZTile) (f k c : Nat) : Bool := byteAt t.scales c == 0xFF || !(decodeEl f (t.el k c)).isZero
/-- A non-finite tile (R153). -/
def ZTile.nonFinite (t : ZTile) : Bool := t.scales.any (· == 0xFF)

def countUpTo (n : Nat) (p : Nat → Bool) : Nat := ((List.range n).filter p).length

/-- A tile conforms to a form once the rows of a lift set are taken as zero (R152, R160). -/
def ZTile.conforms (t : ZTile) (f form : Nat) (lifts : List Nat) : Bool :=
  let nz := fun k c => !lifts.contains k && t.nz f k c
  if form = 2 then (List.range 32).all fun c => (List.range 4).all fun g => decide (countUpTo 8 (fun p => nz (8 * g + p) c) ≤ 2)
  else (List.range 4).all fun g => (List.range 4).all fun h => (List.range 8).all fun i =>
    decide (countUpTo 8 (fun j => nz (8 * g + i) (8 * h + j)) ≤ 4) && decide (countUpTo 8 (fun j => nz (8 * g + j) (8 * h + i)) ≤ 4)

/-- The lift sets of up to `n` rows, by size, then lexicographically (R160). -/
def liftSets (n : Nat) : List (List Nat) :=
  [[]] ++ (if n ≥ 1 then (List.range 32).map fun i => [i] else []) ++
  if n ≥ 2 then (List.range 32).flatMap fun i => (List.range' (i + 1) (31 - i)).map fun j => [i, j] else []

/-- The form and lifts of a tile under a control word (R160, R161, R163); dense when nothing conforms. -/
def zChoose (b : List Byte) (t : ZTile) : Nat × List Nat :=
  let f := zElem b
  let forms := (if z28 b && !zEmitT b then [2] else []) ++ [1]
  if !zCompress b || t.nonFinite then (0, [])
  else (forms.findSome? fun form =>
    ((liftSets (zLifts b)).find? (t.conforms f form)).map fun l => (form, l)).getD (0, [])

/-- The slots of group g of column c: the non-zero elements outside the lifts, ascending (R160). -/
def ZTile.slots (t : ZTile) (f : Nat) (cols : Bool) (lifts : List Nat) (c g : Nat) : List Nat :=
  (List.range 8).filter fun p => !(lifts.contains (if cols then c else 8 * g + p)) && t.nz f (8 * g + p) c

/-- The bytes of a stored tile (R93, R155); `cols` when the lifts are columns. -/
def ZTile.store (t : ZTile) (f form : Nat) (cols : Bool) (lifts : List Nat) : List Byte :=
  if form = 0 then packEls f ((List.range 1024).map fun i => t.el (i % 32) (i / 32)) ++ t.scales
  else
    let n := formSlots form
    let groups := (List.range 128).map fun i => (i / 4, i % 4, t.slots f cols lifts (i / 4) (i % 4))
    let vals := groups.flatMap fun x => (List.range n).map fun j =>
      match x.2.2[j]? with | some p => t.el (8 * x.2.1 + p) x.1 | none => 0
    let codes := groups.flatMap fun x =>
      leBytes (if form = 1 then 2 else 1) ((List.range n).foldl (fun a j => a + (x.2.2.getD j 0) * 8 ^ j) 0)
    let sliv := lifts.flatMap fun l => packEls f ((List.range 32).map fun i => if cols then t.el i l else t.el l i)
    packEls f vals ++ codes ++ sliv ++ t.scales

/-- The metadata word of a stored tile (R156). -/
def ZTile.word (t : ZTile) (f form : Nat) (trans : Bool) (lifts : List Nat) : Word :=
  let nnz := countUpTo 1024 fun i => t.nz f (i % 32) (i / 32)
  let w := putBits 0 63 60 form
  let w := putBits w 59 58 lifts.length
  let w := putBits w 57 57 (b2n (trans && !lifts.isEmpty))
  let w := putBits w 56 52 (lifts.getD 0 0)
  let w := putBits w 51 47 (lifts.getD 1 0)
  let w := putBits w 46 36 nnz
  let w := putBits w 35 28 (tileSize f form lifts.length / 16)
  let w := putBits w 27 25 f
  let w := putBits w 24 24 (b2n trans)
  putBits w 23 23 (b2n (oddOnes 41 (bits w 63 23)))

/-- The transpose (R162): moved elements, or each row requantised to a column scale. -/
def ZTile.transpose (t : ZTile) (f : Nat) : ZTile :=
  if isScaled f then
    let cols := (List.range 32).map fun k => toBlock f 0 ((List.range 32).map fun c =>
      scaledVal f (t.el k c) (byteAt t.scales c) 0)
    { el := fun k c => ((cols.getD c ([], 0)).1).getD k 0, scales := cols.map fun x => BitVec.ofNat 8 x.2 }
  else { el := fun k c => t.el c k, scales := [] }

/-- The tiles of a compressing store, one after another: how many were stored, and where the next ones go. -/
def storeZGo (e r : Nat) (b : List Byte) : Nat → Nat → Nat → Nat → Dev → Dev × Nat × Res Unit
  | 0, i, _, _, d => (d, i, .ok ())
  | n + 1, i, at_, tat, d =>
    let f := zElem b; let size := bTile f
    match d.weltRead e r (dSrc b + size * i) size with
    | (.err x, d) => (d, i, .err x)
    | (.wait, d) => (d, i, .wait)
    | (.ok bs, d) =>
      let t := zTile f bs
      let c := zChoose b t
      let put := fun (x : Res Unit × Dev) (a : Nat) (bs : List Byte) =>
        match x with | (.ok _, d) => d.weltWrite e r a bs | x => x
      let out := t.store f c.1 false c.2
      let x := put (.ok (), d) at_ out
      let x := put x (dField b 32 8 + 8 * i) (leBytes 8 (t.word f c.1 false c.2).toNat)
      let tt := t.transpose f
      let tout := tt.store f c.1 true c.2
      let x := if zEmitT b then
          put (put x tat tout) (dField b 32 8 + 8 * zTiles b + 8 * i) (leBytes 8 (tt.word f c.1 true c.2).toNat)
        else x
      match x with
      | (.ok _, d) => storeZGo e r b n (i + 1) (at_ + out.length) (tat + tout.length) d
      | (.err y, d) => (d, i, .err y)
      | (.wait, d) => (d, i, .wait)

/-- The whole store; DONE counts source bytes (R256). -/
def runStoreZ (e r : Nat) (d : Dev) : Dev :=
  d.weltRun e r 6 <| whole fun x d =>
    let b := x.bytes
    let y := storeZGo e r b (zTiles b) 0 (dDst b) (dField b 40 8) d
    (y.1, bTile (zElem b) * y.2.1, y.2.2)

/-- Welt operation STORE_Z (R256). -/
def execStoreZ (e r : Nat) (s : State) : Host.Outcome State Fault Refusal := onUnit (ringOk e r) (runStoreZ e r) s

end Sys2Proof.Machine
end

