-- ==== Sys2Proof/Machine/WeltCommit.lean ====
section
/-!
DEFINITION. Welt commit operations (10 R324–R329; 04 R131–R138): shards, shadow writes, the overflow map and the rules of a scale
table, digests, the flip list, anchors, and the flips a COMMIT writes.
-/
namespace Sys2Proof.Machine

/-- The outcome of a commit operation: the device, the bytes moved, how it ended. -/
abbrev OpOut := Dev × Nat × Res Unit

/-- Go on with what an access answered. -/
def andThen {α : Type} (x : Res α × Dev) (f : α → Dev → OpOut) : OpOut :=
  match x with
  | (.ok a, d) => f a d
  | (.err n, d) => (d, 0, .err n)
  | (.wait, d) => (d, 0, .wait)

/-! ### Shards (R324, R325) -/

structure Shard where
  at_   : Nat
  bytes : List Byte
deriving DecidableEq, Repr

def Shard.active (h : Shard) : Nat := byteAt h.bytes 41 % 2
def Shard.buf (h : Shard) (i : Nat) : Nat := dField h.bytes (8 * i) 8
def Shard.tab (h : Shard) (i : Nat) : Nat := dField h.bytes (16 + 8 * i) 8
def Shard.rows (h : Shard) : Nat := dField h.bytes 32 4
def Shard.cols (h : Shard) : Nat := dField h.bytes 36 4
def Shard.elem (h : Shard) : Nat := byteAt h.bytes 40
def Shard.width (h : Shard) : Nat := fmtBits h.elem / 8
def Shard.count (h : Shard) : Nat := h.rows * h.cols
/-- The shard's own bytes, and its buffer size (R325). -/
def Shard.size (h : Shard) : Nat := h.count * h.width
def Shard.bufSize (h : Shard) : Nat := ceilDiv h.size 64 * 64
def Shard.step (h : Shard) : Nat := dField h.bytes 42 6
def Shard.digestValid (h : Shard) : Bool := nbit (byteAt h.bytes 41) 1
def Shard.digest (h : Shard) : List Byte := slice h.bytes 48 16
/-- Scale blocks across and in all (R131). -/
def Shard.across (h : Shard) : Nat := ceilDiv h.cols 64
def Shard.entries (h : Shard) : Nat := ceilDiv h.rows 64 * h.across
def Shard.bad (h : Shard) : Bool :=
  decide (2 < h.elem) || decide (4 ≤ byteAt h.bytes 41) || h.at_ % 64 ≠ 0 ||
  [h.buf 0, h.buf 1, h.tab 0, h.tab 1].any fun a => a % 64 ≠ 0

/-- Read the shard descriptor of a commit operation, and its active table's header when it has one; `bad_descriptor` where R325
says so. -/
def withShard (e r at_ : Nat) (d : Dev) (f : Shard → List Byte → Dev → OpOut) : OpOut :=
  if at_ % 64 ≠ 0 then (d, 0, .err 0x8A)
  else andThen (d.weltRead e r at_ 64) fun bs d =>
    let h : Shard := { at_, bytes := bs }
    if h.bad then (d, 0, .err 0x8A)
    else if h.tab h.active = 0 then f h [] d
    else andThen (d.weltRead e r (h.tab h.active) 64) fun hd d =>
      if dField hd 8 4 ≠ h.rows || dField hd 12 4 ≠ h.cols then (d, 0, .err 0x8A) else f h hd d

/-- A digest step (R327). -/
def Dev.digestStep (d : Dev) : Bool := d.stepNo % d.fld Fld.COB_STEP_CFG_DIGEST_N == 0

/-- The shard digest of a buffer and its table (R327), 16 bytes. -/
def shardDigest (data : List Byte) : List Byte := leBytes 8 (crc64 polyEcma data).toNat ++ leBytes 8 (crc64 polyIso data).toNat
def withDigest (e r : Nat) (h : Shard) (i : Nat) (d : Dev) (f : List Byte → Dev → OpOut) : OpOut :=
  andThen (d.weltRead e r (h.buf i) h.size) fun data d =>
    if h.tab i = 0 then f (shardDigest data) d
    else andThen (d.weltRead e r (h.tab i) (64 + 4 * h.entries)) fun tab d => f (shardDigest (data ++ tab)) d

/-- A commit operation of ring r. -/
def Dev.runCommit (d : Dev) (e r op : Nat) (f : List Byte → Dev → OpOut) : Dev :=
  d.weltRun e r op (whole fun x d => f x.bytes d)

/-! ### DIGEST, SHADOW_WRITE (R325) -/

def runDigest (e r : Nat) (d : Dev) : Dev :=
  d.runCommit e r 7 fun b d => withShard e r (dField b 24 8) d fun h _ d =>
    if dLen b ≠ h.bufSize then (d, 0, .err 0x8A)
    else if !d.digestStep then (d, 0, .ok ())
    else withDigest e r h (1 - h.active) d fun g d =>
      andThen (d.weltWrite e r (dDst b) (leBytes 6 d.stepNo ++ leBytes 10 0 ++ g)) fun _ d => (d, dLen b, .ok ())

def runShadow (e r : Nat) (d : Dev) : Dev :=
  d.runCommit e r 8 fun b d => withShard e r (dField b 24 8) d fun h _ d =>
    if h.bufSize < dField b 32 4 + dLen b then (d, 0, .err 0x8A)
    else weltMove (fun d o n => d.weltRead e r (dSrc b + o) n)
      (fun d o bs => d.weltWrite e r (h.buf (1 - h.active) + dField b 32 4 + o) bs) (dLen b / 1024 + 2) 0 (dLen b) d

/-! ### The overflow map and the rules (R133, R134, R138, R326) -/

/-- The elements of scale block j, in row-major order (R131). -/
def Shard.block (h : Shard) (j : Nat) : List Nat :=
  let r0 := j / h.across * 64; let c0 := j % h.across * 64
  (List.range (min 64 (h.rows - r0))).flatMap fun y => (List.range (min 64 (h.cols - c0))).map fun x => (r0 + y) * h.cols + c0 + x
/-- The scale block an element belongs to. -/
def Shard.blockOf (h : Shard) (i : Nat) : Nat := i / h.cols / 64 * h.across + i % h.cols / 64

/-- Set bit j of a map. -/
def setBit (m : List Byte) (j : Nat) : List Byte := m.set (j / 8) (m.getD (j / 8) 0 ||| BitVec.ofNat 8 (2 ^ (j % 8)))
def mapBit (m : List Byte) (j : Nat) : Bool := nbit (byteAt m (j / 8)) (j % 8)

/-- The program's map with the blocks that packed gradient blocks flag (R326). -/
def mapGrads (h : Shard) (e r at_ size off : Nat) : Nat → Dev → List Byte → (List Byte → Dev → OpOut) → OpOut
  | 0, d, m, f => f m d
  | n + 1, d, m, f =>
    mapGrads h e r at_ size off n d m fun m d =>
      andThen (d.weltRead e r (at_ + n * size + off) 1) fun bs d =>
        let on := nbit (byteAt bs 0) 0 || nbit (byteAt bs 0) 3
        f (if on then ((List.range 64).filter fun i => decide (64 * n + i < h.count)).foldl
             (fun m i => setBit m (h.blockOf (64 * n + i))) m else m) d

/-- What the rules decide for one block: its new entry, whether it keeps its old values, the power of two its values are multiplied
by, and whether E met its end (R133, R134, R138). -/
structure Rule where
  entry : Nat
  old   : Bool := false
  scale : Int := 0
  limit : Bool := false

/-- An entry's fields (Table — Scale table entry). -/
def entE (x : Nat) : Int := signed 8 x
def entCalm (x : Nat) : Nat := x / 2 ^ 8 % 2 ^ 16
def entUnscaled (x : Nat) : Bool := nbit x 24
def mkEntry (e : Int) (calm flags : Nat) : Nat := wrap 8 e + calm * 2 ^ 8 + flags * 2 ^ 24

/-- |v| < 2^k for a finite v. -/
def FV.below (v : FV) (k : Int) : Bool := v.isFin && v.abs.lt (.fin false 1 k)
/-- ⌊log2 |v|⌋ of a finite non-zero v. -/
def FV.log2 (v : FV) : Int := match v with | .fin _ n u => n.log2 + u | _ => 0
/-- The largest magnitude of finite values. -/
def maxMag (vs : List FV) : FV := vs.foldl (fun a v => if a.lt v.abs then v.abs else a) (.fin false 0 0)

def applyRule (limit : Int) (steps : Nat) (flagged : Bool) (x : Nat) (vs : List FV) : Rule :=
  let e := entE x
  let fin := vs.all FV.isFin
  if entUnscaled x then
    if flagged || !fin then { entry := mkEntry e (entCalm x) 3, old := true }
    else
      let m := maxMag vs
      let e' := if m.isZero then 0 else max (-128) (min 127 (FV.log2 m - limit + 2))
      { entry := mkEntry e' 0 0, scale := -e' }
  else if flagged || vs.any (fun v => !v.below limit) then
    if e = 127 then { entry := mkEntry e 0 2, old := true, limit := true }
    else { entry := mkEntry (e + 1) 0 6, old := true, scale := -1 }
  else if vs.all (fun v => v.below (limit - 2)) then
    if entCalm x + 1 < steps then { entry := mkEntry e (entCalm x + 1) 0 }
    else if e = -128 then { entry := mkEntry e 0 0 }
    else { entry := mkEntry (e - 1) 0 8, scale := 1 }
  else { entry := mkEntry e 0 0 }

/-- An element's code multiplied by 2^k, rounded once (R133 (e), R138). -/
def rescale (f : Nat) (k : Int) (x : Nat) : Nat := if k = 0 then x else encodeEl f ((decodeEl f x).scale k)

/-- The shadow buffer's bytes after the rules: `rules` by block. -/
def newShadow (h : Shard) (rules : List Rule) (old upd : List Byte) : List Byte :=
  let code := fun (l : List Byte) (i : Nat) => dField l (h.width * i) h.width
  (List.range h.count).flatMap fun i =>
    let k := rules.getD (h.blockOf i) { entry := 0 }
    leBytes h.width (rescale h.elem k.scale (code (if k.old then old else upd) i))

/-- Firmware reports a scale table by its address (R132, R136): an event of code 0, since the spec names none (DESIGN CHOICE, log 98). -/
def Dev.reportTable (d : Dev) (kind unit region at_ : Nat) : Dev :=
  d.event { code := 0, kind, unit, region, detail := leBytes 8 at_ }

/-- The rules of a shard with its map (R326): a table whose ENTRIES is wrong is reported and none applied (R132); with a table the rules of R133, R134 and R138, else its flagged blocks keep their old
values. -/
def applyTable (e r : Nat) (h : Shard) (hd m : List Byte) (n : Nat) (d : Dev) : OpOut :=
  let a := h.active; let s := 1 - a
  andThen (d.weltRead e r (h.buf a) h.size) fun old d =>
  andThen (d.weltRead e r (h.buf s) h.size) fun upd d =>
    if hd.isEmpty then
      let rules := (List.range h.entries).map fun j => { entry := 0, old := mapBit m j : Rule }
      andThen (d.weltWrite e r (h.buf s) (newShadow h rules old upd)) fun _ d => (d, n, .ok ())
    else if dField hd 20 4 ≠ h.entries then (d.reportTable 0x0A e r (h.tab a), 0, .err 0x8A)
    else andThen (d.weltRead e r (h.tab a + 64) (4 * h.entries)) fun ents d =>
      let limit := signed 8 (byteAt hd 16)
      let steps := if dField hd 18 2 = 0 then 1000 else dField hd 18 2
      let rules := (List.range h.entries).map fun j =>
        applyRule limit steps (mapBit m j) (dField ents (4 * j) 4)
          ((h.block j).map fun i => decodeEl h.elem (dField upd (h.width * i) h.width))
      let ents := rules.map Rule.entry
      let hd := slice hd 0 24 ++ leBytes 6 d.stepNo ++ slice hd 30 2 ++ leBytes 4 (ents.countP entUnscaled) ++ hd.drop 36
      let d := ((List.range h.entries).zip rules).foldl (fun d x =>
        if x.2.limit then d.event { code := 0x305, kind := 0x0A, unit := e, region := r,
                                    detail := leBytes 8 (h.tab a) ++ leBytes 4 x.1 } else d) d
      andThen (d.weltWrite e r (h.tab s) (hd ++ ents.flatMap (leBytes 4))) fun _ d =>
        andThen (d.weltWrite e r (h.buf s) (newShadow h rules old upd)) fun _ d => (d, n, .ok ())

def runScaleRules (e r : Nat) (d : Dev) : Dev :=
  d.runCommit e r 9 fun b d => withShard e r (dField b 24 8) d fun h hd d =>
    if dLen b < ceilDiv h.entries 512 * 64 then (d, 0, .err 0x8A)
    else andThen (d.weltRead e r (dSrc b) (dLen b)) fun m d =>
      let narrow := byteAt b 44 == 1
      mapGrads h e r (dField b 32 8) (if narrow then 256 else 384) (if narrow then 193 else 321) (dField b 40 4) d m
        fun m d => andThen (d.weltWrite e r (dDst b) m) fun _ d => applyTable e r h hd m (dLen b) d

/-! ### FLIP and the flips of a commit (R327) -/

def runFlip (e r : Nat) (d : Dev) : Dev :=
  d.runCommit e r 0xA fun b d => withShard e r (dField b 24 8) d fun h _ d =>
    let m := d.memc e
    if m.flips.contains h.at_ then (d, dLen b, .ok ())
    else if 256 ≤ m.flips.length then (d, 0, .err 0x93)
    else (d.setMemc e { m with flips := m.flips ++ [h.at_] }, dLen b, .ok ())

/-- A shard whose ANCHOR is in progress on any engine. -/
def Dev.anchoring (d : Dev) (at_ : Nat) : Bool :=
  (List.range 20).any fun k => (d.memc k).descs.any fun x => !x.ran && dOp x.bytes == 0xB && dField x.bytes 24 8 == at_

/-- One write of a flipped descriptor: ACTIVE inverted, STEP, the digest on a digest step. -/
def flipOnce (e at_ step : Nat) (d : Dev) : OpOut :=
  andThen (d.weltRead e 0 at_ 64) fun bs d =>
    let h : Shard := { at_, bytes := bs }
    let put := fun (valid : Bool) (g : List Byte) (d : Dev) =>
      andThen (d.weltWrite e 0 at_ (slice bs 0 41 ++ [BitVec.ofNat 8 ((1 - h.active) + 2 * b2n valid)] ++ leBytes 6 step ++ g))
        fun _ d => (d, 64, .ok ())
    if step % d.fld Fld.COB_STEP_CFG_DIGEST_N = 0 then withDigest e 0 h (1 - h.active) d (put true)
    else put false h.digest d

/-- A flip with its retry; COMMIT_FLIP_FAIL when that fails too. None while its memory holds it. -/
def flipOne (e at_ step : Nat) (d : Dev) : Option Dev :=
  match flipOnce e at_ step d with
  | (d, _, .ok _) => some d
  | (_, _, .wait) => none
  | (d, _, .err _) =>
    match flipOnce e at_ step d with
    | (d, _, .ok _) => some d
    | (_, _, .wait) => none
    | (d, _, .err x) => some (d.event { code := 0x504, kind := 0x0A, unit := e, detail := leBytes 8 at_ ++ leBytes 2 x })

/-- Write an engine's flip list in order; what cannot be written yet stays. -/
def writeFlips (e step : Nat) : List Nat → Dev → List Nat × Dev
  | [], d => ([], d)
  | a :: as, d =>
    match (if d.anchoring a then none else flipOne e a step d) with
    | some d => writeFlips e step as d
    | none => let r := writeFlips e step as d; (a :: r.1, r.2)

/-! ### ANCHOR (R329) -/

def runAnchor (e r : Nat) (d : Dev) : Dev :=
  d.runCommit e r 0xB fun b d => withShard e r (dField b 24 8) d fun h hd d =>
    let a := h.active
    let tabLen := if hd.isEmpty then 0 else 64 + 4 * h.entries
    let head := fun (v : Nat) => leBytes 8 h.at_ ++ leBytes 6 h.step ++ leBytes 1 v ++ leBytes 1 0 ++ h.digest ++
      leBytes 4 h.bufSize ++ leBytes 4 tabLen ++ leBytes 24 0
    if dLen b < 64 + h.bufSize + tabLen then (d, 0, .err 0x8A)
    else andThen (d.weltWrite e r (dDst b) (head 0)) fun _ d =>
      if !h.digestValid || h.step ≠ d.fld Fld.COB_STEP_COMMITTED_STEP then (d, 0, .err 0)
      else andThen (d.weltRead e r (h.buf a) h.bufSize) fun buf d =>
        andThen (d.weltWrite e r (dDst b + 64) buf) fun _ d =>
          andThen (if tabLen = 0 then (.ok [], d) else d.weltRead e r (h.tab a) tabLen) fun tab d =>
            andThen (if tabLen = 0 then (.ok (), d) else d.weltWrite e r (dDst b + 64 + h.bufSize) tab) fun _ d =>
              if shardDigest (buf.take h.size ++ tab) ≠ h.digest then (d, 64 + h.bufSize + tabLen, .err 0)
              else andThen (d.weltWrite e r (dDst b) (head 1)) fun _ d => (d, dLen b, .ok ())

/-- Welt operation DIGEST (R325, R327). -/
def execDigest (e r : Nat) (s : State) : Host.Outcome State Fault Refusal := onUnit (ringOk e r) (runDigest e r) s
/-- Welt operation SHADOW_WRITE (R325). -/
def execShadowWrite (e r : Nat) (s : State) : Host.Outcome State Fault Refusal := onUnit (ringOk e r) (runShadow e r) s
/-- Welt operation SCALE_RULES (R326). -/
def execScaleRules (e r : Nat) (s : State) : Host.Outcome State Fault Refusal := onUnit (ringOk e r) (runScaleRules e r) s
/-- Welt operation FLIP (R327). -/
def execFlip (e r : Nat) (s : State) : Host.Outcome State Fault Refusal := onUnit (ringOk e r) (runFlip e r) s
/-- Welt operation ANCHOR (R329). -/
def execAnchor (e r : Nat) (s : State) : Host.Outcome State Fault Refusal := onUnit (ringOk e r) (runAnchor e r) s

end Sys2Proof.Machine
end

