-- ==== Sys2Proof/Machine/StepCommit.lean ====
section
/-!
DEFINITION. Steps (10 R315–R334): arming and starting, sealing, the verdict, the flips, expel and the step report.
-/
namespace Sys2Proof.Machine

/-! ### The step report (R334) -/

/-- A record of the report of step `step`: device and epoch as they are, FABRIC_TIME given. -/
def Dev.report (d : Dev) (step : Nat) (e : Event) (time : Nat) : Dev :=
  { d with cob := { d.cob with log := d.cob.log ++ [{ e with kind := 0x24, time := time, step := step, epoch := d.epoch }] } }

/-- A count in n bytes, saturating. -/
def satBytes (n x : Nat) : List Byte := leBytes n (min x (2 ^ (8 * n) - 1))

/-- The SLUICE_REPORT of entry n of a logical core when it is a valid owner entry that counted the step. -/
def Dev.sluiceRecord (d : Dev) (step lid n : Nat) : Option Event :=
  match d.hostOf lid with
  | none => none
  | some c =>
    let k := d.core c
    if !k.flag (slu Fld.CORE_SLU_CFG_VALID n) || !k.flag (slu Fld.CORE_SLU_CFG_ROLE n) then none
    else
      let at_ := k.fld (slu Fld.CORE_SLU_STEP_STEP n)
      let rec_ := fun (sk au mi lo ff : Nat) (unknown : Bool) =>
        let detail := leBytes 2 (k.fld (slu Fld.CORE_SLU_CFG_LAYER n)) ++
          leBytes 1 (k.fld (slu Fld.CORE_SLU_CFG_STRICT n) + 2 * b2n (ff ≠ 0xFFFFFF) + 4 * b2n unknown) ++ leBytes 1 0 ++
          leBytes 4 sk ++ leBytes 4 au ++ leBytes 4 mi ++ leBytes 4 lo ++ leBytes 3 ff
        some ({ code := 0x502, kind := 0x24, lid, detail } : Event)
      if at_ = step then
        rec_ (k.fld (slu Fld.CORE_SLU_SKIPPED_CUR n)) (k.fld (slu Fld.CORE_SLU_AUDITED_CUR n))
          (k.fld (slu Fld.CORE_SLU_MISSES_CUR n)) (k.fld (slu Fld.CORE_SLU_LOST_CUR n))
          (k.fld (slu Fld.CORE_SLU_VERDICT_FALLBACK_FROM n)) false
      else if at_ < step then none
      else
        let v := match d.flagAt (k.fld (slu Fld.CORE_SLU_VERDICT_CORE n)) (k.fld (slu Fld.CORE_SLU_VERDICT_FLAG n)) with
          | .inr f => d.flagVal f
          | .inl _ => 0
        let known := v / 2 ^ 48 == step % 2 ^ 16
        rec_ (k.fld (slu Fld.CORE_SLU_SKIPPED_LAST n)) (k.fld (slu Fld.CORE_SLU_AUDITED_LAST n))
          (k.fld (slu Fld.CORE_SLU_MISSES_LAST n)) (k.fld (slu Fld.CORE_SLU_LOST_LAST n))
          (if known then v / 2 ^ 24 % 2 ^ 24 else 0xFFFFFF) (!known)

/-- The SLACK_SHORTFALL of one Eddy watch spill. -/
def slackRecord (x : Nat × Nat × Nat × Nat × Nat) : Event :=
  { code := 0x503, kind := 0x24, lid := x.1, idKind := 1, id := x.2.1, detail := leBytes 1 x.2.2.1 ++ leBytes 1 0 ++ leBytes 2 x.2.2.2.1 }

/-- Spills in order of the fabric time at which they began. -/
def byBegin : List (Nat × Nat × Nat × Nat × Nat) → List (Nat × Nat × Nat × Nat × Nat)
  | [] => []
  | x :: l => ins x (byBegin l)
where
  ins (x : Nat × Nat × Nat × Nat × Nat) : List (Nat × Nat × Nat × Nat × Nat) → List (Nat × Nat × Nat × Nat × Nat)
    | [] => [x]
    | y :: l => if x.2.2.2.2 ≤ y.2.2.2.2 then x :: y :: l else y :: ins x l

/-- The report of a step that has reached its final state. -/
def Dev.reportOne (d : Dev) (s : StepDue) : Dev :=
  let slu := (List.range numLogical).flatMap fun l => (List.range 8).filterMap (d.sluiceRecord s.step l)
  let slack := (byBegin s.spills).take 4096
  let detail :=
    leBytes 1 s.state ++ leBytes 1 s.cause ++ leBytes 2 slu.length ++ leBytes 2 slack.length ++
    satBytes 2 s.spills.length ++ satBytes 2 s.shorts ++ satBytes 2 s.plaus ++ satBytes 2 s.nonfin ++ satBytes 2 s.adders ++
    leBytes 4 0 ++ leBytes 8 s.endAt
  let d := d.report s.step { code := 0x501, kind := 0x24, detail } d.t
  let d := slu.foldl (fun d e => d.report s.step e d.t) d
  slack.foldl (fun d x => d.report s.step (slackRecord x) x.2.2.2.2) d

/-- The reports that are due, each once. -/
def Dev.stepReport (d : Dev) : Dev :=
  d.step.due.foldl Dev.reportOne { d with step := { d.step with due := [] } }

/-! ### Arming and starting (R315, R316) -/

/-- COB_STEP_STATUS comes to describe a new step: its seals are counted from zero, its report counts nothing yet, and the root may decide
it anew where it described the same number before (log 40). -/
def Dev.describeStep (d : Dev) (step st cause : Nat) : Dev :=
  let again := d.fld Fld.COB_STEP_STATUS_STEP == step && d.fld Fld.COB_STEP_DECISION_STEP == step
  let d := ((d.setFld Fld.COB_STEP_STATUS_STEP step).setFld Fld.COB_STEP_STATUS_STATE st).setFld Fld.COB_STEP_STATUS_CAUSE cause
  let d := d.setReg 0x840 0
  let d := if again then d.setFld Fld.COB_STEP_DECISION_VERDICT 0 else d
  let s := d.step
  { d with step := { inForce := s.inForce, due := s.due,
                     late := (match s.late with | some x => if x.due.step = step then none else some x | none => none) } }

/-- A step still SEALED or COMMITTING gives COB_STEP_STATUS up to a new one; its flips stay with it (R316, log 41). -/
def Dev.leaveLate (d : Dev) : Dev :=
  if d.stepState = 3 || d.stepState = 4 then
    let x : Late := { due := d.dueNow 5 0, go := d.stepState == 4, flips := d.mems.map fun e => (e.1, e.2.flips) }
    { d with step := { d.step with late := some x }, mems := d.mems.map fun e => (e.1, { e.2 with flips := [] }) }
  else d

/-- A step that cannot start is INCOMPLETE at once, and its failing seal goes out (R316). -/
def Dev.missed (d : Dev) (step cause : Nat) : Dev := ((d.leaveLate.describeStep step 7 cause).endStep 7 cause).failSeal

/-- ARM is set on a step that may be armed: one whose start tick has passed is INCOMPLETE at once (R316); a step still SEALED or
COMMITTING keeps COB_STEP_STATUS until the new one's start tick. -/
def Dev.armStep (d : Dev) (step : Nat) : Dev :=
  let d := d.setFld Fld.COB_STEP_NEXT_STEP step
  if d.fld Fld.COB_STEP_START_TICK ≤ d.t then d.missed step 6
  else
    let d := d.setFld Fld.COB_STEP_NEXT_ARM 1
    if d.stepState = 3 || d.stepState = 4 then d else d.describeStep step 1 0

/-- Engine e still has flips to write (R316). -/
def Dev.hasFlips (d : Dev) (e : Nat) : Bool :=
  !(d.memc e).flips.isEmpty || match d.step.late with | some x => !(NMap.get [] x.flips e).isEmpty | none => false

/-- REPEAT ring r of engine e meets a start tick (R248): it starts its pass at HEAD 0; a pass not completed raises WELT_OVERRUN and
aborts the step; a ring whose engine still has flips to write does not start (R316). -/
def Dev.restartRing (d : Dev) (e r : Nat) : Dev :=
  if d.ring Fld.HBM_WELT_RING_CTRL_REPEAT e r = 0 || d.ring Fld.HBM_WELT_RING_CTRL_ENABLE e r = 0 then d
  else
    let m := d.memc e
    if nbit m.passing r && (d.ring Fld.HBM_WELT_RING_CTRL_HEAD e r ≠ d.ring Fld.HBM_WELT_RING_CTRL_TAIL e r || !(d.live e r).isEmpty)
    then (d.event { code := 0x304, kind := 0x0A, unit := e, region := r, detail := leBytes 2 r }).abortStep
    else if d.hasFlips e || !d.inProgress then d.setMemc e { m with passing := m.passing &&& ((2 ^ 16 - 1) ^^^ 2 ^ r) }
    else
      ((d.setMemc e { m with passing := m.passing ||| 2 ^ r }).setFld (ringFld Fld.HBM_WELT_RING_CTRL_HEAD e r) 0).setFld
        (ringFld Fld.HBM_WELT_RING_CTRL_STATE e r) 1

def Dev.restartEngine (d : Dev) (e : Nat) : Dev := (List.range 16).foldl (fun d r => d.restartRing e r) d
def Dev.restartRings (d : Dev) : Dev := (List.range 20).foldl Dev.restartEngine d

/-- The Ford digest bank of the step is cleared at every port (R328). -/
def Dev.clearDigests (d : Dev) (step : Nat) : Dev :=
  (List.range 20).foldl (fun d p =>
    let o := fordBase p + 8 * (step % 2)
    ((d.setReg (o + 0x80) 0).setReg (o + 0x90) 0).setFld (Fld.FORD_DIGEST_STEP_STEP.at (fordBase p)) step) d

/-- Every confluence entry meets the start tick (R241). -/
def Dev.openEntries (d : Dev) (step start : Nat) : Dev :=
  (List.range numRouters).foldl (fun d r => (List.range 64).foldl (fun d n => d.confOpen r n step start) d) d

/-- Why the armed step cannot start at its tick: a row shift or more than 16 unhosted cores (R352, R358), or the previous step still SEALED
or COMMITTING (R316); 0 where it can. -/
def Dev.startCause (d : Dev) : Nat :=
  if d.heal.shift.isSome || (d.heal.want.isSome && d.flag Fld.HEAL_POLICY_AUTO_SHIFT) || decide (16 < d.map.unhosted.length) then 1
  else if d.stepState = 3 || d.stepState = 4 then 7 else 0

/-- The state of the step at its start tick: one that a FAIL verdict has ended already stays so. -/
def Dev.enterStep (d : Dev) (step : Nat) : Dev :=
  if d.fld Fld.COB_STEP_STATUS_STEP == step && d.stepState == 7 then d
  else if d.startCause ≠ 0 then d.missed step d.startCause
  else if d.stepState = 1 then d.setFld Fld.COB_STEP_STATUS_STATE 2
  else d.describeStep step 2 0

/-- The start tick S of the armed step (R315). -/
def stepStart (d : Dev) : Dev :=
  let s := d.fld Fld.COB_STEP_START_TICK
  if !d.flag Fld.COB_STEP_NEXT_ARM || d.t < s then d
  else
    let step := d.fld Fld.COB_STEP_NEXT_STEP
    let d := ((d.setFld Fld.COB_STEP_NEXT_ARM 0).openEntries step s).clearDigests step
    let d := ({ d with step := { d.step with inForce := step } } : Dev).enterStep step
    ({ d with step := { d.step with start := s } } : Dev).restartRings

/-! ### Sealing and deciding (R318–R321) -/

/-- A REPEAT ring has completed its pass. -/
def Dev.passDone (d : Dev) (e r : Nat) : Bool :=
  d.ring Fld.HBM_WELT_RING_CTRL_REPEAT e r == 0 || d.ring Fld.HBM_WELT_RING_CTRL_ENABLE e r == 0 ||
  (nbit (d.memc e).passing r && (d.live e r).isEmpty && d.ring Fld.HBM_WELT_RING_CTRL_STATE e r == 1 &&
    d.ring Fld.HBM_WELT_RING_CTRL_HEAD e r == d.ring Fld.HBM_WELT_RING_CTRL_TAIL e r)

/-- The conditions of R318. -/
def Dev.maySeal (d : Dev) : Bool :=
  d.inProgress && d.step.barDone && decide (d.t < d.sealBy) &&
  (List.range 20).all fun e => (List.range 16).all fun r => d.passDone e r

/-- The device seals its step: its own seal counts, and goes on once its subtree is complete. -/
def stepSeal (d : Dev) : Dev :=
  if !d.maySeal then d
  else
    let d := d.setFld Fld.COB_STEP_STATUS_STATE 3
    let d := { d with step := { d.step with sealedAt := d.t } }
    (d.addFld Fld.COB_STEP_SEALS_COUNT 1).collect

/-- At D a device that has not sealed is INCOMPLETE, and a root that has not decided decides FAIL (R317, R320). -/
def sealDeadline (d : Dev) : Dev :=
  if d.t < d.sealBy then d
  else if d.inProgress then d.incomplete 4
  else if d.stepState = 3 && d.collector.1.isNone && !d.flag Fld.COB_STEP_CMD_EXPEL then
    d.decideStep (d.fld Fld.COB_STEP_STATUS_STEP) false
  else d

/-- No verdict VERDICT_WAIT µs after the seal (R322). -/
def stepUndecided (d : Dev) : Dev :=
  if d.stepState ≠ 3 || d.step.undecided || d.t < d.step.sealedAt + 1000 * d.fld Fld.COB_STEP_CFG_VERDICT_WAIT then d
  else ({ d with step := { d.step with undecided := true } } : Dev).event { code := 0x500, kind := 0x24 }

/-! ### Flips (R322, R323, R327) -/

/-- COB_STEP_COMMITTED becomes a step. -/
def Dev.committed (d : Dev) (step : Nat) : Dev :=
  (d.setFld Fld.COB_STEP_COMMITTED_STEP step).setFld Fld.COB_STEP_COMMITTED_VALID 1

/-- Every engine writes its flip list. -/
def Dev.writeAllFlips (d : Dev) (step : Nat) : Dev :=
  (List.range 20).foldl (fun d k =>
    let r := writeFlips k step (d.memc k).flips d
    r.2.setMemc k { r.2.memc k with flips := r.1 }) d

/-- Every engine writes the flips of an overtaken step; a REPEAT ring that waited for the last of its engine starts its pass (R316). -/
def Dev.writeLate (d : Dev) (x : Late) : Dev :=
  (List.range 20).foldl (fun d k =>
    match d.step.late with
    | none => d
    | some y =>
      let l := NMap.get [] y.flips k
      let r := writeFlips k x.due.step l d
      let d := { r.2 with step := { r.2.step with late := some { y with flips := NMap.set [] y.flips k r.1 } } }
      if !l.isEmpty && r.1.isEmpty then d.restartEngine k else d) d

/-- An overtaken step that is to commit writes its flips; it is committed once none is left. -/
def Dev.commitLate (d : Dev) : Dev :=
  match d.step.late with
  | some x =>
    if x.go then
      let d := d.writeLate x
      match d.step.late with
      | some y => if y.flips.any fun e => !e.2.isEmpty then d
                  else ({ d.committed x.due.step with step := { d.step with late := none } } : Dev).addDue { x.due with endAt := d.t }
      | none => d
    else d
  | none => d

/-- The flips of the COMMITTING step are written; the step is COMMITTED once none is left. -/
def commitFlipsWritten (d : Dev) : Dev :=
  if d.stepState = 4 then
    let step := d.fld Fld.COB_STEP_STATUS_STEP
    let d := d.writeAllFlips step
    if d.flipsLeft then d
    else
      let d := (d.committed step).setFld Fld.COB_STEP_STATUS_STATE 5
      d.addDue (d.dueNow 5 (d.fld Fld.COB_STEP_STATUS_CAUSE))
  else d.commitLate

/-- COMMIT_SEALED: the device commits a SEALED step as on a COMMIT verdict. -/
def Dev.commitSealed (d : Dev) : Dev := if d.stepState = 3 then d.setFld Fld.COB_STEP_STATUS_STATE 4 else d
/-- FAIL_SEALED: its flips are discarded, the step is INCOMPLETE, its failing seal goes out (R319). -/
def Dev.failSealed (d : Dev) : Dev := if d.stepState = 3 then (d.endStep 7 5).failSeal else d

/-! ### Expel (R330) -/

/-- The own failing seal of the step on its way out of the device. -/
def Dev.sealLeaving (d : Dev) : Bool :=
  let own := fun (p : Packet) => p.ptype == .barEnter && p.srcDev == d.devId && p.aux == 0xA0000000
  ((d.toSend cobNode 0).any fun y => y.2.ptype == .barEnter && y.2.aux == 0xA0000000) ||
  (d.routers.any fun e => e.2.q.any (fun k => k.2.any fun y => own y.p) || e.2.fly.any fun k => k.2.any own) ||
  (List.range 20).any fun p => (d.port p).unsent.any own

/-- The expel takes the ports from UP to ISOLATED once the failing seal, which goes first, has left the device (log 93). -/
def Dev.expelPorts (d : Dev) : Dev :=
  if !d.flag Fld.COB_STEP_CMD_EXPEL || !(d.ports.any fun e => e.2.expelled) || d.sealLeaving then d
  else (List.range 20).foldl (fun d p => if (d.port p).expelled && d.portState p == 2 then d.isolate p else d) d

/-- EXPEL = 1: the failing seal first, then every UP port is ISOLATED; EXPEL = 0 gives back the ports the expel isolated. -/
def Dev.setExpel (d : Dev) (on : Bool) : Dev :=
  if on then
    let d := if d.inProgress then (d.endStep 6 8).failSeal else d
    let d := d.setFld Fld.COB_STEP_CMD_EXPEL 1
    ((List.range 20).foldl (fun d p => if d.portState p = 2 then d.modPort p fun x => { x with expelled := true } else d) d).expelPorts
  else
    let d := d.setFld Fld.COB_STEP_CMD_EXPEL 0
    (List.range 20).foldl (fun d p =>
      let x := d.port p
      if x.expelled then
        let d := d.setPort p { x with expelled := false }
        if d.portState p = 4 && !x.changed && d.fld Fld.COB_BRINGUP_STATE ≠ 7 then d.setPfld Fld.FORD_STATE_STATE p 2 else d
      else d) d

/-- STEP_START (R315, R316). -/
def execStepStart (s : State) : Host.Outcome State Fault Refusal := effect stepStart s
/-- STEP_SEAL (R318). -/
def execStepSeal (s : State) : Host.Outcome State Fault Refusal := effect stepSeal s
/-- SEAL_DEADLINE (R318, R320). -/
def execSealDeadline (s : State) : Host.Outcome State Fault Refusal := effect sealDeadline s
/-- SEAL_ARRIVAL (R319, R320). -/
def execSealArrival (step count : Nat) (failing : Bool) (s : State) : Host.Outcome State Fault Refusal :=
  effect (fun d => d.sealIn step count failing) s
/-- VERDICT_ARRIVAL (R321, R322, R330). -/
def execVerdictArrival (step : Nat) (commit : Bool) (s : State) : Host.Outcome State Fault Refusal :=
  effect (fun d => if d.flag Fld.COB_STEP_CMD_EXPEL then d else d.verdict step commit) s
/-- COMMIT_FLIPS_WRITTEN (R327). -/
def execCommitFlipsWritten (s : State) : Host.Outcome State Fault Refusal := effect commitFlipsWritten s
/-- STEP_UNDECIDED (R322). -/
def execStepUndecided (s : State) : Host.Outcome State Fault Refusal := effect stepUndecided s
/-- STEP_REPORT (R334). -/
def execStepReport (s : State) : Host.Outcome State Fault Refusal := effect Dev.stepReport s

end Sys2Proof.Machine
end

