-- ==== Sys2Proof/Machine/Epoch.lean ====
section
/-!
DEFINITION. Epochs and starts (11 R360–R364; 06 R203–R206; 01 R22; 02 R36, R37): the epoch tick with every change scheduled for
it, the map's flip, forced reconfiguration, units that lag, and the start tick.
-/
namespace Sys2Proof.Machine

/-! ### The map (R22, R349, R364) -/

/-- The physical cores whose logical core changes between two banks, unhosted logical cores being held by none. -/
def Dev.moved (d : Dev) (new : MapBank) (unhosted : List Nat) : List Nat :=
  let holds := fun (m : MapBank) (un : List Nat) (c : Nat) => (m.toLog c).bind fun l => if un.contains l then none else some l
  (List.range numCores).filter fun c => holds d.map.cur d.map.unhosted c ≠ holds new unhosted c

/-- What a physical core holds once the map gives it another logical core, or none: the logical core's state with the stored
errors of its scratchpad, on its way until STATE_MOVE_END (R349); a fresh EMPTY one where the state does not move (R348). The silicon
registers stay (R475): STATE_EPOCH names the epoch of a change of state (R35), PC and STALL_RUN keep what they held when RUNNING was
left and STALL_RUN is 0 once it is entered (R477), and POWERED and WAKING stay but for banks whose contents move in. A core that
holds no logical core reads its logical-state registers at their reset values: R475 leaves open what the silicon holds (DESIGN
CHOICE, log 91). -/
def Dev.arrive (d : Dev) (new : MapBank) (unhosted noMove : List Nat) (c : Nat) : Core :=
  let k := d.core c
  let was := d.coreState c
  let settle := fun (l : LCore) (holds : Bool) (sil : Silicon) =>
    let st := if sil.testing then .underTest else if holds then l.state else .offline
    ({ log := l,
       sil := { sil with epochIn := if st == was then k.sil.epochIn else d.epoch, block := 0, blocked := false, moving := sil.moving,
                         stall := if st == .running then 0 else k.sil.stall,
                         pcHeld := if k.log.state == .running then k.log.pc else k.sil.pcHeld } } : Core).startWake
  let fresh := fun (holds : Bool) => settle {} holds { k.sil with errs := [], fold := [], moving := false }
  match new.toLog c with
  | none => fresh false
  | some l =>
    if unhosted.contains l then fresh false
    else if noMove.contains l || d.map.unhosted.contains l then fresh true
    else
      let o := d.core (d.map.cur.toPhys l)
      let gate := o.fld Fld.CORE_BANK_GATE_GATE
      let filled := (List.range 8).foldl (fun a b => if nbit gate b then a else a + 2 ^ b) 0
      settle o.log true { k.sil with errs := o.sil.errs, fold := o.sil.fold, moving := true, powered := k.sil.powered ||| filled,
                                     waking := k.sil.waking.filter fun b => nbit gate b }

/-- The cores hold what `new` gives them; what the operations of a logical core that loses its state still hold is discarded and
counted (R231). -/
def Dev.rehost (d : Dev) (new : MapBank) (unhosted noMove : List Nat) : Dev :=
  let cs := (d.moved new unhosted).map fun c => (c, d.arrive new unhosted noMove c)
  let lost := cs.filterMap fun x => (d.lidOf x.1).bind fun l => if unhosted.contains l || noMove.contains l then some x.1 else none
  let d := lost.foldl (fun d c => (d.discardOps c 0).leaveBars c) d
  let d := cs.foldl (fun d x => d.setCore x.1 x.2) d
  { d with map := { d.map with unhosted } }

/-- A logical core loses its host (R352). -/
def Dev.unhost (d : Dev) (lids : List Nat) : Dev :=
  (d.rehost d.map.cur (d.map.unhosted ++ lids) []).setFld Fld.HEAL_STATUS_SAFE_AT_RESET 1

/-- The shift's map is in force (R357): the vacated row, the failed core fenced, the moves done. -/
def Dev.finishShift (d : Dev) (x : Shift) : Dev :=
  let d := (List.range numCores).foldl (fun d c =>
    let k := d.core c
    if k.sil.moving then d.setCore c { k with sil := { k.sil with moving := false } } else d) d
  let d := match x.lost with
    | some c => d.modCore c fun k => k.leaveTest d.epoch
    | none => d
  let d := (d.setFld Fld.HEAL_STATUS_SHIFT_WANTED 0).event { code := 0x602, kind := 0x24, detail := leBytes 2 x.row }
  { d with heal := { d.heal with shift := none, want := none } }

/-- A scheduled flip of the map banks takes effect; a flip of a row shift ends it. -/
def Dev.flipMap (d : Dev) : Dev :=
  let shift := d.heal.shift.filter fun x => x.phase == 5
  let unhosted := match shift with
    | some x => d.map.unhosted.filter fun l => l / 1024 ≠ x.row
    | none => d.map.unhosted
  let d := d.rehost d.map.shadow unhosted d.map.noMove
  let d := { d with map := { d.map with active := !d.map.active, flip := none, noMove := [], last := d.epoch } }
  match shift with | some x => d.finishShift x | none => d

/-- Packets of the epoch before the last flip that an interface still holds (R364). -/
def Dev.oldHeld (d : Dev) : Bool :=
  let old := fun (p : Packet) => (d.map.last + 3) % 4 == p.epoch % 4
  decide (d.epoch = d.map.last) &&
  (d.arrived.any (fun x => old x.2.p) ||
    d.routers.any fun r => r.2.q.any (fun q => q.2.any fun x => old x.p) || r.2.fly.any fun q => q.2.any old)

/-! ### Forced reconfiguration (R203–R206) -/

/-- Words and seals a core holds. -/
def LCore.heldWords (l : LCore) : Nat := (l.inq.map fun e => e.2.q.length + e.2.seg.length).foldl (· + ·) 0

/-- After a reset that discarded merge entries, every contribution that core c's operations still await an answer for completes with
`unit_reset` (R224). -/
def Dev.endUnanswered (d : Dev) (c : Nat) : Dev :=
  if !d.cob.mergeLost then d
  else ((d.core c).log.ops.filter fun o => o.out.any fun q => q.1.ptype == .contrib).foldl (fun d o =>
    d.settleOp c { (o.worse 2 0x8E) with out := o.out.filter fun q => q.1.ptype ≠ .contrib, todo := [] }) d
/-- The blocks a gateway forwarded and awaits an answer for end in the same way. -/
def Dev.endForwards (d : Dev) (r : Nat) : Dev :=
  let g := d.gw r
  if !d.cob.mergeLost || g.fwd.isEmpty then d
  else g.fwd.foldl (fun d x => d.fwdFailed r x.1 x.2 0x8E) (d.setGw r { g with fwd := [] })

/-- One core's forced reconfiguration, `lost` of its words having been left uncopied. -/
def Dev.forceCore (d : Dev) (c lost : Nat) : Dev :=
  let d := d.endUnanswered c
  let st := (d.core c).log.state
  let d := if st == .running || st == .done then d.toLoaded c else d
  d.modCore c fun k =>
    let n := k.log.heldWords
    let k := (List.range 32).foldl (fun k q =>
      let x := k.log.inQ q; let o := k.log.outQ q
      (k.setInQ q { agen := (x.agen + 2) % 4 }).setOutQ q { o with credits := 8, gen := (o.gen + 2) % 4 }) k
    let k := (k.setFld Fld.CORE_STITCH_GEN_CFG_GEN (k.gen + 2)).addFld Fld.CORE_STITCH_GEN_FORCE_COUNT 1
    let k := k.setFld Fld.CORE_EDDY_STATUS_RESERVED 0
    (k.setFld Fld.CORE_STITCH_FORCED_DISCARDED n).setFld Fld.CORE_STITCH_FORCED_UNCAPTURED lost

/-- An engine's edge streams take their generation plus 2 and 8 credits (R254). -/
def Dev.forceEdges (d : Dev) (e : Nat) : Dev :=
  let m := d.memc e
  d.setMemc e { m with edges := (List.range 128).foldl (fun es q =>
    let x := NMap.get {} es q
    NMap.set {} es q { agen := (x.agen + 2) % 4, gen := (x.gen + 2) % 4 }) m.edges }

/-- The device's forced reconfiguration: every core but those that lag, which apply it when they catch up (R206). `lost` gives the
uncopied words of a core. -/
def Dev.force (d : Dev) (lost : Nat → Nat) : Dev :=
  let d := (List.range numCores).foldl (fun d c =>
    if (d.lidOf c).isNone then d
    else if d.lagging 1 c then
      let d := d.endUnanswered c
      { d with cob := { d.cob with lag := d.cob.lag.map fun x => if x.kind = 1 && x.unit = c then { x with force := true } else x } }
    else d.forceCore c (lost c)) d
  let d := (List.range 16).foldl Dev.forceEdges d
  let d := (List.range numRouters).foldl Dev.endForwards d
  let d := { d with cob := { d.cob with mergeLost := false } }
  (d.setFld Fld.COB_STITCH_FORCE_ARM 0).setFld Fld.COB_STITCH_FORCE_APPLIED_EPOCH d.epoch

/-- Bytes of one word in a capture record (Table — Capture contents): core, link, stream, generation, 64 data bytes. -/
def wordBytes : Nat := 72
/-- Words of each core that pass the capture record's 256 MiB limit, core by core in ascending order (R204). -/
def Dev.uncopied (d : Dev) (c : Nat) : Nat :=
  let before := ((List.range c).map fun i => (d.core i).log.heldWords).foldl (· + ·) 0
  let room := (2 ^ 28 - 4096 - 64) / wordBytes - before
  (d.core c).log.heldWords - room

/-- The held words of a core as the record lays them out: physical core, link, stream, generation, data. -/
def LCore.wordRecords (l : LCore) (c : Nat) : List Byte :=
  l.inq.flatMap fun e => (e.2.q ++ e.2.seg).flatMap fun w =>
    leBytes 4 c ++ leBytes 1 (e.1 / 8) ++ leBytes 1 (e.1 % 8) ++ leBytes 1 w.w.gen ++ leBytes 1 0 ++ leBytes 64 w.w.data.toNat
/-- The words are copied into the record of the capture that runs, or of one of its own (R204, R395, R398). -/
def Dev.copyWords (d : Dev) : Dev :=
  let all := (List.range numCores).flatMap fun c => (d.core c).log.wordRecords c
  let room := (2 ^ 28 - 4096 - 64) / wordBytes * wordBytes
  let x := d.cob.capture.getD { trigger := 6, domain := 8, index := 0, since := d.t, trigs := [(0, 0x24, 0, d.t)], words := true }
  let x := { x with copied := some (all.take room), cut := if room < all.length && x.cut.isNone then some (2 ^ 16) else x.cut }
  { d with cob := { d.cob with capture := some x } }

/-! ### Bring-up states (12 R365, R382; 14 R427) -/

/-- A length in ms of COB_BRINGUP_DUR. -/
def durField : Nat → Option Fld
  | 1 => some Fld.COB_BRINGUP_DUR_ROM
  | 2 => some Fld.COB_BRINGUP_DUR_FILL_TEST
  | 3 => some Fld.COB_BRINGUP_DUR_TRAIN
  | 4 => some Fld.COB_BRINGUP_DUR_CHECK
  | _ => none
/-- The device enters a bring-up state; the length of the one it leaves is recorded. -/
def Dev.enterState (d : Dev) (st : Nat) : Dev :=
  let len := (d.t - d.fld Fld.COB_BRINGUP_TIME_ENTRY) / 10 ^ 6
  let d := match durField (d.fld Fld.COB_BRINGUP_STATE) with | some f => d.setFld f (min len 0xFFFF) | none => d
  let d := if d.fld Fld.COB_BRINGUP_STATE = 3 then { d with cob := { d.cob with trained := true } } else d
  (d.setFld Fld.COB_BRINGUP_STATE st).setReg 0x908 d.now
/-- The fuses blown from `at_` on, at most n more: up to the first that does not blow. -/
def blownTo (at_ : Nat) : Nat → Nat
  | 0 => at_
  | n + 1 => if Config.fuseBlows at_ then blownTo (at_ + 1) n else at_
/-- At the first entry to service under an image with ADVANCE the fuses blow up to its index (14 R427). -/
def Dev.blowFuses (d : Dev) : Dev :=
  match d.cob.advance with
  | none => d
  | some dest =>
    let was := d.fld Fld.SEC_ROLLBACK_FUSED
    let got := blownTo was (dest - was)
    let d := { d with cob := { d.cob with advance := none } }
    let d := (d.setFld Fld.SEC_ROLLBACK_FUSED got).setFld Fld.COB_FW_VERSION_ROLLBACK_INDEX got
    if got < dest then (d.setFld Fld.SEC_ROLLBACK_BLOW_FAILED 1).event { code := 0x706, kind := 0x24, detail := leBytes 2 dest ++ leBytes 2 got }
    else d
/-- READY or DEGRADED_READY, and Race `normal`, at the epoch the topology check set (12 R382). -/
def Dev.becomeReady (d : Dev) : Dev :=
  match d.cob.readyAt with
  | some (degraded, n) =>
    if d.fld Fld.FT_EPOCH_COUNT < n then d
    else
      let d := ({ d with cob := { d.cob with readyAt := none } } : Dev).enterState (if degraded then 6 else 5)
      ((d.setFld Fld.COB_RACE_STATUS_SERVICE 1).setFld Fld.COB_RACE_STATUS_APPLIED_EPOCH d.epoch).blowFuses
  | none => d

/-! ### The epoch tick (R360, R363) -/

/-- Whether a request that names epoch r applies now: its tick is this one or has passed (R361). -/
def Dev.due (d : Dev) (r : Nat) : Bool := !d.future r

/-- Link output `out` of router r is one that its active table uses. -/
def Dev.usesLink (d : Dev) (r out : Nat) : Bool :=
  let bank := d.fld (Fld.RACE_CTRL_ACTIVE_BANK.at (raceBase r))
  (List.range numRouters).any fun j =>
    let e := d.reg (raceBase r + 0x1000 + 8 * j)
    (if bank = 1 then bits e 6 4 else bits e 2 0) + 2 == out
/-- A flip to a table that avoids a held link releases it at both ends, and what it held is sent again (R210). -/
def Dev.releaseLinks (d : Dev) (r : Nat) : Dev :=
  if d.fld (Fld.RACE_CTRL_HELD_LINKS.at (raceBase r)) % 16 = 0 then d
  else [3, 4, 5, 6].foldl (fun d out =>
    let off := fun (d : Dev) (r i : Nat) =>
      let f := Fld.RACE_CTRL_HELD_LINKS.at (raceBase r)
      d.setFld f (d.fld f &&& (0xFF ^^^ 2 ^ i))
    match nextRouter r out with
    | some n =>
      if !nbit (d.fld (Fld.RACE_CTRL_HELD_LINKS.at (raceBase r))) (out - 3) || d.usesLink r out then d
      else
        let d := off (off d r (out - 3)) n (4 + facing out - 3)
        let a := d.router n
        let d := d.setRouter n { a with fails := NMap.set 0 a.fails (facing out) 0 }
        match NMap.get none a.awaits (facing out) with
        | some p => d.replayFrom n (facing out) p
        | none => d
    | none => d) d

/-- Race service, routing mode and table flips of COB_RACE_REQ (R218–R220, R287), at every router that does not lag. Out of service
the Race stays in `sync_only` (12 R367). -/
def Dev.raceChange (d : Dev) : Dev :=
  let flip := d.flag Fld.COB_RACE_REQ_FLIP
  let e := d.epoch
  let d :=
    if flip then
      let d := d.setFld Fld.COB_RACE_STATUS_ACTIVE_BANK (1 - d.fld Fld.COB_RACE_STATUS_ACTIVE_BANK)
      let d := (List.range numRouters).foldl (fun d r =>
        if d.lagging 4 r then d
        else
          let b := raceBase r
          let d := d.setFld (Fld.RACE_CTRL_ACTIVE_BANK.at b) (1 - d.fld (Fld.RACE_CTRL_ACTIVE_BANK.at b))
          d.setFld (Fld.RACE_CTRL_FLIP_EPOCH.at b) e) d
      let d := (List.range 6).foldl (fun d i =>
        let f := Fld.COB_FORD_DIR_ACTIVE_BANK.nth 8 i
        d.setFld f (1 - d.fld f)) d
      (List.range numRouters).foldl Dev.releaseLinks { d with cob := { d.cob with dirFlip := some e } }
    else d
  let st := d.fld Fld.COB_BRINGUP_STATE
  let d := d.setFld Fld.COB_RACE_STATUS_SERVICE (if st = 5 || st = 6 then d.fld Fld.COB_RACE_REQ_REQ_SERVICE else 0)
  let d := d.setFld Fld.COB_RACE_STATUS_ROUTING (d.fld Fld.COB_RACE_REQ_REQ_ROUTING)
  let d := ((d.setFld Fld.COB_RACE_STATUS_APPLIED_EPOCH e).setFld Fld.COB_RACE_REQ_ARM 0).setFld Fld.COB_RACE_REQ_FLIP 0
  match d.heal.shift with
  | some x => if x.phase = 1 && d.fld Fld.COB_RACE_STATUS_SERVICE = 0 then
      { d.stopEngines with heal := { d.heal with shift := some { x with phase := 2 } } } else d
  | none => d

/-- Every cluster's rail has reached its floor (R438). -/
def Dev.floorsReached (d : Dev) : Bool :=
  (List.range 104).all fun k => d.fld (Fld.WEIR_AVS_FLOOR.nth 8 k) ≤ d.fld (Fld.WEIR_AVS_VOLT.nth 8 k)

/-- The operating point of WEIR_OP_REQ (R437, R438): an increase waits for the floors, a decrease lowers them. -/
def Dev.opPoint (d : Dev) : Dev :=
  let f := d.fld Fld.WEIR_OP_REQ_FREQ
  let up := decide (d.fld Fld.WEIR_OP_STATUS_FREQ < f)
  if up && !d.floorsReached then
    if d.weir.deferred then d
    else ({ d with weir := { d.weir with deferred := true } }.setFld Fld.WEIR_OP_STATUS_DEFERRED 1).event { code := 0x804, kind := 0x23 }
  else
    let late := d.weir.deferred
    let d := { d with weir := { d.weir with deferred := false } }
    let d := ((d.setFld Fld.WEIR_OP_STATUS_FREQ f).setFld Fld.WEIR_OP_STATUS_APPLIED_EPOCH d.epoch).setFld Fld.WEIR_OP_REQ_ARM 0
    if up then d.setFld Fld.WEIR_OP_STATUS_DEFERRED (b2n late)
    else
      (List.range 104).foldl (fun d k => d.setFld (Fld.WEIR_AVS_FLOOR.nth 8 k) (Config.floorVolt k f).toNat) d

/-- The units that miss a tick: cores under test, frozen units and units whose clock is stopped (R363). -/
def Dev.missing (d : Dev) : List (Nat × Nat) :=
  let all := (List.range numCores).map (fun c => (1, c)) ++ (List.range numRouters).map fun r => (4, r)
  all.filter fun x => d.captured x.1 x.2 || d.cob.asleep.contains x || (x.1 == 1 && (d.core x.2).sil.testing)

/-- Units that miss this tick start to lag behind the epoch they have applied. -/
def Dev.fallBehind (d : Dev) (applied : Nat) : Dev :=
  let new := (d.missing.filter fun x => !d.lagging x.1 x.2).map fun x => ({ kind := x.1, unit := x.2, epoch := applied } : Lag)
  { d with cob := { d.cob with lag := d.cob.lag ++ new } }

/-- An epoch starts: the changes scheduled for it apply in the order of R363, and the units report it. -/
def Dev.applyEpoch (d : Dev) : Dev :=
  let d := match d.map.flip with | some r => if d.due r then d.flipMap else d | none => d
  let d := if d.flag Fld.COB_RACE_REQ_ARM && d.due (d.fld Fld.COB_RACE_REQ_REQ_EPOCH) then d.raceChange else d
  let d := if d.flag Fld.COB_STITCH_FORCE_ARM && d.due (d.fld Fld.COB_STITCH_FORCE_REQ_EPOCH) then
      (if d.flag Fld.COB_STITCH_FORCE_CAPTURE_OLD then { d with cob := { d.cob with copying := true } } else d.force fun _ => 0)
    else d
  let d := if d.cob.level && d.due (d.fld Fld.COB_NUMERICS_LEVEL_REQ_EPOCH) then
      let d := d.setFld Fld.COB_NUMERICS_LEVEL_APPLIED_LEVEL (d.fld Fld.COB_NUMERICS_LEVEL_REQ_LEVEL)
      let d := d.setFld Fld.COB_NUMERICS_LEVEL_APPLIED_EPOCH d.epoch
      { d with cob := { d.cob with level := false } }
    else d
  let d := if d.flag Fld.WEIR_OP_REQ_ARM && d.due (d.fld Fld.WEIR_OP_REQ_REQ_EPOCH) then d.opPoint else d
  (List.range numRouters).foldl (fun d r =>
    if d.lagging 4 r then d else d.setFld (Fld.RACE_CTRL_APPLIED_EPOCH.at (raceBase r)) d.epoch) d

/-- The epoch count at the present time (R360); PERIOD is in µs. -/
def Dev.epochCount (d : Dev) : Nat :=
  let t0 := d.fld Fld.FT_EPOCH_BASE_T0
  if d.t < t0 then 0 else (d.t - t0) / (1000 * d.fld Fld.FT_EPOCH_CFG_PERIOD)

/-- An epoch tick: none where the count has not advanced. -/
def epochTick (d : Dev) : Dev :=
  let n := d.epochCount
  if n ≤ d.fld Fld.FT_EPOCH_COUNT then d
  else
    let was := d.epoch
    let d := (d.setFld Fld.FT_EPOCH_COUNT n).setFld Fld.FT_EPOCH_CURRENT n
    let d := d.setFld Fld.FT_EPOCH_START_TICK (d.fld Fld.FT_EPOCH_BASE_T0 + n * (1000 * d.fld Fld.FT_EPOCH_CFG_PERIOD))
    (d.fallBehind was).applyEpoch.becomeReady

/-- The copy of the held words ends (R204): they are in the capture record, and the forced reconfiguration takes place. -/
def oldWordCopyEnd (d : Dev) : Dev :=
  if !d.cob.copying then d
  else
    let lost := (List.range numCores).map d.uncopied
    let d := d.copyWords
    ({ d with cob := { d.cob with copying := false } } : Dev).force fun c => lost.getD c 0

/-- A unit wakes, leaves its test or its capture: it applies what it missed before it takes traffic (R206, R363). -/
def catchUp (kind unit : Nat) (d : Dev) : Dev :=
  match d.cob.lag.find? fun x => x.kind == kind && x.unit == unit with
  | none => d
  | some x =>
    if d.missing.contains (kind, unit) then d
    else
      let d := { d with cob := { d.cob with lag := d.cob.lag.filter fun y => !(y.kind == kind && y.unit == unit) } }
      if kind = 1 then (if x.force then d.forceCore unit 0 else d)
      else
        let b := raceBase unit
        let bank := d.fld Fld.COB_RACE_STATUS_ACTIVE_BANK
        let d := if d.fld (Fld.RACE_CTRL_ACTIVE_BANK.at b) = bank then d
          else (d.setFld (Fld.RACE_CTRL_ACTIVE_BANK.at b) bank).setFld (Fld.RACE_CTRL_FLIP_EPOCH.at b) d.epoch
        d.setFld (Fld.RACE_CTRL_APPLIED_EPOCH.at b) d.epoch

/-! ### The start tick (R36, R37, R137, R423) -/

/-- The logical cores placed in the regions of a mask. -/
def Dev.placement (d : Dev) (mask : Nat) : List Nat :=
  ((List.range 16).filter (nbit mask)).flatMap fun r => NMap.get [] d.cob.placed r

/-- The UNSCALED_COUNT of a scale table in memory, 0 where it cannot be read (R131, R137). -/
def Dev.unscaledCount (d : Dev) (a : Nat) : Nat :=
  match d.devRead { region := 0, node := cobNode } (a + 32) 4 with
  | (.ok bs, _) => ofBytes bs
  | _ => 0

/-- The first region of a mask whose regular variant is loaded and which declares a table with UNSCALED entries (R137). -/
def Dev.unscaledRegion (d : Dev) (mask : Nat) : Option Nat :=
  ((List.range 16).filter (nbit mask)).find? fun r =>
    NMap.get 0 d.cob.variant r == 0 && (NMap.get [] d.cob.tables r).any fun a => d.unscaledCount a ≠ 0

/-- A queue pair that is connected and not in the error state. -/
def Dev.qp (d : Dev) (q : Nat) : Option QP := (NMap.get none d.host.qps q).filter fun x => !x.err
def Dev.setQp (d : Dev) (q : Nat) (x : QP) : Dev := { d with host := { d.host with qps := NMap.set none d.host.qps q (some x) } }

/-- A command completes: counted, and its response sent on a queue pair that is still up (R409, R415). -/
def Dev.respond (d : Dev) (qp seq op status detail : Nat) (body : List Byte) : Dev :=
  let d := (d.addFld Fld.HOST_CMD_STATS_COMMANDS 1).tally 0x380 0x20 0 0 1
  let d := if status = 0 then d else d.addFld Fld.HOST_CMD_STATS_FAILED 1
  match d.qp qp with
  | none => d
  | some x =>
    (if x.busy then d.setQp qp { x with busy := false } else d).emit
      (.resp { qp, seq, op := 0x8000 + op, status, detail, time := d.t, body })

/-- The tick of the pending START: all of the placement's cores run, or none. -/
def startTick (d : Dev) : Dev :=
  match d.cob.start with
  | none => d
  | some (tick, mask, qp, seq) =>
    if d.t < tick then d
    else
      let d := { d with cob := { d.cob with start := none } }
      match d.unscaledRegion mask with
      | some r => d.respond qp seq 0x31 7 r []
      | none =>
        let lids := d.placement mask
        match lids.find? fun l => match d.hostOf l with | some c => d.coreState c ≠ .loaded | none => true with
        | some l => d.respond qp seq 0x31 6 l []
        | none =>
          (lids.foldl (fun d l => match d.hostOf l with
            | some c => d.modCore c fun k => k.setState .running d.epoch
            | none => d) d).respond qp seq 0x31 0 0 []

/-- EPOCH_TICK (R363). -/
def execEpochTick (s : State) : Host.Outcome State Fault Refusal := effect epochTick s
/-- OLD_WORD_COPY_END (R204). -/
def execOldWordCopyEnd (s : State) : Host.Outcome State Fault Refusal := effect oldWordCopyEnd s
/-- UNIT_CATCH_UP (R363). -/
def execUnitCatchUp (kind unit : Nat) (s : State) : Host.Outcome State Fault Refusal := effect (catchUp kind unit) s

end Sys2Proof.Machine
end

