-- ==== Sys2Proof/Machine/MemUnits.lean ====
section
/-!
DEFINITION. What memory controllers and scratchpad banks do by themselves (08 R263–R270; 12 R370, R372): scrubbing, fills, remap
copies, flips, the end of training.
-/
namespace Sys2Proof.Machine

/-- Blocks of a memory (48 GiB a stack, 128 GiB an LPDDR controller). -/
def memBlocks (k : Nat) : Nat := if k < 16 then 48 * 2 ^ 24 else 2 ^ 31
/-- A store that exists. -/
def storeOk : Store → Bool
  | .mem k => decide (k < 20)
  | .bank c b => decide (c < numCores) && decide (b < 8)

/-- The core clock in MHz (15 WEIR_OP_STATUS.FREQ). -/
def Dev.coreMHz (d : Dev) : Nat := 25 * d.fld Fld.WEIR_OP_STATUS_FREQ

/-! ### Scrubbing (R269, R270) -/

/-- A lap past LIMIT raises SCRUB_SLOW once. -/
def Dev.scrubLate (d : Dev) (k : Nat) : Dev :=
  let m := d.memc k; let limit := d.fld (Fld.HBM_SCRUB_LIMIT.at (memBase k))
  if limit ≠ 0 && !m.slow && decide (m.lapAt + limit * 10 ^ 9 < d.t) then
    (d.setMemc k { m with slow := true }).event { code := 0x303, kind := 0x0A, unit := k }
  else d

/-- MEM_UE for an uncorrectable codeword that a bank's scrubber met: it names the block and the SOURCE, and aborts no step (R269). -/
def Dev.spadUE (d : Dev) (c a : Nat) : Dev :=
  d.event { code := 0x301, kind := 1, unit := c, lid := d.lid c, detail := leBytes 8 a ++ leBytes 2 1 }

/-- The scrub of slot i of the spill ring: the i-th word that the segments hold, by stream (R269, log 97). -/
def Core.scrubRing (k : Core) (i : Nat) : Option (List Byte) × Core :=
  match (k.log.inq.flatMap fun e => (List.range e.2.seg.length).map fun j => (e.1, j))[i]? with
  | none => (some [], k)
  | some (q, j) =>
    let x := k.log.inQ q
    match x.seg[j]? with
    | none => (some [], k)
    | some u =>
      let r := k.ringRead u
      (r.1.map fun u => lineBytes u.w.data, r.2.setInQ q { x with seg := x.seg.set j (r.1.getD u) })

/-- One scrub access: the next codeword is read, and written back when corrected. -/
def scrubOne (u : Store) (d : Dev) : Dev :=
  match u with
  | .mem k =>
    let m := d.memc k
    if d.memState k ≠ 3 || decide (memBlocks k ≤ m.scrub) || d.remapBusy k (64 * m.scrub) || d.blockTest k m.scrub then d
    else
      let d := (d.memReadBlock k (64 * m.scrub) { source := 1, node := memNode k }).2.tally 0x203 0x0A k 0 1
      (d.setMemc k { d.memc k with scrub := m.scrub + 1 }).scrubLate k
  | .bank c b =>
    let k := d.core c; let p := NMap.get 0 k.sil.scrub b; let w := 768 * b + p
    if k.bank b ≠ 0 || decide (768 ≤ p) || k.remapBusy (64 * w) 64 then d
    else
      let r := if k.spillBase ≤ 64 * w then k.scrubRing (w - k.spillBase / 64) else k.readBlock w
      let d := d.afterSpad c r.2
      let d := if r.1.isNone then d.spadUE c (64 * w) else d
      d.modCore c fun k => { k with sil := { k.sil with scrub := NMap.set 0 k.sil.scrub b (p + 1) } }

/-- A lap whose last codeword has been read ends: its length, the count, the next lap. -/
def scrubLap (u : Store) (d : Dev) : Dev :=
  match u with
  | .mem k =>
    let m := d.memc k; let b := memBase k
    if m.scrub < memBlocks k then d
    else
      let d := (d.scrubLate k).setFld (Fld.HBM_SCRUB_LAST_LAP.at b) (ceilDiv (d.t - m.lapAt) (10 ^ 6))
      let d := d.addFld (Fld.HBM_SCRUB_LAPS.at b) 1
      d.setMemc k { d.memc k with scrub := 0, lapAt := d.t, slow := false }
  | .bank c b =>
    let k := d.core c
    if NMap.get 0 k.sil.scrub b < 768 then d
    else
      let lap := (d.t - NMap.get 0 k.sil.lapAt b) * d.coreMHz / 1000
      let laps := NMap.set 0 k.sil.laps b lap
      let k := { k with sil := { k.sil with scrub := NMap.set 0 k.sil.scrub b 0, lapAt := NMap.set 0 k.sil.lapAt b d.t, laps } }
      let most := ((List.range 8).filter fun i => k.bank i == 0).foldl (fun a i => max a (NMap.get 0 laps i)) 0
      let k := k.setFld Fld.CORE_SPAD_SCRUB_LAST_LAP (min most (2 ^ 32 - 1))
      d.setCore c (if b = 7 then k.addFld Fld.CORE_SPAD_SCRUB_LAPS 1 else k)

/-! ### Fills and training (R267, R268, R370, R372) -/

/-- A fill starts: the controller is FILLING. -/
def Dev.fillStart (d : Dev) (k : Nat) (verify : Bool) : Dev :=
  let b := memBase k
  let d := (d.setFld (Fld.HBM_FILL_START.at b) 1).setFld (Fld.HBM_FILL_MODE.at b) (b2n verify)
  let d := (d.setFld (Fld.HBM_FILL_BUSY.at b) 1).setFld (Fld.HBM_STATUS_STATE.at b) 2
  d.setMemc k { d.memc k with fillAt := d.t, lost := false }

/-- Memory k reads zero everywhere, with valid check bytes. -/
def Dev.memZero (d : Dev) (k : Nat) : Dev :=
  let lo := memKey k 0; let hi := memKey k (64 * memBlocks k)
  { d with mem := d.mem.filter fun x => decide (x.1 < lo) || decide (hi ≤ x.1),
           memErr := d.memErr.filter fun x => decide (x.1 < lo / 64) || decide (hi / 64 ≤ x.1),
           memFold := d.memFold.filter fun x => decide (x.1 < lo / 64) || decide (hi / 64 ≤ x.1) }

/-- A fill ends, `bad` being the blocks that a verify fill found different (R268). An armed flip took the fill's first write that counts:
of a verify fill one of pass 1, which later passes write over (R266). -/
def fillEnd (k : Nat) (bad : List Nat) (d : Dev) : Dev :=
  let b := memBase k
  if !d.flag (Fld.HBM_FILL_BUSY.at b) then d
  else
    let verify := d.flag (Fld.HBM_FILL_MODE.at b)
    let bad := if verify then bad else []
    let hit := if d.flag (Fld.HBM_FLIP_CTRL_MATCH_EN.at b) then d.fld (Fld.HBM_FLIP_CTRL_BLOCK.at b) else 0
    let d := if verify then (d.memFlip k (64 * hit)).memZero k else (d.memZero k).memFlip k (64 * hit)
    let d := bad.foldl (fun d l =>
      (d.event { code := 0x302, kind := 0x0A, unit := k, detail := leBytes 8 (d.interleaved k (64 * l)) }).wantTest
        (if k < 16 then 6 else 7) (if k < 16 then k else k - 16) l 0x302) d
    let d := (d.setFld (Fld.HBM_FILL_START.at b) 0).setFld (Fld.HBM_FILL_BUSY.at b) 0
    let d := if d.flag (Fld.HBM_FILL_MODE.at b) then
        d.setFld (Fld.HBM_FILL_FAILS.at b) (min bad.length (2 ^ 16 - 1)) else d
    let d := d.setFld (Fld.HBM_FILL_ELAPSED.at b) (min ((d.t - (d.memc k).fillAt) / 10 ^ 6) (2 ^ 16 - 1))
    (d.setFld (Fld.HBM_STATUS_STATE.at b) 3).setMemc k { d.memc k with saved := true }

/-- An interface's training ends: at a cold bring-up its memory is filled, later contents that were kept stand (R268, R370, R372). -/
def memTrained (k : Nat) (ok : Bool) (d : Dev) : Dev :=
  let b := memBase k
  if d.memState k ≠ 1 then d
  else if !ok then d.setFld (Fld.HBM_STATUS_STATE.at b) 4
  else if d.fld Fld.COB_BRINGUP_STATE = 2 && d.fld Fld.COB_BRINGUP_RESET_KIND = 0 then
    d.fillStart k (d.fld Fld.COB_BRINGUP_CFG_FILL_MODE == 0)
  else if (d.memc k).lost then d.fillStart k false
  else (d.setFld (Fld.HBM_STATUS_STATE.at b) 3).setMemc k { d.memc k with saved := true }

/-! ### Remap copies and flips (R265, R266) -/

/-- The copy of a remap entry ends: ACTIVE follows VALID. The codeword keeps its stored symbols, errors included. -/
def remapDone (u : Store) (i : Nat) (d : Dev) : Dev :=
  match u with
  | .mem k =>
    let f := (Fld.HBM_REMAP_ACTIVE.nth 8 i).at (memBase k)
    d.setFld f (d.fld ((Fld.HBM_REMAP_VALID.nth 8 i).at (memBase k)))
  | .bank c _ => d.modCore c fun k => k.setFld (Fld.CORE_SPAD_REMAP_ACTIVE.nth 8 i) (k.fld (Fld.CORE_SPAD_REMAP_VALID.nth 8 i))

/-- A counted write of a block takes the armed flip (R266). -/
def flipApply (u : Store) (block : Nat) (d : Dev) : Dev :=
  match u with
  | .mem k => d.memFlip k (64 * block)
  | .bank c b => d.afterSpad c ((d.core c).flip (768 * b + block))

/-- Remap entry i of a store exists. -/
def remapOk (u : Store) (i : Nat) : Bool :=
  storeOk u && match u with
  | .mem k => decide (i < if k < 16 then 256 else 64)
  | .bank _ b => decide (i < 32) && i / 4 == b
/-- Block of a store. -/
def blockOk (u : Store) (l : Nat) : Bool :=
  storeOk u && match u with
  | .mem k => decide (l < memBlocks k)
  | .bank _ _ => decide (l < 768)

/-- SCRUB_ACCESS (R269). -/
def execScrubAccess (u : Store) (s : State) : Host.Outcome State Fault Refusal := onUnit (storeOk u) (scrubOne u) s
/-- SCRUB_LAP_END (R270). -/
def execScrubLapEnd (u : Store) (s : State) : Host.Outcome State Fault Refusal := onUnit (storeOk u) (scrubLap u) s
/-- MEM_FILL_END (R268). -/
def execMemFillEnd (k : Nat) (bad : List Nat) (s : State) : Host.Outcome State Fault Refusal :=
  onUnit (decide (k < 20)) (fillEnd k bad) s
/-- REMAP_COPY_END (R265). -/
def execRemapCopyEnd (u : Store) (i : Nat) (s : State) : Host.Outcome State Fault Refusal := onUnit (remapOk u i) (remapDone u i) s
/-- FLIP_MASK_APPLY (R266). -/
def execFlipMaskApply (u : Store) (block : Nat) (s : State) : Host.Outcome State Fault Refusal :=
  onUnit (blockOk u block) (flipApply u block) s
/-- MEM_TRAINING_END (R370, R372). -/
def execMemTrainingEnd (k : Nat) (ok : Bool) (s : State) : Host.Outcome State Fault Refusal :=
  onUnit (decide (k < 20)) (memTrained k ok) s

end Sys2Proof.Machine
end

