-- ==== Sys2Proof/Machine/Heal.lean ====
section
/-!
DEFINITION. Self-test, fencing and live repair (11 R335–R359): targeted tests, fences, rotation slices, the live row shift, the
ledger, and firmware's writes of the map.
-/
namespace Sys2Proof.Machine

/-! ### Segments and records -/

/-- Segment index prow × 8 + pccol and segment offset of a physical core; the physical core at an offset. -/
def segOf (c : Nat) : Nat := c / 136 * 8 + c % 136 / 17
def segOff (c : Nat) : Nat := c % 136 % 17
def segCore (seg off : Nat) : Nat := seg / 8 * 136 + seg % 8 * 17 + off

/-- The fuse map names a unit. -/
def fused (kind unit : Nat) : Bool := fuses.any fun r => r.kind == kind && r.unit == unit
/-- A core out of service: fenced, or with a record (R338). -/
def Dev.badCore (d : Dev) (c : Nat) : Bool := (d.core c).sil.fenced || d.recorded 1 c
/-- The segment's gap lies at an idle spare: the physical core there (R353). -/
def Dev.idleSpare (d : Dev) (seg : Nat) : Option Nat :=
  let c := segCore seg (d.map.cur.gap (seg / 8) (seg % 8))
  if d.badCore c || (d.core c).sil.testing then none else some c

/-- A field record. With the field section full the fault is out of service all the same, but not written (R337). -/
def Dev.addField (d : Dev) (r : Defect) : Dev :=
  if 4096 ≤ d.heal.field.length then
    ({ d with heal := { d.heal with unwritten := d.heal.unwritten ++ [r] } } : Dev).setFld Fld.HEAL_STATUS_LEDGER_FULL 1
  else { d with heal := { d.heal with field := d.heal.field ++ [r], dirty := true } }
/-- A transient record; when the section is full the oldest gives way (R337). -/
def Dev.addTransient (d : Dev) (r : Defect) : Dev :=
  let l := d.heal.transient
  { d with heal := { d.heal with transient := (if 1024 ≤ l.length then l.drop 1 else l) ++ [r], dirty := true } }

/-- The last verdict (HEAL_TEST_RESULT, HEAL_TEST_TIME), and a core's own (CORE_TEST_STATUS). -/
def Dev.testResult (d : Dev) (verdict test kind unit : Nat) : Dev :=
  let d := (d.setFld Fld.HEAL_TEST_RESULT_VERDICT verdict).setFld Fld.HEAL_TEST_RESULT_TEST test
  let d := (d.setFld Fld.HEAL_TEST_RESULT_KIND kind).setFld Fld.HEAL_TEST_RESULT_UNIT unit
  let d := d.setReg 0x300038 d.now
  if kind = 1 then
    d.modCore unit fun k => (k.setFld Fld.CORE_TEST_STATUS_LAST_VERDICT verdict).setFld Fld.CORE_TEST_STATUS_LAST_TIME d.t
  else d

/-! ### Remap entries for failing cells (R346, R347) -/

/-- Free remap entries of a scratchpad bank. -/
def Core.freeRemaps (k : Core) (b : Nat) : List Nat :=
  (List.range' (4 * b) 4).filter fun i => !k.flag (Fld.CORE_SPAD_REMAP_VALID.nth 8 i) && !k.flag (Fld.CORE_SPAD_REMAP_ACTIVE.nth 8 i)

/-- Failing codewords bank × 1,024 + index take free entries of their banks: the core with them installed, and whether each found
one. A tested core has no contents to copy: the entry is at once ACTIVE. -/
def Core.remapCells (k : Core) : List Nat → Core × Bool
  | [] => (k, true)
  | x :: xs =>
    match k.freeRemaps (x / 1024) with
    | i :: _ =>
      let k := (k.setFld (Fld.CORE_SPAD_REMAP_CODEWORD.nth 8 i) (x % 1024)).setFld (Fld.CORE_SPAD_REMAP_VALID.nth 8 i) 1
      (k.setFld (Fld.CORE_SPAD_REMAP_ACTIVE.nth 8 i) 1).remapCells xs
    | [] => (k, false)

/-- What a march leaves of a core: zeros, failing codewords remapped and recorded (R342, R346); false when one found no entry. -/
def Dev.marched (d : Dev) (c test : Nat) (bad : List Nat) : Dev × Bool :=
  let r := (d.core c).remapCells bad
  let d := d.afterSpad c ((List.range 8).foldl (fun k b => k.fillBank b) r.1)
  if r.2 then
    (bad.foldl (fun d x => d.addField { kind := 2, test, unit := c, sub := x, first := d.t, last := d.t }) d, true)
  else (d, false)

/-- A free remap entry of a memory block: of its pseudo-channel of HBM, 8 entries each, or of its LPDDR controller. -/
def Dev.freeBlockRemap (d : Dev) (k block : Nat) : Option Nat :=
  let mine := if k < 16 then List.range' (8 * (64 * block / 2 ^ 8 % 32)) 8 else List.range 64
  mine.find? fun i =>
    d.fld ((Fld.HBM_REMAP_VALID.nth 8 i).at (memBase k)) == 0 && d.fld ((Fld.HBM_REMAP_ACTIVE.nth 8 i).at (memBase k)) == 0

/-- A failed block takes a remap entry, or stays in service under the code alone (R347). -/
def Dev.blockFails (d : Dev) (kind unit block : Nat) : Dev :=
  let k := if kind = 6 then unit else 16 + unit
  match d.freeBlockRemap k block with
  | some i => (d.setFld ((Fld.HBM_REMAP_BLOCK.nth 8 i).at (memBase k)) block).setFld ((Fld.HBM_REMAP_VALID.nth 8 i).at (memBase k)) 1
  | none =>
    (d.setFld Fld.HEAL_STATUS_MEM_DEGRADED 1).event { code := 0x601, kind, unit, detail := leBytes 4 block }

/-! ### Writing the map (R348, R364) -/

/-- The bank firmware writes: the shadow bank while a flip waits, else a copy of the active one (log 42). -/
def Dev.draft (d : Dev) : MapBank := if d.map.flip.isSome then d.map.shadow else d.map.cur
/-- The shadow bank becomes `b`, its flip being scheduled for the next epoch. -/
def Dev.scheduleMap (d : Dev) (b : MapBank) (noMove : List Nat) : Dev :=
  let e := d.map.flip.getD ((d.epoch + 1) % 2 ^ 16)
  { d with map := { d.map.setShadow b with flip := some e, noMove := d.map.noMove ++ noMove } }
def MapBank.setGap (b : MapBank) (seg g : Nat) : MapBank := { b with gaps := NMap.set 16 b.gaps seg g }

/-- No slice runs in a segment. -/
def Dev.sliceFree (d : Dev) (seg : Nat) : Bool := d.heal.slices.all fun x => segOf x.core ≠ seg

/-- FENCE: the gap moves to the erring core, whose logical core arrives without its state (R348, R350). -/
def fence (c : Nat) (d : Dev) : Dev :=
  let seg := segOf c
  match d.lidOf c, d.idleSpare seg with
  | some l, some _ =>
    if !d.flag Fld.HEAL_POLICY_AUTO_FENCE || !(d.heal.tests.any fun x => x.kind == 1 && x.unit == c && !x.begun) ||
        !d.sliceFree seg || d.heal.shift.isSome || d.oldHeld || d.map.noMove.contains l then d
    else (d.scheduleMap (d.draft.setGap seg (segOff c)) [l]).scheduleForce
  | _, _ => d

/-! ### Routing tables around a unit (R335, R343; 07 R219) -/

/-- Race service `mode` requested for the next epoch. -/
def Dev.requestService (d : Dev) (mode : Nat) : Dev :=
  let d := (d.setFld Fld.COB_RACE_REQ_REQ_EPOCH ((d.epoch + 1) % 2 ^ 16)).setFld Fld.COB_RACE_REQ_REQ_SERVICE mode
  (d.setFld Fld.COB_RACE_REQ_REQ_ROUTING (d.fld Fld.COB_RACE_STATUS_ROUTING)).setFld Fld.COB_RACE_REQ_ARM 1

/-- A bank flip of the routing tables at the next epoch, the mode staying as it is or is to be. -/
def Dev.requestFlip (d : Dev) : Dev :=
  let armed := d.flag Fld.COB_RACE_REQ_ARM
  let d := if armed then d else d.requestService (d.fld Fld.COB_RACE_STATUS_SERVICE)
  d.setFld Fld.COB_RACE_REQ_FLIP 1
/-- The shadow tables may be written for a flip: none is requested, and no router holds a packet of an earlier epoch (R219). -/
def Dev.tablesFree (d : Dev) : Bool :=
  !d.flag Fld.COB_RACE_REQ_FLIP &&
  d.routers.all fun e => e.2.q.all fun q => q.2.all fun x => d.behind e.1 x.p ≠ 1 && d.behind e.1 x.p ≠ 2

/-- A table entry's bits of the active bank (`b` = 0 or 1) copied to the other one. -/
def copyRoute (b : Nat) (v : Word) : Word := putBits v (7 - 4 * b) (4 - 4 * b) (bits v (4 * b + 3) (4 * b))
/-- Firmware builds the shadow tables: those in force, with another output wherever one would use a link (router, port) of `bad`. Which
one it takes is free (log 94). -/
def Dev.avoidLinks (d : Dev) (bad : List (Nat × Nat)) : Dev :=
  let b := d.fld Fld.COB_RACE_STATUS_ACTIVE_BANK
  let mine := d.regs.filterMap fun e => match blockOf e.1 with | (.race _, o) => if 0x1000 ≤ o then some e.1 else none | _ => none
  let d := mine.foldl (fun d o => d.setReg o (copyRoute b (d.reg o))) d
  (bad.map Prod.fst).eraseDups.foldl (fun d s =>
    let outs := [3, 4, 5, 6].filter fun p => (nextRouter s p).isSome && !bad.contains (s, p)
    (List.range numRouters).foldl (fun d j =>
      let o := raceBase s + 0x1000 + 8 * j
      let v := d.reg o
      if j ≠ s && bad.contains (s, bits v (6 - 4 * b) (4 - 4 * b) + 2) && !outs.isEmpty then
        d.setReg o (putBits v (6 - 4 * b) (4 - 4 * b) (outs.getD (Config.detour s j % outs.length) 3 - 2))
      else d) d) d
/-- The links that lead into a router. -/
def linksInto (r : Nat) : List (Nat × Nat) := [3, 4, 5, 6].filterMap fun p => (nextRouter r p).map fun n => (n, facing p)
/-- The links that records of routers and of link directions (0 N, 1 E, 2 S, 3 W) keep out of every table (R335). -/
def Dev.badLinks (d : Dev) : List (Nat × Nat) :=
  d.records.flatMap fun x => if x.kind = 4 then linksInto x.unit else if x.kind = 5 then [(x.unit, 3 + x.sub)] else []
/-- A test of a gateway and router is to come: the tables flip to avoid the router (R343). -/
def Dev.flipAround (d : Dev) (r : Nat) : Dev := (d.avoidLinks (linksInto r ++ d.badLinks)).requestFlip

/-! ### Logic BIST (R340) -/

/-- One step of the pattern generator: x^61 + x^5 + x^2 + x + 1, shifting up (DESIGN CHOICE, log 95). -/
def lfsrNext (x : BitVec 61) : BitVec 61 := (x <<< 1) ^^^ (if x.getLsbD 60 then 0x27 else 0)
/-- One response compacted into a MISR: x^64 + x^4 + x^3 + x + 1, shifting up (DESIGN CHOICE, log 95). -/
def misrNext (m w : Word) : Word := (m <<< 1) ^^^ (if m.getLsbD 63 then 0x1B else 0) ^^^ w
/-- The pattern set of a unit kind: core, gateway with router, Welt engine. -/
def patternSet (kind : Nat) : Nat := if kind = 4 then 3 else kind
/-- A unit's BIST after a section: 1,024 patterns of 320 shift cycles from the section's seed, and the responses compacted. -/
def bistSection (kind sec : Nat) (resp : List Word) : Bist :=
  { gen := Nat.repeat lfsrNext (1024 * 320) (Config.bistSeed (patternSet kind) sec), misr := resp.foldl misrNext 0 }
/-- A section passes when its MISR equals the signature. -/
def sectionOk (kind sec : Nat) (resp : List Word) : Bool := (bistSection kind sec resp).misr == Config.bistSignature (patternSet kind) sec
/-- The sections of a targeted test (Table — Self-tests). -/
def sectionsOf (kind : Nat) : List Nat :=
  if kind = 1 then List.range 16 else if kind = 3 || kind = 4 || kind = 0xA then List.range 4 else []
/-- Every section passes; `resp` are the responses of each. -/
def bistOk (kind : Nat) (secs : List Nat) (resp : List (List Word)) : Bool :=
  (secs.zip (List.range secs.length)).all fun x => sectionOk kind x.1 (resp.getD x.2 [])
/-- The unit keeps its generator and MISR as the last section left them. -/
def Dev.setBist (d : Dev) (kind unit : Nat) (secs : List Nat) (resp : List (List Word)) : Dev :=
  match secs.getLast? with
  | some s =>
    let x := bistSection kind s (resp.getD (secs.length - 1) [])
    { d with heal := { d.heal with bist := NMap.set ({} : Bist) d.heal.bist (patternSet kind * 2 ^ 16 + unit) x } }
  | none => d

/-! ### Targeted tests (R343–R347, R351) -/

/-- A core reset of the core, then its in-place test. -/
def Dev.testInPlace (d : Dev) (c : Nat) : Dev := (d.coreReset c).modCore c fun k => k.enterTest d.epoch
/-- A core without a logical core enters its test. -/
def Dev.testIdle (d : Dev) (c : Nat) : Dev := d.modCore c fun k => { log := {}, sil := (k.enterTest d.epoch).sil }
/-- The test of a cluster's gateway and router destroys their queues and the confluence slots (R342). -/
def Dev.testRouter (d : Dev) (r : Nat) : Dev :=
  let lost := (d.router r).merges.any fun m => m.2.isSome
  let d := (d.setGw r { d.gw r with conf := [], fwd := [], fwdBusy := [] }).setRouter r {}
  { d with arrived := d.arrived.filter (fun x => x.1 ≠ 4 * r && x.1 ≠ 4 * r + 3), cob := { d.cob with mergeLost := d.cob.mergeLost || lost } }
/-- A port's test is a training, which ends its session (R342, R343). -/
def Dev.testPort (d : Dev) (p : Nat) : Dev :=
  let d := if d.linked p then (d.sendNotice 3 p).portDown p 3 0 else d
  if d.portState p = 3 && d.pfld Fld.FORD_CTRL_ENABLE p = 1 then d.trainStart p else d

/-- What a test destroys as it begins (R342): a core without a logical core is UNDER_TEST; one that holds one is tested in place where no
fence is to come first. None where the test must wait. -/
def Dev.beginTest (d : Dev) (kind unit : Nat) : Option Dev :=
  if kind = 1 then
    match d.lidOf unit with
    | none => some (d.testIdle unit)
    | some _ =>
      let seg := segOf unit
      if !d.sliceFree seg || (d.core unit).sil.moving || d.inProgress || d.flag Fld.COB_STITCH_FORCE_ARM then none
      else if d.flag Fld.HEAL_POLICY_AUTO_FENCE && (d.idleSpare seg).isSome then none
      else some (d.testInPlace unit)
  else if kind = 3 || kind = 4 then some (d.testRouter unit)
  else if kind = 9 then some (d.testPort unit)
  else some d

/-- TARGETED_TEST_START. A fused-bad unit is not tested (R338); for a gateway and its router the tables flip first, and the test begins
once they have (R343). -/
def testStart (kind unit : Nat) (d : Dev) : Dev :=
  match d.heal.tests.find? fun x => x.isOf kind unit && !x.begun with
  | none => d
  | some x =>
    let clear := fun (d : Dev) =>
      if d.fld Fld.HEAL_CMD_KIND = kind && d.fld Fld.HEAL_CMD_UNIT = unit then d.setFld Fld.HEAL_CMD_TEST 0 else d
    let set := fun (d : Dev) (y : Test) => { d with heal := { d.heal with tests := d.heal.tests.map fun z => if z = x then y else z } }
    if fused kind unit && kind ≠ 6 && kind ≠ 7 then
      (clear { d with heal := { d.heal with tests := d.heal.tests.filter (· ≠ x) } }).testResult 5 x.test kind unit
    else if sameKind kind 3 && !x.avoid then
      (if d.tablesFree then set (d.flipAround unit) { x with avoid := true } else d)
    else if sameKind kind 3 && d.flag Fld.COB_RACE_REQ_FLIP then d
    else match d.beginTest kind unit with
      | none => d
      | some e =>
        let inPlace := kind = 1 && (d.lidOf unit).isSome
        clear (set e { x with begun := true, inPlace })

/-- A physical cluster row is exhausted: a row shift, the wish for one, or cores without a host (R351). `lids` are the logical cores
the fault leaves without a host, `core` the failed core. -/
def Dev.exhaust (d : Dev) (row : Nat) (core : Option Nat) (lids : List Nat) : Dev :=
  let v := d.map.cur.v
  let free := fun (d : Dev) => match core with
    | some c => d.modCore c fun k => k.leaveTest d.epoch
    | none => d
  if v = row then free d
  else if v = 12 && row < 12 then
    let d := { d with heal := { d.heal with want := some (row, core) } }
    if d.flag Fld.HEAL_POLICY_AUTO_SHIFT then d
    else free ((d.setFld Fld.HEAL_STATUS_SHIFT_WANTED 1).unhost lids)
  else free (d.unhost lids)

/-- A port that cannot be had with 4 lanes in one group (R291). -/
def portLost (bad : List Nat) : Bool := bad.any (· < 4) && bad.any (4 ≤ ·)
/-- A port goes out of service: DISABLED. -/
def Dev.portOff (d : Dev) (p : Nat) : Dev :=
  if d.portState p = 3 then d.setPfld Fld.FORD_STATE_STATE p 0 else if d.portState p = 0 then d else d.portDown p 0 0xA

/-- A unit that failed goes out of service; so does one whose fault counts as lasting, `count` being its occurrences (R343, R345). -/
def Dev.outOfService (d : Dev) (x : Test) (count : Nat) (bad : List Nat) : Dev :=
  match x.kind with
  | 1 =>
    let c := x.unit
    let d := d.modCore c fun k => { k with sil := { k.sil with fenced := true } }
    if x.inPlace then d.exhaust (c / 136 / 8) (some c) (d.lidOf c).toList
    else d.modCore c fun k => k.leaveTest d.epoch
  | 3 | 4 =>
    let here := (List.range numLogical).filter fun l => d.gwNode l == 4 * x.unit && !d.map.unhosted.contains l
    d.exhaust (x.unit / 8) none here
  | 6 | 7 => d.blockFails x.kind x.unit x.sub
  | 9 => if 1 < count || portLost bad then d.portOff x.unit else d
  | 0xA =>
    (d.setFld (Fld.HBM_STATUS_STATE.at (memBase x.unit)) 4).setFld Fld.HEAL_STATUS_SAFE_AT_RESET 1
  | _ => d

/-- The record of a lasting fault: TEST, COUNT, the first occurrence, and the error that started the test (R335). -/
def Test.record (x : Test) (test count first : Nat) : Defect :=
  { kind := x.kind, test, code := x.code, unit := x.unit, sub := x.sub, count, first, last := x.at_ }
/-- The records of a failed test, `first` being the first occurrence: the unit's; of a port its lanes', with the port's own when 4 lanes
cannot be had, or when its fault counts as lasting (R343, R345). -/
def Dev.failRecords (d : Dev) (x : Test) (test count first : Nat) (bad : List Nat) : Dev :=
  let r := x.record test count first
  if x.kind = 9 then
    let d := bad.foldl (fun d lane => d.addField { r with kind := 8, sub := lane }) d
    if 1 < count || portLost bad then d.addField r else d
  else d.addField r

/-- The transient records of a unit that lie in the window before t (R345). -/
def Dev.inWindow (d : Dev) (x : Test) : List Defect :=
  let w := d.fld Fld.HEAL_POLICY_TRANSIENT_WINDOW * 10 ^ 9
  d.heal.transient.filter fun r => sameKind r.kind x.kind && r.unit == x.unit && r.sub == x.sub && decide (x.at_ ≤ r.last + w) && decide (r.last < x.at_)

/-- A gateway's and router's march takes the next background at their next test (R341). -/
def Dev.nextBackground (d : Dev) (kind unit : Nat) : Dev :=
  if sameKind kind 3 then
    { d with heal := { d.heal with background := NMap.set 0 d.heal.background unit ((NMap.get 0 d.heal.background unit + 1) % 4) } }
  else d

/-- A test that passed: the tables flip back, a core leaves its test (R343, R351). -/
def Dev.testPassed (d : Dev) (x : Test) : Dev :=
  if x.kind = 1 then
    d.modCore x.unit fun k => let k := k.leaveTest d.epoch; if x.inPlace then k.setState .empty d.epoch else k
  else if x.avoid then d.requestFlip else d

/-- TARGETED_TEST_VERDICT: the unit passes when its march and every BIST section do (R340). -/
def testVerdict (kind unit : Nat) (pass : Bool) (found : Findings) (d : Dev) : Dev :=
  let bad := found.bad; let resp := found.resp
  match d.heal.tests.find? fun x => x.isOf kind unit && x.begun with
  | none => d
  | some x =>
    let secs := sectionsOf kind
    let d := { d with heal := { d.heal with tests := d.heal.tests.filter (· ≠ x) } }
    let d := (d.setBist kind unit secs resp).nextBackground kind unit
    let r := if kind = 1 then d.marched unit x.test bad else (d, true)
    let d := r.1
    if pass && bistOk kind secs resp && r.2 then
      let old := d.inWindow x
      let limit := d.fld Fld.HEAL_POLICY_TRANSIENT_LIMIT
      if limit - 1 ≤ old.length then
        let first := (old.map Defect.first).foldl min x.at_
        let d := { d with heal := { d.heal with transient := d.heal.transient.filter fun r => !old.contains r } }
        ((d.failRecords x 7 limit first []).testResult 3 x.test kind unit).outOfService x limit []
      else
        let d := d.addTransient { x.record x.test 1 x.at_ with origin := 2 }
        (d.testResult 1 x.test kind unit).testPassed x
    else ((d.failRecords x x.test 1 x.at_ bad).testResult 2 x.test kind unit).outOfService x 1 bad

/-! ### State moves (R349) -/

/-- STATE_MOVE_END: the copy of a logical core's state is checked. On a mismatch it arrives EMPTY, zero-filled (R348); before a row
shift's map it will arrive so. -/
def stateMoveEnd (lid : Nat) (ok : Bool) (d : Dev) : Dev :=
  let bad := fun (d : Dev) (c : Nat) => d.event { code := 0x600, kind := 1, unit := c, lid }
  match d.hostOf lid with
  | none => d
  | some c =>
    let k := d.core c
    if d.inShift c 4 then
      if ok || d.map.noMove.contains lid then d
      else bad { d with map := { d.map with noMove := d.map.noMove ++ [lid] } } c
    else if !k.sil.moving || d.heal.slices.any (fun x => segOf x.core == segOf c && !x.moved) then d
    else
      let sil := { k.sil with moving := false }
      if ok then d.setCore c { k with sil }
      else bad (d.setCore c { log := {}, sil := { sil with epochIn := d.epoch, errs := [], fold := [] } }) c

/-! ### Rotation slices (R353–R356) -/

/-- The sweep direction of a segment: true east (R353). -/
def Dev.sweepsEast (d : Dev) (seg : Nat) : Bool :=
  let g := d.map.cur.gap (seg / 8) (seg % 8)
  if g = 0 then true else if g = 16 then false else bit (d.reg (0x300100 + 8 * (seg / 64))) (seg % 64)

/-- The neighbour of the spare in the sweep direction. -/
def Dev.sweepCore (d : Dev) (seg : Nat) : Nat :=
  let g := d.map.cur.gap (seg / 8) (seg % 8)
  segCore seg (if d.sweepsEast seg then g + 1 else g - 1)

/-- A segment eligible for a slice (R353). -/
def Dev.eligible (d : Dev) (seg : Nat) : Bool :=
  let c := d.sweepCore seg
  (d.idleSpare seg).isSome && d.sliceFree seg && d.heal.shift.isNone && !d.badCore c &&
  (d.map.flip.isNone || d.map.shadow.gap (seg / 8) (seg % 8) == d.map.cur.gap (seg / 8) (seg % 8)) &&
  !(d.heal.tests.any fun x => x.kind == 1 && segOf x.unit == seg) &&
  ((List.range 17).all fun o => !(d.core (segCore seg o)).sil.moving)

/-- A segment taken first: its cluster is hot, or one of its cores gathers corrected errors (R354). -/
def Dev.hotSegment (d : Dev) (seg : Nat) : Bool :=
  NMap.get 0 d.weir.hot (seg / 64 * 8 + seg % 8) ≠ 0 ||
  (List.range 17).any fun o =>
    let k := d.core (segCore seg o)
    decide (k.sil.eccAt + 16 ≤ k.fld Fld.CORE_ECC_COUNT_CORRECTED)

/-- The segment whose slice firmware starts next at this slice epoch. -/
def Dev.sliceNext (d : Dev) : Option Nat :=
  let order := (List.range 832).map fun i => (d.heal.next + i) % 832
  let ok := order.filter d.eligible
  (ok.find? d.hotSegment).or ok.head?

/-- [T, T + 2 ms) lies in a permitted window (R354). -/
def Dev.sliceWindow (d : Dev) : Bool :=
  let t := d.fld Fld.FT_EPOCH_START_TICK
  let stop := t + 2000000
  (d.flag Fld.HEAL_ROT_CFG_BETWEEN && !d.inProgress &&
    (!d.flag Fld.COB_STEP_NEXT_ARM || decide (stop ≤ d.fld Fld.COB_STEP_START_TICK))) ||
  (d.flag Fld.HEAL_ROT_CFG_IN_STEP && d.inProgress &&
    (let a := d.step.start + d.fld Fld.HEAL_ROT_QUIET_OFFSET
     decide (a ≤ t) && decide (stop ≤ a + d.fld Fld.HEAL_ROT_QUIET_LEN)))

/-- ROTATION_SLICE_START: at a slice epoch's tick the next segment's gap moves to the tested core; its logical core's state is on
its way to the spare (R354, R355, log 43). A core that holds no logical core is tested at once. -/
def sliceStart (seg : Nat) (d : Dev) : Dev :=
  let d := if d.heal.begun / 256 = d.fld Fld.FT_EPOCH_COUNT then d
    else { d with heal := { d.heal with begun := 256 * d.fld Fld.FT_EPOCH_COUNT } }
  if !d.flag Fld.HEAL_ROT_CFG_ENABLE || decide (d.fld Fld.FT_EPOCH_START_TICK + 1 < d.t) || d.fld Fld.FT_EPOCH_COUNT % d.fld Fld.HEAL_ROT_CFG_INTERVAL ≠ 0 || !d.sliceWindow ||
      decide (d.fld Fld.HEAL_ROT_CFG_PARALLEL ≤ d.heal.begun % 256) || d.sliceNext ≠ some seg then d
  else
    let c := d.sweepCore seg
    let east := d.sweepsEast seg
    let g := segOff c
    let idle := (d.lidOf c).isNone
    let f := 0x300100 + 8 * (seg / 64)
    let east := if g = 0 then true else if g = 16 then false else east
    let d := d.setReg f (putBits (d.reg f) (seg % 64) (seg % 64) (b2n east))
    let new := d.map.cur.setGap seg g
    let d := d.rehost new d.map.unhosted []
    let m := d.map
    let m := if m.flip.isSome then
        let sh := m.shadow.setGap seg g
        if m.active then { m with bank1 := new, bank0 := sh } else { m with bank0 := new, bank1 := sh }
      else { m.setShadow new with active := !m.active }
    let d := { d with map := { m with last := d.epoch } }
    let d := if idle then d.testIdle c else d
    let h := d.heal
    { d with heal := { h with slices := h.slices ++ [⟨c, d.fld Fld.FT_EPOCH_START_TICK, idle⟩], next := (seg + 1) % 832,
                              begun := h.begun + 1 } }

/-- SLICE_HANDOFF: once the logical core's units have drained, but for an `sgate` that waits, the tested core is UNDER_TEST. -/
def handoff (seg : Nat) (d : Dev) : Dev :=
  match d.heal.slices.find? fun x => segOf x.core == seg && !x.moved with
  | none => d
  | some x =>
    let off := segOff x.core
    let from_ := fun (o : Nat) => (d.core (segCore seg o)).sil.moving
    let busy := (List.range 17).any fun o => from_ o && decide (o ≠ off) &&
      (let l := (d.core (segCore seg o)).log
       !l.mu.isEmpty || !(l.vu.isEmpty || l.ops.any fun p => match p.kind with | .verdictRead _ _ => true | _ => false))
    if busy then d
    else
      let d := d.testIdle x.core
      { d with heal := { d.heal with slices := d.heal.slices.map fun y => if y = x then { x with moved := true } else y } }

/-- A core's next section and background advance (R341, R356). -/
def Core.nextTest (k : Core) : Core :=
  (k.setFld Fld.CORE_TEST_STATUS_NEXT_SECTION (k.fld Fld.CORE_TEST_STATUS_NEXT_SECTION + 1)).setFld
    Fld.CORE_TEST_STATUS_NEXT_BACKGROUND (k.fld Fld.CORE_TEST_STATUS_NEXT_BACKGROUND + 1)
/-- A slice ends: the core leaves its test. -/
def Dev.sliceDone (d : Dev) (x : Slice) : Dev :=
  let d := { d with heal := { d.heal with slices := d.heal.slices.filter (· ≠ x) } }
  d.modCore x.core fun k =>
    let k := k.leaveTest d.epoch
    ({ k with sil := { k.sil with eccAt := k.fld Fld.CORE_ECC_COUNT_CORRECTED } } : Core).nextTest

/-- SLICE_VERDICT (R340, R346, R356): the march, and the one BIST section of the slice. -/
def sliceVerdict (c : Nat) (pass : Bool) (found : Findings) (d : Dev) : Dev :=
  let bad := found.bad; let resp := found.resp.getD 0 []
  match d.heal.slices.find? fun x => x.core == c && x.moved with
  | none => d
  | some x =>
    let sec := (d.core c).fld Fld.CORE_TEST_STATUS_NEXT_SECTION
    let r := (d.setBist 1 c [sec] [resp]).marched c 3 bad
    let d := (r.1.sliceDone x).addFld Fld.HEAL_ROT_STATUS_SLICES 1
    if pass && sectionOk 1 sec resp && r.2 then d.testResult 1 3 1 c
    else
      let d := (d.addFld Fld.HEAL_ROT_STATUS_FAILS 1).addField { kind := 1, test := 3, unit := c, first := d.t, last := d.t }
      (d.modCore c fun k => { k with sil := { k.sil with fenced := true } }).testResult 2 3 1 c

/-- SLICE_OVERRUN: no verdict 2 ms after T (R356), also for a core that has not handed off by then. -/
def sliceOverrun (c : Nat) (d : Dev) : Dev :=
  match (d.heal.slices.find? fun x => x.core == c && x.moved).or (d.heal.slices.find? fun x => x.core == c) with
  | none => d
  | some x =>
    if d.t < x.at_ + 2000000 then d
    else ((d.sliceDone x).addFld Fld.HEAL_ROT_STATUS_OVERRUNS 1).testResult 4 3 1 c

/-! ### The live row shift (R357, R358) -/

/-- The shift that is wanted begins (R357 steps 1 and 2). -/
def Dev.beginShift (d : Dev) : Dev :=
  match d.heal.want with
  | none => d
  | some (row, core) =>
    if d.heal.shift.isSome || d.map.cur.v ≠ 12 || d.map.flip.isSome || d.flag Fld.COB_RACE_REQ_ARM || d.oldHeld then d
    else
      let lost := match core with
        | some c => (d.map.cur.toLog c).toList
        | none => []
      let d := { d with map := { d.map.setShadow { d.map.cur with v := row } with noMove := lost },
                        heal := { d.heal with shift := some ⟨row, 1, core, d.t⟩, dirty := true } }
      d.requestService 0

/-- LIVE_ROW_SHIFT: by itself with AUTO_SHIFT 1 (R351). -/
def liveRowShift (d : Dev) : Dev := if d.flag Fld.HEAL_POLICY_AUTO_SHIFT then d.beginShift else d

/-- SHIFT_DRAIN_END: no packet for a moving core is left in the Race (R357 step 3). -/
def shiftDrain (d : Dev) : Dev :=
  match d.heal.shift with
  | none => d
  | some x =>
    let moving := fun (p : Packet) => p.dstDev == d.devId && decide (x.row * 1024 ≤ p.dstCore) && decide (p.dstCore < numLogical)
    if x.phase ≠ 2 || d.arrived.any (fun y => moving y.2.p) || d.sendq.any (fun e => e.2.any fun y => moving y.2) ||
      d.routers.any (fun r => r.2.q.any (fun q => q.2.any fun y => moving y.p) || r.2.fly.any fun q => q.2.any moving)
    then d
    else { d with heal := { d.heal with shift := some { x with phase := 3 } } }

/-- Race `normal` again, for the next epoch. -/
def Dev.abandonShift (d : Dev) (x : Shift) : Dev :=
  let d := { d with heal := { d.heal with shift := none, want := none }, map := { d.map with noMove := [] } }
  let lids := match x.lost with | some c => (d.map.cur.toLog c).toList | none => []
  let d := match x.lost with | some c => d.modCore c fun k => k.leaveTest d.epoch | none => d
  ((d.unhost (lids.filter fun l => !d.map.unhosted.contains l)).setFld Fld.HEAL_STATUS_SHIFT_WANTED 0).requestService 1

/-- A core of the reserve row after its march and its BIST section (R341, R342, R357). -/
def Core.reserveTest (k : Core) (verdict now : Nat) : Core :=
  let k := ((k.setFld Fld.CORE_TEST_STATUS_LAST_VERDICT verdict).setFld Fld.CORE_TEST_STATUS_LAST_TIME now).nextTest
  (List.range 8).foldl (fun k b => k.fillBank b) k

/-- SHIFT_RESERVE_TEST_END: `bad` cores of the reserve row are fenced; a segment with two bad positions abandons the shift (R357
step 4). -/
def reserveTested (bad : List Nat) (d : Dev) : Dev :=
  match d.heal.shift with
  | none => d
  | some x =>
    if x.phase ≠ 3 then d
    else
      let d := (List.range' 13056 1088).foldl (fun d c =>
        if fused 1 c then d else d.modCore c fun k => k.reserveTest (if bad.contains c then 2 else 1) d.t) d
      let d := bad.foldl (fun d c =>
        (d.modCore c fun k => { k with sil := { k.sil with fenced := true } }).addField
          { kind := 1, test := 3, unit := c, first := d.t, last := d.t }) d
      let segs := List.range' 768 64
      let bads := fun (seg : Nat) => (List.range 17).filter fun o => d.badCore (segCore seg o)
      if segs.any fun s => decide (2 ≤ (bads s).length) then d.abandonShift x
      else
        let sh := segs.foldl (fun m s => m.setGap s ((bads s).getD 0 16)) d.map.shadow
        { d with map := d.map.setShadow sh, heal := { d.heal with shift := some { x with phase := 4 } } }

/-! ### The ledger (R335–R337, R339) -/

/-- A defect record's bytes (R335). -/
def Defect.bytes32 (x : Defect) : List Byte :=
  leBytes 1 x.kind ++ leBytes 1 x.origin ++ leBytes 1 x.test ++ leBytes 1 x.code ++ leBytes 4 x.unit ++ leBytes 4 x.sub ++
  leBytes 4 x.count ++ leBytes 8 x.first ++ leBytes 8 x.last
/-- DIGEST over a ledger generation's header and records (R336). -/
def Ledger.sum (l : Ledger) : List Byte :=
  sha256 (leBytes 2 1 ++ leBytes 2 l.field.length ++ leBytes 2 l.transient.length ++ leBytes 2 (b2n l.retest) ++ leBytes 8 l.gen ++
    leBytes 8 l.written ++ leBytes 8 0 ++ (l.field ++ l.transient).flatMap Defect.bytes32)
/-- The generation with the highest GENERATION whose DIGEST matches (R337). -/
def Heal.ledger (h : Heal) : Option Ledger :=
  (h.ledgers.filter fun l => l.digest == l.sum).foldl (fun a l => match a with
    | some x => if x.gen < l.gen then some l else some x
    | none => some l) none
/-- Generations as the LEDGER region of 64 MB holds them: the oldest give way (16 R448). -/
def ledgerRing : List Ledger → List Ledger
  | [] => []
  | l :: ls =>
    let size := fun (x : Ledger) => 64 + 32 * (x.field.length + x.transient.length)
    if 64 * 10 ^ 6 < ((l :: ls).map size).foldl (· + ·) 0 then ledgerRing ls else l :: ls

/-- A new generation of the ledger stands in the store (R336, R337). -/
def Dev.storeLedger (d : Dev) : Dev :=
  let h := d.heal
  let gen := (match h.ledger with | some l => l.gen | none => 0) + 1
  let l : Ledger := { gen, written := d.t, field := h.field, transient := h.transient, retest := h.retest, digest := [] }
  let d := { d with heal := { h with dirty := false, ledgers := ledgerRing (h.ledgers ++ [{ l with digest := l.sum }]) } }
  ((d.setFld Fld.HEAL_LEDGER_FIELD_RECORDS h.field.length).setFld Fld.HEAL_LEDGER_TRANSIENT_RECORDS h.transient.length).setFld
    Fld.HEAL_LEDGER_GENERATION gen
/-- With no record left to write, a row shift whose cores have been tested schedules its map and Race `normal` (R357 step 6). -/
def Dev.shiftGoes (d : Dev) : Dev :=
  match d.heal.shift with
  | some x =>
    if x.phase = 4 && !d.heal.dirty then
      let d := { d with map := { d.map with flip := some ((d.epoch + 1) % 2 ^ 16) },
                        heal := { d.heal with shift := some { x with phase := 5 } } }
      d.requestService 1
    else d
  | none => d
/-- LEDGER_WRITE: a new generation where records changed; one that cannot be written is reported, and its units are out of service all the
same (16 R458). A row shift that waited for it goes on. -/
def ledgerWrite (stored : Bool) (d : Dev) : Dev :=
  let d := if !d.heal.dirty then d
    else if stored then d.storeLedger
    else ({ d with heal := { d.heal with dirty := false } } : Dev).event { code := 0x901, kind := 0x22 }
  d.shiftGoes

/-! ### HEAL_CMD and HEAL_MAP_WRITE -/

/-- TEST: a targeted test of KIND and UNIT, as after an error (R343). -/
def Dev.healTest (d : Dev) (kind unit : Nat) : Dev :=
  let d := (d.setFld Fld.HEAL_CMD_KIND kind).setFld Fld.HEAL_CMD_UNIT unit
  (d.setFld Fld.HEAL_CMD_TEST 1).wantTest kind unit 0 0
/-- RETEST: RETEST_PENDING in the ledger (R339). -/
def Dev.healRetest (d : Dev) : Dev :=
  ({ d with heal := { d.heal with retest := true, dirty := true } } : Dev).setFld Fld.HEAL_STATUS_RETEST_PENDING 1
/-- SET_G, SET_V and FLIP (R364). -/
def Dev.mapSetG (d : Dev) (prow ccol g : Nat) : Dev :=
  { d with map := d.map.setShadow (d.map.shadow.setGap (prow * 8 + ccol) g) }
def Dev.mapSetV (d : Dev) (v : Nat) : Dev := { d with map := d.map.setShadow { d.map.shadow with v } }
def Dev.mapFlip (d : Dev) (epoch : Nat) : Dev := { d with map := { d.map with flip := some epoch } }

/-- TARGETED_TEST_START (R344, R351). -/
def execTargetedTestStart (kind unit : Nat) (s : State) : Host.Outcome State Fault Refusal := effect (testStart kind unit) s
/-- TARGETED_TEST_VERDICT (R343, R345–R347, R351). -/
def execTargetedTestVerdict (kind unit : Nat) (pass : Bool) (found : Findings) (s : State) : Host.Outcome State Fault Refusal :=
  effect (testVerdict kind unit pass found) s
/-- FENCE (R348). -/
def execFence (c : Nat) (s : State) : Host.Outcome State Fault Refusal := onUnit (decide (c < numCores)) (fence c) s
/-- STATE_MOVE_END (R349). -/
def execStateMoveEnd (core : Nat) (crcOk : Bool) (s : State) : Host.Outcome State Fault Refusal :=
  onUnit (decide (core < numLogical)) (stateMoveEnd core crcOk) s
/-- ROTATION_SLICE_START (R354). -/
def execRotationSliceStart (seg : Nat) (s : State) : Host.Outcome State Fault Refusal :=
  onUnit (decide (seg < 832)) (sliceStart seg) s
/-- SLICE_HANDOFF (R355). -/
def execSliceHandoff (seg : Nat) (s : State) : Host.Outcome State Fault Refusal := onUnit (decide (seg < 832)) (handoff seg) s
/-- SLICE_VERDICT (R356). -/
def execSliceVerdict (c : Nat) (pass : Bool) (found : Findings) (s : State) : Host.Outcome State Fault Refusal :=
  onUnit (decide (c < numCores)) (sliceVerdict c pass found) s
/-- SLICE_OVERRUN (R356). -/
def execSliceOverrun (c : Nat) (s : State) : Host.Outcome State Fault Refusal :=
  onUnit (decide (c < numCores)) (sliceOverrun c) s
/-- LIVE_ROW_SHIFT (R357). -/
def execLiveRowShift (s : State) : Host.Outcome State Fault Refusal := effect liveRowShift s
/-- SHIFT_DRAIN_END (R357). -/
def execShiftDrainEnd (s : State) : Host.Outcome State Fault Refusal := effect shiftDrain s
/-- SHIFT_RESERVE_TEST_END (R357). -/
def execShiftReserveTestEnd (bad : List Nat) (s : State) : Host.Outcome State Fault Refusal := effect (reserveTested bad) s
/-- LEDGER_WRITE (R337). -/
def execLedgerWrite (stored : Bool) (s : State) : Host.Outcome State Fault Refusal := effect (ledgerWrite stored) s

end Sys2Proof.Machine
end

