-- ==== Sys2Proof/Machine/Views.lean ====
section
/-!
DEFINITION. Reading a register (R7, R9): the value a register shows, computed from the state it reports where it holds none of its
own (CORE_STATE, queues, the map, healing, epochs, Welt rings, the host port).
-/
namespace Sys2Proof.Machine

/-! ### Cores -/

def CState.code (s : CState) : Nat :=
  match s with
  | .empty => 0 | .loading => 1 | .loaded => 2 | .running => 3 | .done => 4 | .faulted => 5 | .hung => 6 | .underTest => 7 | .offline => 8

/-- CORE_IDENTITY.ROLE: active, spare, fenced, vacated, under_test. -/
def Dev.role (d : Dev) (c : Nat) : Nat :=
  if (d.core c).sil.testing then 4 else if (d.lidOf c).isSome then 0 else if d.badCore c then 2
  else if c / 136 / 8 = d.map.cur.v then 3 else 1

/-- CORE_PC (R477). -/
def Dev.pcView (d : Dev) (c : Nat) : Word :=
  let k := d.core c
  let run := k.log.state == .running
  let x := setF (setF 0 Fld.CORE_PC_STALL_RUN k.sil.stall) Fld.CORE_PC_PC (if run then k.log.pc else k.sil.pcHeld)
  if run then setF (setF x Fld.CORE_PC_BLOCK k.sil.block) Fld.CORE_PC_ISSUE_BLOCKED (b2n k.sil.blocked) else x

/-- CORE_STITCH_INQ of stream q. -/
def Core.inqView (k : Core) (q : Nat) : Word :=
  let x := k.log.inQ q
  let isSeal := fun (w : SWord) => w.w.kind == 1
  let v := setF (setF (setF 0 Fld.CORE_STITCH_INQ_ALLOW x.allow) Fld.CORE_STITCH_INQ_SEG x.seg.length) Fld.CORE_STITCH_INQ_A_GEN x.agen
  let v := setF v Fld.CORE_STITCH_INQ_SEAL_HELD (b2n (x.q.any isSeal || x.seg.any isSeal))
  setF (setF v Fld.CORE_STITCH_INQ_SEAL_AT_HEAD (b2n (x.q.head?.any isSeal))) Fld.CORE_STITCH_INQ_OCC x.q.length
/-- CORE_STITCH_OUTQ of stream q. -/
def Core.outqView (k : Core) (q : Nat) : Word :=
  let o := k.log.outQ q
  let v := setF 0 Fld.CORE_STITCH_OUTQ_ROUTED (b2n (k.drives k.gen q))
  setF (setF v Fld.CORE_STITCH_OUTQ_GEN o.gen) Fld.CORE_STITCH_OUTQ_CREDITS o.credits

/-- CORE_MQ_STATUS. -/
def Dev.mqView (d : Dev) (c : Nat) : Word :=
  let l := (d.core c).log
  let v := setF 0 Fld.CORE_MQ_STATUS_OPEN (b2n (closedReason (d.coreState c)).isNone)
  setF (setF (setF (setF v Fld.CORE_MQ_STATUS_MQ3 (l.mqueue 3).length) Fld.CORE_MQ_STATUS_MQ2 (l.mqueue 2).length)
    Fld.CORE_MQ_STATUS_MQ1 (l.mqueue 1).length) Fld.CORE_MQ_STATUS_MQ0 (l.mqueue 0).length

/-- CORE_BANK_GATE: POWERED and WAKING beside GATE. -/
def Core.gateView (k : Core) : Word :=
  let wk := match k.sil.waking with | some b => 2 ^ b | none => 0
  setF (setF (k.reg 0x20) Fld.CORE_BANK_GATE_POWERED k.sil.powered) Fld.CORE_BANK_GATE_WAKING wk

/-- A register of a core block. -/
def Dev.coreView (d : Dev) (c o : Nat) : Word :=
  let k := d.core c
  if o = 0 then setF (setF 0 Fld.CORE_STATE_STATE_EPOCH k.sil.epochIn) Fld.CORE_STATE_STATE (d.coreState c).code
  else if o = 8 then
    let v := setF (setF 0 Fld.CORE_IDENTITY_HOLDS_LOGICAL (b2n (d.lidOf c).isSome)) Fld.CORE_IDENTITY_ROLE (d.role c)
    setF (setF v Fld.CORE_IDENTITY_MAP_EPOCH d.map.last) Fld.CORE_IDENTITY_LOGICAL_ID (d.lid c)
  else if o = 0x18 then d.pcView c
  else if o = 0x20 then k.gateView
  else if o = 0x28 then setF (k.reg 0x28) Fld.CORE_SPILL_CFG_BASE k.spillBase
  else if o = 0x100 then
    let at_ := k.localStreams.map k.sealAtHead
    setF (k.reg 0x100) Fld.CORE_STITCH_GEN_WAITING_SEALS (b2n (at_.any id && !at_.all id))
  else if o = 0x110 then
    let used := (k.log.inq.map fun e => e.2.seg.length).foldl (· + ·) 0
    setF (setF (k.reg 0x110) Fld.CORE_EDDY_STATUS_USED used) Fld.CORE_EDDY_STATUS_PROBE_OUT (k.fld Fld.CORE_EDDY_STATUS_PROBE_OUT)
  else if 0x400 ≤ o && o < 0x500 then k.inqView ((o - 0x400) / 8)
  else if 0x500 ≤ o && o < 0x600 then k.outqView ((o - 0x500) / 8)
  else if o = 0x600 then d.mqView c
  else k.reg o

/-! ### The Checkpoint Store (16 R447–R458) -/

/-- Bytes of the CHECKPOINT region, of an erase block, raw erase blocks, objects at most. -/
def cksBytes : Nat := 7835807000000
def blockBytes : Nat := 16000000
def rawBlocks : Nat := 750000
def maxObjs : Nat := 1048576
/-- Free space of CHECKPOINT. -/
def Dev.cksFree (d : Dev) : Nat := cksBytes - (d.cks.objs.map fun o => o.bytes.length).foldl (· + ·) 0
/-- Records the EVENT_LOG ring of 64 GB holds. -/
def logRing : Nat := 10 ^ 9
/-- Records written to the store: all, or those before it stopped taking them. -/
def Dev.logStored (d : Dev) : Nat := d.cks.logEnd.getD d.cob.log.length

/-- Blocks in service, their mean and highest erase count. -/
def Dev.meanErase (d : Dev) : Nat := ((d.cks.blks.map fun e => e.2.erase).foldl (· + ·) 0) / rawBlocks
def Dev.maxErase (d : Dev) : Nat := (d.cks.blks.map fun e => e.2.erase).foldl max 0

/-- The registers that show the store's state. -/
def Dev.cksView (d : Dev) (off : Nat) : Word :=
  if off = 0x0C000000 then
    let lost := match d.cks.logEnd with | some n => d.cob.log.length - n - 1024 | none => 0
    let v := setF (d.reg off) Fld.CKS_STATUS_LOG_OVERWRITTEN (min ((d.logStored - logRing) / 1000) 0xFFFF)
    setF (setF v Fld.CKS_STATUS_LOG_LOST (min lost 0xFFFF)) Fld.CKS_STATUS_FREE_GB (d.cksFree / 10 ^ 9)
  else if off = 0x0C000008 then
    let v := setF (d.reg off) Fld.CKS_WEAR_LIFE_USED (min (d.meanErase / 30) 100)
    setF (setF v Fld.CKS_WEAR_MEAN_ERASE (min d.meanErase 0xFFF)) Fld.CKS_WEAR_MAX_ERASE (min d.maxErase 0xFFF)
  else
    let ages := (d.cks.blks.filter fun e => e.2.used).map fun e => Config.flashAge (d.t - e.2.at_)
    let due := (ages.filter fun a => decide (d.fld Fld.CKS_RETENTION_HORIZON ≤ a)).length + d.cks.weak.length
    setF (setF (d.reg off) Fld.CKS_RETENTION_BACKLOG due) Fld.CKS_RETENTION_OLDEST (min (ages.foldl max 0) 0xFFFF)

/-! ### The device blocks -/

/-- HEAL_STATUS. -/
def Dev.healView (d : Dev) : Word :=
  let n := d.map.unhosted.length
  let geom := if 16 < n then 3 else if n ≠ 0 then 2 else if d.map.cur.v ≠ 12 then 1 else 0
  let noSpare := ((List.range 832).filter fun s => (d.idleSpare s).isNone).length
  let v := setF (setF (d.reg 0x300000) Fld.HEAL_STATUS_GEOMETRY geom) Fld.HEAL_STATUS_V d.map.cur.v
  let v := setF (setF v Fld.HEAL_STATUS_SHIFTING (b2n d.heal.shift.isSome)) Fld.HEAL_STATUS_UNHOSTED n
  setF (setF v Fld.HEAL_STATUS_NO_SPARE noSpare) Fld.HEAL_STATUS_TESTS d.heal.tests.length

/-- HEAL_MAP_CTRL. -/
def Dev.mapView (d : Dev) : Word :=
  let m := d.map
  let v := setF (setF 0 Fld.HEAL_MAP_CTRL_MAP_EPOCH m.last) Fld.HEAL_MAP_CTRL_REQ_EPOCH (m.flip.getD 0)
  let v := setF (setF v Fld.HEAL_MAP_CTRL_PENDING (b2n m.flip.isSome)) Fld.HEAL_MAP_CTRL_ACTIVE_BANK (b2n m.active)
  setF (setF v Fld.HEAL_MAP_CTRL_V1 m.bank1.v) Fld.HEAL_MAP_CTRL_V0 m.bank0.v

/-- HEAL_MAP_GAP of a bank, row prow. -/
def MapBank.gapView (m : MapBank) (prow : Nat) : Word :=
  (List.range 8).foldl (fun v j => putBits v (5 * j + 4) (5 * j) (m.gap prow j)) 0

/-- HEAL_UNHOSTEDi. -/
def Dev.unhostedView (d : Dev) (i : Nat) : Word :=
  (List.range 4).foldl (fun v j => match d.map.unhosted[4 * i + j]? with
    | some l => putBits (putBits v (16 * j + 15) (16 * j + 15) 1) (16 * j + 13) (16 * j) l
    | none => v) 0

/-- FT_APPLY_STATUS. -/
def Dev.applyView (d : Dev) : Word :=
  let behind := d.cob.lag.map fun x => (d.epoch + 2 ^ 16 - x.epoch) % 2 ^ 16
  let worst := behind.foldl max 0
  setF (setF 0 Fld.FT_APPLY_STATUS_OLDEST ((d.epoch + 2 ^ 16 - worst) % 2 ^ 16)) Fld.FT_APPLY_STATUS_LAGGARDS (min behind.length 0xFFFF)

/-- The stamps of counted resets that lie in [t − WINDOW, t) (R405); an unstamped one counts when `n` resets are held. -/
def Dev.stampsIn (d : Dev) (t n : Nat) : Nat :=
  let w := d.fld Fld.HANG_ESCALATE_WINDOW * 10 ^ 9
  ((List.range (min n 16)).filter fun i =>
    let s := (d.reg (0x400080 + 8 * i)).toNat
    s == 0 || (decide (t ≤ s + w) && decide (s < t))).length

/-- HANG_STATUS. -/
def Dev.hangView (d : Dev) : Word :=
  setF (setF (d.reg 0x400018) Fld.HANG_STATUS_CAPTURING (b2n d.cob.capture.isSome)) Fld.HANG_STATUS_IN_WINDOW
    (d.stampsIn d.t d.cob.counted)

/-- HBM_WELT_STATUS of engine e. -/
def Dev.weltView (d : Dev) (e : Nat) : Word :=
  let of := fun (st : Nat) => (List.range 16).foldl (fun a r => if d.ring Fld.HBM_WELT_RING_CTRL_STATE e r = st then a + 2 ^ r else a) 0
  let out := ((d.memc e).descs.filter fun x => !x.ran).length
  setF (setF (setF 0 Fld.HBM_WELT_STATUS_OUTSTANDING out) Fld.HBM_WELT_STATUS_STOPPED (of 2)) Fld.HBM_WELT_STATUS_RUNNING (of 1)

/-- Packets of earlier epochs a router holds (RACE_CTRL.OLD_IN_FLIGHT). -/
def Dev.oldInFlight (d : Dev) (r : Nat) : Nat :=
  (((d.router r).q.map fun e => (e.2.filter fun x => d.behind r x.p == 1 || d.behind r x.p == 2).length).foldl (· + ·) 0)

/-- The value a register of the device blocks shows. -/
def Dev.devView (d : Dev) (off : Nat) : Word :=
  if off = 0x200000 then d.now
  else if off = 0x200038 then d.applyView
  else if off = 0x300000 then d.healView
  else if off = 0x300040 then d.mapView
  else if 0x300060 ≤ off && off < 0x300080 then d.unhostedView ((off - 0x300060) / 8)
  else if 0x301000 ≤ off && off < 0x301800 then d.map.bank0.gapView ((off - 0x301000) / 8)
  else if 0x301800 ≤ off && off < 0x302000 then d.map.bank1.gapView ((off - 0x301800) / 8)
  else if off = 0x400018 then d.hangView
  else if off = 0x928 then setF (d.reg off) Fld.COB_TOPO_STATUS_DESC_HELD (b2n d.cob.desc.isSome)
  else if off = 0xB000000 then setF (d.reg off) Fld.HOST_LINK_STATUS_QPS (d.host.qps.filter fun x => x.2.any fun q => !q.err).length
  else if off = 0x0C000000 || off = 0x0C000008 || off = 0x0C000010 then d.cksView off
  else if off = 0xE001000 then
    setF (d.reg off) Fld.CNT_CTRL_SETTLED (b2n (d.flag Fld.CNT_CTRL_SETTLED && decide (d.weir.frozenAt + 2000 ≤ d.t)))
  else d.reg off

/-- Fields that read as zero: WO. -/
def RegRow.mask (r : RegRow) (v : Word) : Word :=
  r.fields.foldl (fun v f => if f.2.2 == .wo then putBits v f.1 f.2.1 0 else v) v

/-- What a read of the register at an offset returns, where a register stands (R7, R9, R10). -/
def Dev.read (d : Dev) (off : Nat) : Word :=
  let v := match blockOf off with
    | (.core c, o) => d.coreView c o
    | (.mem k, o) => if o = 0x3010 then d.weltView k else d.reg off
    | (.race r, o) => if o = 0 then setF (d.reg off) (Fld.RACE_CTRL_OLD_IN_FLIGHT) (min (d.oldInFlight r) 0xFFFF) else d.reg off
    | _ => d.devView off
  match rowAt off with | some r => r.mask v | none => 0

end Sys2Proof.Machine
end

