-- ==== Sys2Proof/Machine/Recover.lean ====
section
/-!
DEFINITION. Watchdogs, capture and reset (13 R388–R406; 12 R386, R387): event and capture records, hung units, the reset domains,
escalation and benching, clock-domain crossings.
-/
namespace Sys2Proof.Machine

/-! ### Records (R394, R400) -/


/-- The 64 bytes of an event record (Table — Event record). -/
def Event.bytes (dev : Nat) (e : Event) : List Byte :=
  leBytes 2 e.code ++ leBytes 1 e.kind ++ leBytes 1 e.region ++ leBytes 4 e.unit ++ leBytes 2 e.lid ++
  leBytes 2 (match e.pc with | some p => 0x8000 + p | none => 0) ++ leBytes 1 e.idKind ++ leBytes 1 0 ++ leBytes 2 e.id ++
  leBytes 8 e.time ++ leBytes 6 e.step ++ leBytes 2 e.epoch ++ leBytes 2 dev ++ leBytes 2 0 ++ fit 28 e.detail

/-- Registers read one after the other, 8 bytes each (log 50). -/
def Dev.words (d : Dev) (offs : List Nat) : List Byte := offs.flatMap fun o => leBytes 8 (d.read o).toNat

/-- The source a stream counter is bound to, as a number. -/
def Bind.code (b : Bind) : Nat :=
  match b with | .unbound => 0 | .inS q => 0x100 + q | .outS q => 0x200 + q | .mq k => 0x300 + k

/-- The data of a core's section (Table — Capture contents), at most 3,328 bytes. -/
def Dev.coreSection (d : Dev) (c : Nat) : List Byte :=
  let l := (d.core c).log
  let b := coreBase c
  let heads := (List.range 32).flatMap fun q =>
    let x := NMap.get ({} : InQ) l.inq q
    ((x.q.head?.toList ++ x.seg.head?.toList).flatMap fun w => leBytes 64 w.w.data.toNat)
  let mqs := (List.range 4).flatMap fun k => ((NMap.get [] l.mq k).head?.toList.flatMap fun x => leBytes 64 x.toNat)
  fit' 3328 (d.words ((List.range 2).map (fun i => b + 8 * i) ++ [b + 0x18] ++ (List.range' 7 5).map fun i => b + 8 * i) ++
    ((List.range 32).flatMap fun i => leBytes 8 (NMap.get (0 : Word) l.s i).toNat) ++
    ((List.range 4).flatMap fun i => leBytes 8 (NMap.get 0 l.lc i)) ++
    ((List.range 8).flatMap fun i => leBytes 2 (Bind.code (NMap.get Bind.unbound l.sc i)) ++ leBytes 1 ((d.core c).counter i)) ++
    ((List.range 32).flatMap fun i => leBytes 1 (2 * NMap.get 0 l.ctStat i + b2n (nbit l.ctPend i))) ++
    d.words ([b + 0x100, b + 0x110] ++ (List.range 64).map fun i => b + 0x400 + 8 * i) ++ heads ++ mqs)
where fit' (n : Nat) (l : List Byte) : List Byte := l.take n

/-- The data of a gateway's section: barriers, flags, confluence entries, statistics, Eddy logs, headers of held packets. -/
def Dev.gwSection (d : Dev) (r : Nat) : List Byte :=
  let g := d.gw r
  let b := cluBase r
  ((List.range 256).flatMap fun i =>
    let x := NMap.get ({} : Bar) g.bars i
    leBytes 1 (b2n x.valid) ++ leBytes 1 x.root ++ leBytes 2 x.members ++ leBytes 2 x.entered ++ leBytes 2 x.arrived) ++
  ((List.range 64).flatMap fun i => leBytes 8 (NMap.get (0 : Word) g.flags i).toNat) ++
  ((List.range 64).flatMap fun i =>
    d.words ((List.range 4).map fun j => b + 0x9000 + 0x20 * i + 8 * j) ++ leBytes 8 (NMap.get ({} : Conf) g.conf i).blocks.length) ++
  d.words [b + 0x8100, b + 0x8008, b + 0x8010] ++
  ((d.arrived.filter fun x => x.1 == 4 * r).flatMap fun x => packetHeader x.2.p)

/-- The data of a router's section. -/
def Dev.routerSection (d : Dev) (r : Nat) : List Byte :=
  d.words [raceBase r, raceBase r + 8] ++
  (List.range 14).flatMap fun k =>
    let q := NMap.get [] (d.router r).q k
    leBytes 4 q.length ++ (q.head?.toList.flatMap fun x => packetHeader x.p)

/-- The data of a controller's section: registers, rings, completion queue, started requests of 16 bytes each. -/
def Dev.memSection (d : Dev) (k : Nat) : List Byte :=
  let b := memBase k
  d.words ((List.range 6).map (fun i => b + 8 * i) ++ (List.range 16).map (fun i => b + 0x2008 + 16 * i) ++ [b + 0x3008, b + 0x3010]) ++
  ((d.memc k).descs.take 256).flatMap fun x => leBytes 4 x.ring ++ leBytes 4 x.index ++ leBytes 8 x.at_

/-- The data of a Ford port's section. -/
def Dev.fordSection (d : Dev) (p : Nat) : List Byte :=
  let b := fordBase p
  let x := d.port p
  d.words [b + 8, b + 0x48, b + 0x50] ++
  ((List.range 4).flatMap fun k =>
    let q := NMap.get [] x.pools k
    leBytes 4 q.length ++ (q.head?.toList.flatMap fun y => packetHeader y.p)) ++
  leBytes 2 ((x.retry.head?.map Frame.seq).getD 0) ++ leBytes 2 x.retry.length

/-- The host port's and Cobbler's sections. -/
def Dev.hostSection (d : Dev) : List Byte :=
  d.words [0xB000000] ++ d.host.qps.flatMap fun e => match e.2 with
    | some q => leBytes 4 e.1 ++ leBytes 2 (q.rate / 10 ^ 6) ++ leBytes 2 (b2n q.err)
    | none => []
def Dev.cobSection (d : Dev) : List Byte :=
  d.words ((List.range 9).map (fun i => 0x800 + 8 * i) ++ [0x200028, 0x900, 0x908, 0x910] ++ (List.range 11).map fun i => 0x300000 + 8 * i) ++
  ((d.cob.log.drop (d.cob.log.length - 1024)).flatMap fun e => e.bytes d.devId)

/-- The units a capture may read, in reading order: each physical cluster row's gateways, routers and cores, then the perimeter. -/
def captureUnits : List (Nat × Nat) :=
  ((List.range 13).flatMap fun row =>
    (List.range' (8 * row) 8).map (fun r => (3, r)) ++ (List.range' (8 * row) 8).map (fun r => (4, r)) ++
    (List.range' (1088 * row) 1088).map fun c => (1, c)) ++
  (List.range 20).map (fun k => (0x0A, k)) ++ (List.range 20).map (fun p => (9, p)) ++ [(0x20, 0), (0x21, 0)]

/-- The data of a unit's section. -/
def Dev.section_ (d : Dev) (kind unit : Nat) : List Byte :=
  match kind with
  | 1 => d.coreSection unit
  | 3 => d.gwSection unit
  | 4 => d.routerSection unit
  | 0x0A => d.memSection unit
  | 9 => d.fordSection unit
  | 0x20 => d.hostSection
  | _ => d.cobSection

/-- A section: its 64-byte header, then its data; an unreadable unit leaves a hole (R397, R400). -/
def sectionOf (kind unit status : Nat) (data : List Byte) : List Byte :=
  leBytes 1 kind ++ leBytes 1 status ++ leBytes 2 0 ++ leBytes 4 unit ++ leBytes 8 data.length ++ List.replicate 48 0 ++ data

/-- A unit's section with its status: 0 read, 1 unreadable, 2 truncated with the bytes already read kept (R397). -/
def Dev.unitSection (d : Dev) (x : Capture) (kind unit : Nat) : Nat × List Byte :=
  match x.part.find? fun y => y.1 == kind && y.2.1 == unit with
  | some y => (2, sectionOf kind unit 2 ((d.section_ kind unit).take y.2.2))
  | none => if x.missing.contains (kind, unit) then (1, sectionOf kind unit 1 []) else (0, sectionOf kind unit 0 (d.section_ kind unit))

/-- The sections that keep a record within `room` bytes: a capture ends at the first that would not fit (R398). -/
def fitSections (room : Nat) : List (Nat × List Byte) → List (Nat × List Byte)
  | [] => []
  | s :: rest => if s.2.length ≤ room then s :: fitSections (room - s.2.length) rest else []

/-- Each section that a capture means to write, with its status. -/
def Dev.wholeSections (d : Dev) (x : Capture) : List (Nat × List Byte) :=
  let read := (captureUnits.filter fun u => d.captured u.1 u.2).map fun u => d.unitSection x u.1 u.2
  (match x.cut with | some n => read.take n | none => read) ++ x.copied.toList.map fun w => (0, sectionOf 0x24 0 0 w)

/-- The sections of a capture's record: at most 256 MiB with its header (R398). -/
def Dev.sections (d : Dev) (x : Capture) : List (Nat × List Byte) := fitSections (2 ^ 28 - 4096) (d.wholeSections x)

/-- A capture ended at a limit (R398). -/
def Dev.truncated (d : Dev) (x : Capture) : Bool :=
  x.cut.isSome || decide ((d.sections x).length < (d.wholeSections x).length)

/-- The capture record (R400). -/
def Dev.captureRecord (d : Dev) (x : Capture) (id : Nat) : List Byte :=
  let secs := d.sections x
  let body := secs.flatMap Prod.snd
  let holes := (secs.filter fun s => s.1 ≠ 0).length
  let fw := (d.reg 0x10).toNat / 2 ^ 16
  let head := leBytes 2 1 ++ leBytes 1 x.trigger ++ leBytes 1 (if x.domain < 8 then x.domain else 0) ++ leBytes 4 id ++
    leBytes 8 x.since ++ leBytes 8 d.t ++ leBytes 6 d.stepNo ++ leBytes 2 d.epoch ++ leBytes 2 d.devId ++
    leBytes 1 (d.fld Fld.COB_BRINGUP_STATE + 16 * d.stepState) ++
    leBytes 1 (b2n (d.truncated x) + 2 * d.fld Fld.FT_STATUS_VALID) ++ leBytes 4 secs.length ++ leBytes 4 holes ++
    leBytes 8 (4096 + body.length) ++ leBytes 6 fw ++ leBytes 6 0 ++
    fit 1024 ((x.trigs.take 64).flatMap fun t => leBytes 2 t.1 ++ leBytes 1 t.2.1 ++ leBytes 1 0 ++ leBytes 4 t.2.2.1 ++ leBytes 8 t.2.2.2) ++
    List.replicate 2976 0
  head ++ sha256 (head ++ body) ++ body

/-! ### Capture (R395–R399) -/

/-- BENCHED (R405, R406). -/
def Dev.benched (d : Dev) : Bool := d.flag Fld.HANG_STATUS_BENCHED

/-- A counted reset (R404, R405): the request of a device reset is stamped as it is registered, with 0 while fabric time is not VALID;
one that finds LIMIT − 1 stamps in its window benches the device. -/
def Dev.countReset (d : Dev) : Dev :=
  let limit := d.fld Fld.HANG_ESCALATE_LIMIT
  let bench := decide (limit ≠ 0) && decide (limit - 1 ≤ d.stampsIn d.t d.cob.counted)
  let stamp := if d.flag Fld.FT_STATUS_VALID then d.t else 0
  let old := (List.range 16).map fun i => d.reg (0x400080 + 8 * i)
  let d := (List.range 16).foldl (fun d i =>
    d.setReg (0x400080 + 8 * i) (if i = 0 then BitVec.ofNat 64 stamp else old.getD (i - 1) 0)) d
  let d : Dev := { d with cob := { d.cob with counted := min 16 (d.cob.counted + 1) } }
  if bench && !d.benched then ((d.setFld Fld.HANG_STATUS_BENCHED 1).event { code := 0x703, kind := 0x24 }).alert 5 else d
/-- The request of a reset of this domain is registered: a device reset counts, whoever asked for it (R404). -/
def Dev.registered (d : Dev) (domain : Nat) : Dev := if 6 ≤ domain then d.countReset else d

/-- A reset is requested: it waits for the capture, and for higher resets (R399). -/
def Dev.wantReset (d : Dev) (domain index : Nat) : Dev :=
  if d.cob.waiting.any fun x => x.1 == domain && x.2.1 == index then d
  else { d with cob := { d.cob with waiting := d.cob.waiting ++ [(domain, index, d.t)] } }

/-- Reset notices to the peers before a device reset (R295, R396). -/
def Dev.noticeAll (d : Dev) (domain : Nat) : Dev :=
  if domain = 6 || domain = 7 then (List.range 20).foldl (fun d p => d.sendNotice (domain - 5) p) d else d

/-- A capture starts, or its trigger joins the one that runs; `reset` asks for the reset of the domain; that of the Race or the device
aborts a step in progress now (R396, R399). The runtime's request, trigger 3, was registered when GO was set. -/
def Dev.startCapture (d : Dev) (trigger domain index : Nat) (ev : Nat × Nat × Nat) (reset : Bool) : Dev :=
  let d := if reset then if trigger = 3 then d else d.registered domain else d
  let d := if reset && (domain = 2 || 6 ≤ domain) then d.abortStep else d
  let d := if reset then d.wantReset domain index else d
  let d := if reset then d.noticeAll domain else d
  let trig := (ev.1, ev.2.1, ev.2.2, d.t)
  let x := match d.cob.capture with
    | none => { trigger, domain, index, since := d.t, trigs := [trig] }
    | some x => { x with joined := x.joined ++ [(trigger, domain, index)], trigs := x.trigs ++ [trig] }
  { d with cob := { d.cob with capture := some x } }

/-- A domain and index that exist (R403). -/
def domainOk (domain index : Nat) : Bool :=
  match domain with
  | 0 => decide (index < numCores)
  | 1 => decide (index < numRouters)
  | 3 | 4 => decide (index < 20)
  | n => decide (n < 8)

/-- CAPTURE: 3 the runtime's request in HANG_CMD, 4 firmware's own, with its reset, 1 a core watchdog's, without one; those of hung
units, of Cobbler's watchdog and of a forced reconfiguration start with their events (R395). -/
def captureStart (trigger domain index : Nat) (d : Dev) : Dev :=
  if !domainOk domain index then d
  else if trigger = 3 then
    let same := decide (d.fld Fld.HANG_CMD_DOMAIN = domain) && (!(domain = 0 || domain = 1 || domain = 3 || domain = 4) ||
      decide (d.fld Fld.HANG_CMD_INDEX = index))
    if !d.flag Fld.HANG_CMD_GO || !same then d
    else (d.setFld Fld.HANG_CMD_GO 0).startCapture 3 domain index (0, 0x24, 0) (!d.flag Fld.HANG_CMD_CAPTURE_ONLY)
  else if trigger = 4 then
    if domain = 0 || (6 ≤ domain && d.benched) then d else d.startCapture 4 domain index (0, 0x24, 0) true
  else if trigger = 1 then d.startCapture 1 domain index (0x12, 1, index) false
  else if trigger = 6 then
    if d.cob.copying && d.cob.capture.isNone then
      { d with cob := { d.cob with capture := some { trigger := 6, domain := 8, index := 0, since := d.t, trigs := [(0, 0x24, 0, d.t)], words := true } } }
    else d
  else d

/-- The debug ring node of a unit in scope stops answering: one that never answered is unreadable, one that did is truncated (R397). -/
def nodeTimeout (kind : Nat) (node : NodeRead) (d : Dev) : Dev :=
  let unit := node.unit; let read := node.read
  match d.cob.capture with
  | none => d
  | some x =>
    if d.captured kind unit && !x.missing.contains (kind, unit) then
      { d with cob := { d.cob with capture := some { x with
        missing := x.missing ++ [(kind, unit)], part := if read = 0 then x.part else x.part ++ [(kind, unit, read)] } } }
    else d

/-- A capture that passes CAPTURE_LIMIT ms ends where it stands: how many sections were read is free (R398, log 51). -/
def captureCut (d : Dev) : Dev :=
  match d.cob.capture with
  | none => d
  | some x =>
    if x.cut.isSome || decide (d.t < x.since + d.fld Fld.HANG_CAPTURE_CAPTURE_LIMIT * 10 ^ 6) then d
    else { d with fresh := d.fresh + 1, cob := { d.cob with capture := some { x with cut := some (Config.freeNat d.fresh) } } }

/-- Whole records of the CAPTURE ring, 100 GB, the oldest giving way (16 R448). -/
def capRing (l : List (Nat × List Byte)) : List (Nat × List Byte) :=
  let size := fun (l : List (Nat × List Byte)) => (l.map fun x => x.2.length).foldl (· + ·) 0
  match l with
  | [] => []
  | x :: rest => if 100 * 10 ^ 9 < size (x :: rest) then capRing rest else x :: rest

/-- The Checkpoint Store takes capture records: READY (16 R457). -/
def Dev.cksReady (d : Dev) : Bool := d.fld Fld.CKS_STATUS_STATE == 2

/-- The units that a capture could not read whole are to be tested as after an error of theirs (R397). -/
def Dev.testSuspects (d : Dev) : Dev :=
  d.cob.suspects.foldl (fun d u => d.wantTest u.1 u.2 0 0) { d with cob := { d.cob with suspects := [] } }

/-- CAPTURE_DONE: the record is stored or lost, the frozen units go on, units it could not read whole are to be tested, after the reset
where one waits (R396–R398). -/
def captureDone (stored : Bool) (d : Dev) : Dev :=
  match d.cob.capture with
  | none => d
  | some x =>
    let id := d.fld Fld.HANG_CAPTURE_CAPTURE_ID + 1
    let ok := stored && d.cksReady
    let record := d.captureRecord x id
    let holes := ((d.sections x).filter fun s => s.1 ≠ 0).length
    let cut := d.truncated x
    let d := if ok then { d with cks := { d.cks with captures := capRing (d.cks.captures ++ [(id, record)]) } } else d
    let d := ((d.setFld Fld.HANG_CAPTURE_CAPTURE_ID id).setFld Fld.HANG_CAPTURE_TRUNCATED (b2n cut)).setFld
      Fld.HANG_CAPTURE_UNREADABLE (min holes 0xFFFF)
    let d := (d.setFld Fld.HANG_CAPTURE_CAPTURE_LOST (b2n !ok)).setReg 0x400030 d.now
    let d := { d with cob := { d.cob with capture := none, suspects := d.cob.suspects ++ x.missing } }.event { code := 0x701, kind := 0x21 }
    if d.cob.waiting.isEmpty then d.testSuspects else d

/-! ### Resets above core level (R401, R402) -/

/-- The half of a crossing at a node is discarded: requests draw `unit_reset` (R386). -/
def Dev.crossDiscard (d : Dev) (node : Nat) : Dev :=
  let here := d.arrived.filter fun x => x.1 == node
  let d := { d with arrived := d.arrived.filter fun x => x.1 ≠ node }
  here.foldl (fun d x => (d.addFld Fld.COB_XING_STATUS_DISCARDS 1).error node x.2.p 0x8E) d

/-- The registers of a block return to their reset values, but those `keep` names by their offset in the block. -/
def Dev.clearBlock (d : Dev) (blk : Blk) (keep : Nat → Bool) : Dev :=
  { d with regs := d.regs.filter fun e => let b := blockOf e.1; b.1 ≠ blk || keep b.2 }

/-- Cluster: the gateway and the core resets of its cores; its event counters stay (15 R446). -/
def Dev.resetCluster (d : Dev) (r : Nat) : Dev :=
  let d := (List.range numCores).foldl (fun d c => if routerOf c = r then d.coreReset c else d) d
  let d := (d.setGw r {}).clearBlock (.clu r) fun o => decide (0xB000 ≤ o) && decide (o < 0xB080)
  d.crossDiscard (4 * r)

/-- Race: every router, the mesh's packets being discarded; service returns in sync_only, and firmware schedules normal. -/
def Dev.resetRace (d : Dev) : Dev :=
  let held := (List.range numRouters).flatMap fun r =>
    ((d.router r).q.flatMap fun e => e.2.map fun x => (r, x.p)) ++ ((d.router r).fly.flatMap fun e => e.2.map fun p => (r, p)) ++
    ((d.arrived.filter fun x => x.1 == 4 * r + 3).map fun x => (r, x.2.p))
  let d := { d with cob := { d.cob with mergeLost := d.cob.mergeLost || d.routers.any fun e => e.2.merges.any fun m => m.2.isSome } }
  let d := { d with routers := [], arrived := d.arrived.filter fun x => x.1 % 4 ≠ 3 }
  let d := (List.range numRouters).foldl (fun d r =>
    (d.clearBlock (.race r) fun _ => false).setFld (Fld.RACE_CTRL_APPLIED_EPOCH.at (raceBase r)) d.epoch) d
  let d := (d.setReg 0x520 (resetOf 0x520)).setFld Fld.COB_RACE_STATUS_APPLIED_EPOCH d.epoch
  let d := held.foldl (fun d x => (d.addFld Fld.COB_XING_STATUS_DISCARDS 1).routerError x.1 x.2 0x8E) d
  d.requestService 1

/-- Memory controller: it trains again, rings STOPPED, remap entries and contents kept; contents that could not go into self-refresh are
lost (R268). -/
def Dev.resetMem (d : Dev) (k : Nat) : Dev :=
  let m := d.memc k
  let d := d.setMemc k { saved := m.saved, suspect := m.suspect, flips := m.flips, lost := m.noRefresh, dram := m.dram, noRefresh := m.noRefresh }
  let d := { d with weir := { d.weir with phys := d.weir.phys.filter fun e => e.1 / 64 ≠ k } }
  let d := d.clearBlock (.mem k) fun o => decide (0x1000 ≤ o) && decide (o < 0x3010)
  let d := (List.range 16).foldl (fun d r =>
    d.setFld (ringFld Fld.HBM_WELT_RING_CTRL_STATE k r) 2) d
  let d := d.setFld (Fld.HBM_STATUS_STATE.at (memBase k)) 1
  let d := d.crossDiscard (memNode k)
  if memNode1 k = memNode k then d else d.crossDiscard (memNode1 k)

/-- Ford port: its notice, then a new training; a port not enabled, or with a record, is DISABLED. -/
def Dev.resetPort (d : Dev) (p : Nat) : Dev :=
  let d := (if d.portState p = 0 then d else (d.sendNotice 3 p).portDown p 3 0).crossDiscard (portNode p)
  let d := { d with cob := { d.cob with mergeLost := d.cob.mergeLost || (d.port p).merges.any fun m => m.2.isSome } }
  let d := d.modPort p fun x => { x with merges := [] }
  if d.pfld Fld.FORD_CTRL_ENABLE p = 1 && !d.portOut p then d.trainStart p else d.setPfld Fld.FORD_STATE_STATE p 0

/-- Host port: the link trains again, its queue pairs and windows are gone. -/
def Dev.resetHost (d : Dev) : Dev :=
  let d := (d.setFld Fld.HOST_LINK_STATUS_STATE 1).setFld Fld.HOST_LINK_STATUS_WIDTH 0
  { d with host := { nextKey := d.host.nextKey } }.crossDiscard hostNode

/-- The recovery time in ns of a domain (Table — Reset domains). -/
def Dev.recovery (d : Dev) (domain index : Nat) : Nat :=
  match domain with
  | 1 => 4 * 10 ^ 6
  | 2 => 10 ^ 7
  | 3 => if (d.memc index).saved then (if index < 16 then 2 * 10 ^ 8 else 5 * 10 ^ 7)
         else (if index < 16 then 2 * 10 ^ 9 else 15 * 10 ^ 8)
  | 4 => if d.fastPath index then 41 * 10 ^ 6 else 341 * 10 ^ 6
  | 5 => 15 * 10 ^ 8
  | _ => 0
/-- The domain is back in service. -/
def Dev.inService (d : Dev) (domain index : Nat) : Bool :=
  match domain with
  | 2 => d.fld Fld.COB_RACE_STATUS_SERVICE == 1
  | 3 => d.fld (Fld.HBM_STATUS_STATE.at (memBase index)) == 3
  | 4 => d.linked index
  | 5 => d.fld Fld.HOST_LINK_STATUS_STATE == 2
  | _ => true

/-- The store changes its state: CKS_STATE (16 R457); a FAILED one takes no more event records (16 R458). -/
def Dev.cksSet (d : Dev) (st : Nat) : Dev :=
  if d.fld Fld.CKS_STATUS_STATE = st then d
  else
    let d := if st = 4 then { d with cks := { d.cks with logEnd := some d.cob.log.length } } else d
    (d.setFld Fld.CKS_STATUS_STATE st).event { code := 0x900, kind := 0x22, detail := leBytes 2 st }

/-! ### Device resets (R373, R401, R404–R406) -/

/-- The RWS fields of a register with their old values, the others at reset (R7). -/
def RegRow.sticky (r : RegRow) (reset old : Word) : Word :=
  r.fields.foldl (fun v f => if f.2.2 == .rws then putBits v f.1 f.2.1 (bits old f.1 f.2.1) else v) reset

/-- Registers a warm reset keeps whole: the always-on domain, the step state, histories since the last cold reset, the identity, wear,
saved settings and remap entries (R323, R372, R373, R401). -/
def warmKeeps (off : Nat) : Bool :=
  match blockOf off with
  | (.dev, o) =>
    o == 0x18 || o == 0x820 || o == 0x830 || (0x200000 ≤ o && o < 0x200038) || o == 0x300020 || o == 0x300050 || (0x300100 ≤ o && o < 0x300168) ||
    o == 0x400018 || o == 0x400030 || (0x400080 ≤ o && o < 0x400100) || o == 0x920 || o == 0xB000000 || (0xD000000 ≤ o && o < 0xD000048) ||
    o == 0xC000008 || (0x102000 ≤ o && o < 0x102340)
  | (.mem _, o) => 0x1000 ≤ o && o < 0x1800
  | (.ford _, o) => o == 0x60
  | _ => false

/-- The registers after a warm reset. -/
def Dev.warmRegs (d : Dev) : NMap Word :=
  d.regs.filterMap fun e =>
    match rowAt e.1 with
    | some r =>
      let v := if warmKeeps e.1 then e.2 else r.sticky (resetOf e.1) e.2
      if v = resetOf e.1 then none else some (e.1, v)
    | none => none

/-- A core after a warm reset: its scratchpad with the errors stored in it, remap entries, test history, fences. -/
def Core.warm (k : Core) : Core :=
  { log := { spad := k.log.spad, regs := k.log.regs.filter fun e => e.1 == 0x10 },
    sil := { errs := k.sil.errs, fold := k.sil.fold, reach := k.sil.reach, fenced := k.sil.fenced,
             regs := k.sil.regs.filter fun e => e.1 == 0x608 || (decide (0x700 ≤ e.1) && decide (e.1 < 0x800)) } }

/-- A bring-up starts: its first state, kind, and time of entry. -/
def Dev.beginBringup (d : Dev) (state kind fast : Nat) : Dev :=
  let d := ((d.setReg 0x900 0).setFld Fld.COB_BRINGUP_STATE state).setFld Fld.COB_BRINGUP_RESET_KIND kind
  (d.setFld Fld.COB_BRINGUP_FAST fast).setReg 0x908 d.now

/-- Device warm reset: the always-on domain, sticky registers, memory, fabric time, step state and registered flips (R323) stay. -/
def Dev.warmReset (d : Dev) : Dev :=
  let cores := (d.cores.map fun e => (e.1, e.2.warm)).filter fun e => e.2 ≠ ({} : Core)
  let mems := (d.mems.map fun e => (e.1, ({ saved := e.2.saved, suspect := e.2.suspect, flips := e.2.flips, dram := e.2.dram, noRefresh := e.2.noRefresh } : MemCtl))).filter fun e => e.2 ≠ ({} : MemCtl)
  let ports := (d.ports.map fun e => (e.1, ({ peer := e.2.peer } : Port))).filter fun e => e.2 ≠ ({} : Port)
  let safe := d.fld Fld.HEAL_STATUS_SAFE_AT_RESET
  let cap := d.reg 0x400028
  let n : Dev :=
    { now := d.now, slew := d.slew, phase := d.phase, fresh := d.fresh, out := d.out, regs := d.warmRegs, cores, mems, ports,
      mem := d.mem, memErr := d.memErr, memFold := d.memFold, memReach := d.memReach, step := d.step, power := d.power,
      heal := { ledgers := d.heal.ledgers, unwritten := d.heal.unwritten, tests := d.heal.tests.filter fun x => !x.begun },
      cob := { log := d.cob.log, sent := d.cob.sent, counted := d.cob.counted, desc := if d.cob.keepDesc then d.cob.desc else none,
               kickAt := d.t, trained := d.cob.trained },
      host := { nextKey := d.host.nextKey },
      cks := { d.cks with reqs := [] } }
  let n := (n.setReg 0x400028 (putBits cap 61 48 0x64)).setFld Fld.COB_FW_VERSION_ROLLBACK_INDEX (d.fld Fld.SEC_ROLLBACK_FUSED)
  let n := (List.range numRouters).foldl (fun n r => n.setFld (Fld.RACE_CTRL_APPLIED_EPOCH.at (raceBase r)) n.epoch) n
  let n := n.setFld Fld.WEIR_STATUS_TRIPS (d.fld Fld.WEIR_STATUS_TRIPS)
  let n := (List.range 104).foldl (fun n k => n.setFld (Fld.WEIR_AVS_FLOOR.nth 8 k) (Config.floorVolt k 0x30).toNat) n
  ((n.setFld Fld.HEAL_STATUS_SAFE_AT_RESET safe).beginBringup 1 1 1).cksSet 1

/-- Device cold reset, without removing rails (17 R467): only the fuses, the Checkpoint Store and the reset history in it stay. -/
def Dev.coldReset (d : Dev) : Dev :=
  let keep := d.regs.filter fun e => (0x400080 ≤ e.1 && e.1 < 0x400100) || e.1 == 0x0C000008 || e.1 == 0x0D000020 || (0x300100 ≤ e.1 && e.1 < 0x300168)
  let mems := (d.mems.map fun e => (e.1, ({ saved := e.2.saved, dram := e.2.dram, noRefresh := e.2.noRefresh } : MemCtl))).filter fun e => e.2 ≠ ({} : MemCtl)
  let safe := d.fld Fld.HEAL_STATUS_SAFE_AT_RESET
  let benched := d.fld Fld.HANG_STATUS_BENCHED
  let id := d.fld Fld.HANG_CAPTURE_CAPTURE_ID
  let n : Dev :=
    { fresh := d.fresh, out := d.out, regs := keep, mems, memReach := d.memReach,
      cores := (d.cores.map fun e => (e.1, ({ sil := { reach := e.2.sil.reach } } : Core))).filter fun e => e.2 ≠ ({} : Core), power := d.power,
      heal := { ledgers := d.heal.ledgers },
      cob := { log := d.cob.log, sent := d.cob.sent, counted := d.cob.counted, desc := if d.cob.keepDesc then d.cob.desc else none },
      host := { nextKey := d.host.nextKey },
      cks := { d.cks with reqs := [] } }
  let n := n.setFld Fld.HANG_CAPTURE_CAPTURE_LOST (b2n d.cob.capture.isSome)
  let n := ((n.setFld Fld.HEAL_STATUS_SAFE_AT_RESET safe).setFld Fld.HANG_STATUS_BENCHED benched).setFld Fld.HANG_CAPTURE_CAPTURE_ID id
  (n.setFld Fld.COB_FW_VERSION_ROLLBACK_INDEX (d.fld Fld.SEC_ROLLBACK_FUSED)).beginBringup 0 0 0

/-- The rank of a reset among those that wait (R399). -/
def resetRank (domain : Nat) : Nat :=
  match domain with | 7 => 5 | 6 => 4 | 2 => 3 | 0 => 1 | _ => 2
/-- Whether a reset contains another. -/
def absorbs (domain index domain' index' : Nat) : Bool :=
  decide (6 ≤ domain && resetRank domain' ≤ resetRank domain) || (domain == domain' && index == index') ||
  (domain == 1 && domain' == 0 && routerOf index' == index)

/-- The reset of a domain (Table — Reset domains); the suspects of its capture are tested after it (R397). -/
def Dev.resetDomain (d : Dev) (domain index : Nat) : Dev :=
  let suspects := d.cob.suspects
  let d := match domain with
    | 0 => d.coreReset index
    | 1 => d.resetCluster index
    | 2 => d.resetRace
    | 3 => d.resetMem index
    | 4 => d.resetPort index
    | 5 => d.resetHost
    | 6 => (d.event { code := 0x702, kind := 0x24 }).warmReset
    | _ => (d.event { code := 0x702, kind := 0x24 }).coldReset
  Dev.testSuspects { d with cob := { d.cob with suspects := suspects } }

/-- DOMAIN_RESET: the highest reset that waits runs once no capture does (R399, R401). -/
def domainReset (domain index : Nat) (d : Dev) : Dev :=
  match d.cob.waiting.find? fun x => x.1 == domain && x.2.1 == index with
  | none => d
  | some _ =>
    if d.cob.capture.isSome || d.cob.waiting.any (fun x => decide (resetRank domain < resetRank x.1)) then d
    else
      let d := { d with cob := { d.cob with waiting := d.cob.waiting.filter fun x => !absorbs domain index x.1 x.2.1 } }
      let d := if domain = 0 then d.setFld Fld.HANG_CMD_GO 0 else d.abortStep
      let d := if 1 ≤ domain && domain ≤ 5 then { d with cob := { d.cob with resets :=
        (d.cob.resets.filter fun x => !(x.domain == domain && x.index == index)) ++ [⟨domain, index, d.t⟩] } } else d
      d.resetDomain domain index

/-- RESET_RECOVERY_OVERRUN: not back in service within twice its recovery time; firmware asks for a warm reset, but not while BENCHED
(R402, R406). -/
def recoveryOverrun (domain index : Nat) (d : Dev) : Dev :=
  match d.cob.resets.find? fun x => x.domain == domain && x.index == index with
  | none => d
  | some x =>
    let d' := { d with cob := { d.cob with resets := d.cob.resets.filter (· ≠ x) } }
    if d.inService domain index then d'
    else if d.t < x.since + 2 * d.recovery domain index then d
    else if d.benched then d' else d'.startCapture 4 6 0 (0, 0x24, 0) true

/-! ### Hung units and Cobbler (R392, R393) -/

/-- The domain reset of a hung unit (Table — Liveness domains). -/
def hungDomain (kind unit : Nat) : Option (Nat × Nat) :=
  match kind with
  | 3 => some (1, unit)
  | 4 => some (2, 0)
  | 0x0A => some (3, unit)
  | 9 => some (4, unit)
  | 0x20 => some (5, 0)
  | 0x22 => some (6, 0)
  | 0x23 => some (6, 0)
  | _ => none

/-- UNIT_HANG: the step aborts, the capture starts, the domain is to be reset. -/
def unitHang (kind unit : Nat) (d : Dev) : Dev :=
  match hungDomain kind unit with
  | none => d
  | some (domain, index) =>
    let testing := d.underTest kind unit
    if !domainOk domain index || d.captured kind unit || d.cob.asleep.contains (kind, unit) || testing then d
    else
      let d := (d.addFld Fld.HANG_STATUS_LIVENESS_HUNG 1).event { code := 0x700, kind, unit }
      d.abortStep.startCapture 2 domain index (0x700, kind, unit) (!(domain = 6 && d.benched))

/-- COBBLER_WATCHDOG: 250 ms without a kick; the capture of trigger `cobbler`, then the device warm reset. -/
def cobblerWatchdog (d : Dev) : Dev :=
  if !d.cob.fw || decide (d.t < d.cob.kickAt + 250 * 10 ^ 6) then d
  else
    let d := { d with cob := { d.cob with fw := false } }.event { code := 0x704, kind := 0x21 }
    d.startCapture 5 6 0 (0x704, 0x21, 0) true

/-- A write of HANG_COB_KICK, which the runtime may not reach (R10, R393). -/
def cobKick (a : Agent) (d : Dev) : Dev :=
  if a = .firmware then { d with cob := { d.cob with kickAt := d.t } }.emit .accepted else d.emit .refused

/-! ### HANG_CMD (R403, R406) -/

/-- The RW fields of HANG_CMD take the value written. -/
def Dev.hangFields (d : Dev) (v : Word) : Dev :=
  ((d.setFld Fld.HANG_CMD_DOMAIN (getF v Fld.HANG_CMD_DOMAIN)).setFld Fld.HANG_CMD_INDEX (getF v Fld.HANG_CMD_INDEX)).setFld
    Fld.HANG_CMD_CAPTURE_ONLY (getF v Fld.HANG_CMD_CAPTURE_ONLY)

/-- A write of HANG_CMD with GO: refused while GO is set, for an index outside the domain and for the reset of an OFFLINE or
UNDER_TEST core. -/
def hangGo (v : Word) (d : Dev) : Dev :=
  let domain := getF v Fld.HANG_CMD_DOMAIN
  let index := getF v Fld.HANG_CMD_INDEX
  let only := getF v Fld.HANG_CMD_CAPTURE_ONLY
  let bad := decide (domain = 0) && decide (only = 0) && (d.coreState index == .offline || d.coreState index == .underTest)
  if d.flag Fld.HANG_CMD_GO || !domainOk domain index || bad then d.emit .refused
  else
    let d := (d.hangFields v).setFld Fld.HANG_CMD_GO 1
    let d := if only = 0 then d.registered domain else d
    (if domain = 0 && only = 0 then d.wantReset 0 index else d).emit .accepted

/-- REINSTATE clears BENCHED and the history; refused while BENCHED is clear. -/
def reinstate (d : Dev) : Dev :=
  if !d.benched then d.emit .refused
  else
    let d := (d.setFld Fld.HANG_STATUS_BENCHED 0).setFld Fld.HANG_CMD_REINSTATE 1
    let d := (List.range 16).foldl (fun d i => d.setReg (0x400080 + 8 * i) 0) d
    ({ d with cob := { d.cob with counted := 0 } } : Dev).emit .accepted

/-! ### Crossings and wakes (R386, R387) -/

/-- The other side of the crossing at node x is in reset: this side discards its half and keeps the crossing closed. -/
def crossNotice (x : Nat) (d : Dev) : Dev :=
  if d.cob.xings.contains x then d
  else
    let d := d.addFld Fld.COB_XING_STATUS_NOTICES 1
    (({ d with cob := { d.cob with xings := d.cob.xings ++ [x] } } : Dev).crossDiscard x)
/-- The notice is released and the pointers are back at zero: the crossing opens. -/
def crossRelease (x : Nat) (d : Dev) : Dev := { d with cob := { d.cob with xings := d.cob.xings.filter (· ≠ x) } }

/-- A wake starts a stopped clock; the unit catches up with the epochs it missed before it takes traffic (R363, R387). -/
def wake (kind unit : Nat) (d : Dev) : Dev :=
  catchUp kind unit { d with cob := { d.cob with asleep := d.cob.asleep.filter (· ≠ (kind, unit)) } }

/-- UNIT_HANG (R392). -/
def execUnitHang (kind unit : Nat) (s : State) : Host.Outcome State Fault Refusal := effect (unitHang kind unit) s
/-- COBBLER_WATCHDOG (R393). -/
def execCobblerWatchdog (s : State) : Host.Outcome State Fault Refusal := effect cobblerWatchdog s
/-- HANG_COB_KICK (R393). -/
def execHangCobKick (a : Agent) (s : State) : Host.Outcome State Fault Refusal := effect (cobKick a) s
/-- CAPTURE (R395, R396). -/
def execCapture (trigger domain index : Nat) (s : State) : Host.Outcome State Fault Refusal := effect (captureStart trigger domain index) s
/-- DEBUG_NODE_TIMEOUT (R397). -/
def execDebugNodeTimeout (kind : Nat) (node : NodeRead) (s : State) : Host.Outcome State Fault Refusal := effect (nodeTimeout kind node) s
/-- CAPTURE_LIMIT (R398). -/
def execCaptureLimit (s : State) : Host.Outcome State Fault Refusal := effect captureCut s
/-- CAPTURE_DONE (R396). -/
def execCaptureDone (stored : Bool) (s : State) : Host.Outcome State Fault Refusal := effect (captureDone stored) s
/-- DOMAIN_RESET (R401). -/
def execDomainReset (domain index : Nat) (s : State) : Host.Outcome State Fault Refusal :=
  onUnit (domainOk domain index) (domainReset domain index) s
/-- RESET_RECOVERY_OVERRUN (R402). -/
def execResetRecoveryOverrun (domain index : Nat) (s : State) : Host.Outcome State Fault Refusal :=
  onUnit (domainOk domain index) (recoveryOverrun domain index) s
/-- HANG_CMD_GO (R403). -/
def execHangCmdGo (_a : Agent) (v : Word) (s : State) : Host.Outcome State Fault Refusal := effect (hangGo v) s
/-- REINSTATE (R406). -/
def execReinstate (_a : Agent) (s : State) : Host.Outcome State Fault Refusal := effect reinstate s
/-- CROSSING_RESET_NOTICE (R386). -/
def execCrossingResetNotice (x : Nat) (s : State) : Host.Outcome State Fault Refusal := onUnit (decide (x < 416)) (crossNotice x) s
/-- CROSSING_RELEASE (R386). -/
def execCrossingRelease (x : Nat) (s : State) : Host.Outcome State Fault Refusal := onUnit (decide (x < 416)) (crossRelease x) s
/-- WAKE_REQUEST (R387). -/
def execWakeRequest (kind unit : Nat) (s : State) : Host.Outcome State Fault Refusal := effect (wake kind unit) s

end Sys2Proof.Machine
end

