-- ==== Sys2Proof/Machine/Bringup.lean ====
section
/-!
DEFINITION. Bring-up (12 R365–R383; 01 R16, R21; 11 R336–R339): power good, ROM, FILL_TEST, TRAIN, the topology check, SAFE.
-/
namespace Sys2Proof.Machine

/-! ### SAFE and loss of power -/

/-- SAFE with a cause; the first one found stays. Every UP port enters ISOLATED (R383). -/
def Dev.enterSafe (d : Dev) (cause : Nat) : Dev :=
  let d := if d.fld Fld.COB_BRINGUP_SAFE_CAUSE = 0 then d.setFld Fld.COB_BRINGUP_SAFE_CAUSE cause else d
  let d := (List.range 20).foldl (fun d p => if d.portState p = 2 then d.isolate p else d) d
  (d.enterState 7).alert 4

/-- The module loses power (17 R461): what a cold reset keeps stays; the shutdown word names the causes. -/
def Dev.powerLoss (d : Dev) (word first : Nat) (trip : Bool) : Dev :=
  let n := d.coldReset
  ({ n with power := { modEn := d.power.modEn, shutdown := word, first, thermTrip := trip, latched := decide (word / 4 % 16 ≠ 0),
                       alerts := d.power.alerts } } : Dev).alert 0

/-! ### POWER_GOOD and ROM (R368, R369) -/

/-- POWER_GOOD: the power stage starts; a latched shutdown waits for MOD_EN to have been deasserted (17 R462, R463). -/
def powerGood (d : Dev) : Dev :=
  if d.power.good || (d.power.latched && d.power.modEn) then d
  else
    let d := { d with power := { modEn := true, good := true, alerts := d.power.alerts } }
    d.beginBringup 0 0 0

/-- RAILS_IN_REGULATION: PWR_OK, and ROM begins; the host port trains. -/
def railsOk (d : Dev) : Dev :=
  if !d.power.good || d.fld Fld.COB_BRINGUP_STATE ≠ 0 then d
  else
    let d := { d with power := { d.power with rails := true, pwrOk := true } }
    ((d.setFld Fld.HOST_LINK_STATUS_STATE 1).enterState 1).cksSet 1

/-- The acceptance of a firmware image (14 R426). -/
def Dev.imageOk (d : Dev) (img : FwImage) : Bool :=
  img.magicOk && img.arch == 1 && img.member == 9 && img.digestOk && img.signOk &&
  decide (d.fld Fld.SEC_ROLLBACK_FUSED ≤ img.rollback) && decide (img.rollback ≤ 128)

/-- Firmware reads the ledger (11 R337). -/
def Dev.readLedger (d : Dev) : Dev :=
  match d.heal.ledger with
  | some l =>
    let d := { d with heal := { d.heal with field := l.field, transient := l.transient, retest := l.retest, dirty := false } }
    let d := (d.setFld Fld.HEAL_LEDGER_FIELD_RECORDS l.field.length).setFld Fld.HEAL_LEDGER_TRANSIENT_RECORDS l.transient.length
    (d.setFld Fld.HEAL_LEDGER_GENERATION l.gen).setFld Fld.HEAL_STATUS_RETEST_PENDING (b2n l.retest)
  | none => d.setFld Fld.HEAL_STATUS_LEDGER_LOST 1

/-- The memory of a controller is out of service: a record of its Welt engine (11 R335). -/
def Dev.memBad (d : Dev) (k : Nat) : Bool := d.recorded 0x0A k

/-- A firmware image starts: it reads the ledger, and FILL_TEST begins with every memory interface in training (R370, R373). -/
def Dev.startFirmware (d : Dev) (img : FwImage) : Dev :=
  let d := ((d.setFld Fld.COB_FW_VERSION_MAJOR img.major).setFld Fld.COB_FW_VERSION_MINOR img.minor).setFld Fld.COB_FW_VERSION_BUILD img.build
  let d := (List.range 4).foldl (fun d i => d.setReg (0x0D000028 + 8 * i) (BitVec.ofNat 64 (ofBytes (slice img.measure (8 * i) 8)))) d
  let d := (d.setFld Fld.COB_BRINGUP_BOOT_FAULT 0).readLedger
  let advance := if img.advance && decide (d.fld Fld.SEC_ROLLBACK_FUSED < img.rollback) then some img.rollback else none
  let d := { d with cob := { d.cob with fw := true, kickAt := d.t, advance } }
  let d := (List.range 20).foldl (fun d k => d.setFld (Fld.HBM_STATUS_STATE.at (memBase k)) (if d.memBad k then 4 else 1)) d
  d.enterState 2

/-- ROM_BOOT: `img` is what Cobbler reads in the Checkpoint Store; an image left invalid stops the device in ROM (14 R428). -/
def romBoot (img : FwImage) (d : Dev) : Dev :=
  if d.fld Fld.COB_BRINGUP_STATE ≠ 1 then d
  else if d.imageOk img && !d.cks.fwBad then d.startFirmware img else d.setFld Fld.COB_BRINGUP_BOOT_FAULT 1

/-! ### FILL_TEST (R370, R371; 01 R21; 11 R338, R339) -/

/-- The results of the cold tests: a record for each unit that fails and has none; with a retest, records of units that pass go. -/
def Dev.coldResults (d : Dev) (bad : List Defect) : Dev :=
  let same := fun (a b : Defect) => a.kind == b.kind && a.unit == b.unit && a.sub == b.sub
  let d :=
    if d.heal.retest then
      let d := { d with heal := { d.heal with field := d.heal.field.filter (fun r => bad.any (same r)), transient := [], retest := false,
                                              dirty := true } }
      (d.setFld Fld.HEAL_STATUS_RETEST_PENDING 0).setFld Fld.HEAL_STATUS_SAFE_AT_RESET 0
    else d
  bad.foldl (fun d r =>
    if fuses.any (same r) || d.heal.field.any (same r) then d else d.addField { r with origin := 1 }) d

/-- Bad offsets of a segment: the records of its cores. -/
def Dev.badOffs (d : Dev) (seg : Nat) : List Nat := (List.range 17).filter fun o => d.recorded 1 (segCore seg o)
/-- A physical cluster row that must be vacated: two bad positions in one segment, or a gateway or router out of service. -/
def Dev.rowLost (d : Dev) (row : Nat) : Bool :=
  ((List.range' (64 * row) 64).any fun s => decide (2 ≤ (d.badOffs s).length)) ||
  (List.range' (8 * row) 8).any fun r => d.recorded 3 r || d.recorded 4 r
/-- The map of R21; none where two rows would have to be vacated. -/
def Dev.buildMap (d : Dev) : Option MapBank :=
  let gaps := (List.range 832).foldl (fun m s => NMap.set 16 m s ((d.badOffs s).getD 0 16)) []
  match (List.range 13).filter d.rowLost with
  | [] => some { gaps, v := 12 }
  | [row] => some { gaps, v := row }
  | _ => none

/-- Remap entries of failing codewords and blocks, installed at a cold reset (11 R346, R347). -/
def Dev.installRemaps (d : Dev) : Dev :=
  d.records.foldl (fun d r =>
    if r.kind = 2 then d.modCore r.unit fun k => (k.remapCells [r.sub]).1
    else if r.kind = 6 || r.kind = 7 then
      let k := if r.kind = 6 then r.unit else 16 + r.unit
      match d.freeBlockRemap k r.sub with
      | some i =>
        let b := memBase k
        ((d.setFld ((Fld.HBM_REMAP_BLOCK.nth 8 i).at b) r.sub).setFld ((Fld.HBM_REMAP_VALID.nth 8 i).at b) 1).setFld
          ((Fld.HBM_REMAP_ACTIVE.nth 8 i).at b) 1
      | none => d.setFld Fld.HEAL_STATUS_MEM_DEGRADED 1
    else d) d

/-- FILL_TEST_END: at a cold bring-up `bad` are the units its tests found bad; a warm one runs none. -/
def fillTestEnd (bad : List Defect) (d : Dev) : Dev :=
  if d.fld Fld.COB_BRINGUP_STATE ≠ 2 then d
  else
    let cold := d.fld Fld.COB_BRINGUP_RESET_KIND = 0
    let d := if cold then (d.coldResults bad).installRemaps else d
    let serving := (List.range 20).all fun k => d.fld (Fld.HBM_STATUS_STATE.at (memBase k)) == 3
    if !serving then d.enterSafe 3
    else match d.buildMap with
      | none => d.enterSafe 1
      | some m =>
        let d := { d with map := { bank0 := m, bank1 := m } }
        let d := if d.badLinks.isEmpty then d else (d.avoidLinks d.badLinks).requestFlip
        if d.flag Fld.HEAL_STATUS_SAFE_AT_RESET then d.enterSafe 2
        else
          let d := d.enterState 3
          (List.range 20).foldl (fun d p =>
            if d.pfld Fld.FORD_CTRL_ENABLE p = 1 && !d.portOut p then d.trainStart p else d) d

/-! ### TRAIN (R374) -/

/-- The fields of port p in a topology descriptor (09 R302). -/
def descUse (x : List Byte) (p : Nat) : Nat := byteAt x (64 + 64 * p)
def descDir (x : List Byte) (p : Nat) : Nat := byteAt x (64 + 64 * p + 1)
def descWidth (x : List Byte) (p : Nat) : Nat := byteAt x (64 + 64 * p + 2)
def descPeerPort (x : List Byte) (p : Nat) : Nat := byteAt x (64 + 64 * p + 3)
def descPeerId (x : List Byte) (p : Nat) : Nat := ofBytes (slice x (64 + 64 * p + 4) 2)
def descKey (x : List Byte) (p : Nat) : List Byte := slice x (64 + 64 * p + 32) 32
def descPolicy (x : List Byte) : Nat := byteAt x 7

/-- The structural check of a descriptor (09 R302, R379). -/
def topoOk (x : List Byte) : Bool :=
  x.length == 1344 && ofBytes (x.take 2) == 1 && decide (ofBytes (slice x 2 2) < 2 ^ 14) && decide (descPolicy x < 8) &&
  (slice x 8 56).all (· == 0) &&
  (List.range 20).all fun p =>
    (slice x (64 + 64 * p + 6) 26).all (· == 0) && decide (descUse x p ≤ 1) && decide (descPeerId x p < 2 ^ 14) &&
    (if p < 18 then descDir x p == p / 3 else decide (descDir x p ≤ 6))

/-- The ports TRAIN waits for: those with USE 1, or each enabled one when no descriptor is held. -/
def Dev.awaited (d : Dev) (p : Nat) : Bool :=
  match d.cob.desc with
  | some x => descUse x p == 1
  | none => d.pfld Fld.FORD_CTRL_ENABLE p == 1 && !d.portOut p
/-- The time condition of R374 and R377. -/
def Dev.timeOk (d : Dev) : Bool := d.fld Fld.FT_SOURCE_SOURCE == 0x1F || d.flag Fld.FT_STATUS_VALID

/-- TOPOLOGY_CHECK begins, waiting for a descriptor where none is held (R376). -/
def Dev.beginCheck (d : Dev) : Dev :=
  let d := d.enterState 4
  if d.cob.desc.isNone then d.setFld Fld.COB_TOPO_STATUS_RESULT 1 else d

/-- TRAIN_END. -/
def trainEnd (d : Dev) : Dev :=
  let window := d.fld Fld.COB_BRINGUP_TIME_ENTRY + d.fld Fld.COB_BRINGUP_CFG_TRAIN_WINDOW * 10 ^ 9
  let all := (List.range 20).all (fun p => !d.awaited p || d.linked p) && d.timeOk
  if d.fld Fld.COB_BRINGUP_STATE = 3 && (all || decide (window ≤ d.t)) then d.beginCheck else d

/-! ### The topology check (R376–R382) -/

/-- The result of a port against the descriptor (Table — Port check results). -/
def Dev.portCheck (d : Dev) (x : List Byte) (p : Nat) : Nat :=
  let up := d.linked p
  let width := d.pfld Fld.FORD_STATE_WIDTH p
  if descUse x p = 0 then (if up then 7 else 1)
  else match (d.port p).seen with
    | some i =>
      if i.fingerprint ≠ descKey x p || d.pfld Fld.FORD_PEER_PROOF_OK p = 0 then 2
      else if i.devId ≠ descPeerId x p then 3
      else if i.port ≠ descPeerPort x p then 4
      else if !up then 5
      else if width < descWidth x p then 6
      else 0
    | none => 5

/-- A policy bit accepts a result (Table — Policy bits). -/
def accepts (policy code : Nat) : Bool :=
  match code with
  | 6 => nbit policy 0
  | 5 => nbit policy 1
  | 2 => nbit policy 2
  | 3 => nbit policy 2
  | 4 => nbit policy 2
  | _ => false

/-- The mask of ports p with `f p`. -/
def portMask (f : Nat → Bool) : Nat := (List.range 20).foldl (fun a p => if f p then a + 2 ^ p else a) 0

/-- The count of the first epoch whose tick lies at least 20 µs ahead (R382). -/
def Dev.readyEpoch (d : Dev) : Nat :=
  ceilDiv (d.t + 20000 - d.fld Fld.FT_EPOCH_BASE_T0) (1000 * d.fld Fld.FT_EPOCH_CFG_PERIOD)

/-- The ports' results: COB_TOPO_PORTp and the masks; ports accepted with a mismatch and unexpected ones are held ISOLATED, ports that
match leave ISOLATED (R378, R379). -/
def Dev.judgePorts (d : Dev) (x : List Byte) : Dev :=
  let code := fun p => d.portCheck x p
  let codes := (List.range 20).map code
  let acc := fun p => accepts (descPolicy x) (codes.getD p 0)
  let d := (List.range 20).foldl (fun d p =>
    let c := codes.getD p 0
    let r := 0x940 + 8 * p
    let v := setF (setF 0 Fld.COB_TOPO_PORT_SEEN_PORT (d.pfld Fld.FORD_PEER_PEER_PORT p)) Fld.COB_TOPO_PORT_SEEN_ID (d.pfld Fld.FORD_PEER_PEER_ID p)
    let v := setF (setF v Fld.COB_TOPO_PORT_WIDTH (d.pfld Fld.FORD_STATE_WIDTH p)) Fld.COB_TOPO_PORT_STATE (d.portState p)
    let v := setF (setF v Fld.COB_TOPO_PORT_ACCEPTED (b2n (acc p))) Fld.COB_TOPO_PORT_RESULT c
    let d := d.setReg r v
    if d.linked p && (c = 7 || c = 2 || c = 3 || c = 4) then (if d.portState p = 2 then d.isolate p else d)
    else if d.portState p = 4 && (c = 0 || c = 6) && !d.flag Fld.COB_STEP_CMD_EXPEL then
      (d.modPort p fun y => { y with changed := false }).setPfld Fld.FORD_STATE_STATE p 2
    else d) d
  let d := d.setFld Fld.COB_TOPO_STATUS_ACCEPTED (portMask acc)
  d.setFld Fld.COB_TOPO_STATUS_FAILED (portMask fun p => decide (2 ≤ codes.getD p 0) && codes.getD p 0 ≠ 7 && !acc p)

/-- A direction with a USE 1 port keeps no UP port (R380). -/
def Dev.dirEmpty (d : Dev) (x : List Byte) : Bool :=
  (List.range 6).any fun dir =>
    let mine := (List.range 20).filter fun p => descUse x p == 1 && descDir x p == dir
    !mine.isEmpty && mine.all fun p => d.portState p ≠ 2

/-- The check has passed: peers and directions are recorded (R381). -/
def Dev.recordPeers (d : Dev) (x : List Byte) : Dev :=
  let d := (List.range 20).foldl (fun d p =>
    if descUse x p = 1 then d.modPort p fun y => { y with peer := some ⟨descPeerId x p, descPeerPort x p, descKey x p, descDir x p⟩ } else d) d
  (List.range 6).foldl (fun d dir =>
    let m := portMask fun p => descUse x p == 1 && descDir x p == dir && d.portState p == 2
    let r := 0x710 + 8 * dir
    d.setReg r (putBits (putBits (d.reg r) 51 32 m) 19 0 m)) d

/-- The ports of a direction that firmware puts into its table: those UP that the last descriptor gave it; the mask in force where none
is (R380). -/
def Dev.dirMask (d : Dev) (dir : Nat) : Nat :=
  let x := d.reg (0x710 + 8 * dir)
  let m := portMask fun p => d.portState p == 2 && ((d.port p).peer.map Peer.dir) == some dir
  if m = 0 then (if bit x 63 then bits x 51 32 else bits x 19 0) else m
/-- In service, firmware rebuilds the direction tables once a port has gone DOWN or come UP: the shadow banks, and a flip for the next
epoch (R381; 09 R287). -/
def Dev.rebuildDirs (d : Dev) : Dev :=
  let st := d.fld Fld.COB_BRINGUP_STATE
  let off := fun (dir : Nat) => 0x710 + 8 * dir
  let active := fun (dir : Nat) => let x := d.reg (off dir); if bit x 63 then bits x 51 32 else bits x 19 0
  if (st ≠ 5 && st ≠ 6) || d.flag Fld.COB_RACE_REQ_ARM || !d.tablesFree || ((List.range 6).all fun dir => d.dirMask dir == active dir) then d
  else
    let e := (List.range 6).foldl (fun e dir =>
      let x := d.reg (off dir)
      e.setReg (off dir) (if bit x 63 then putBits x 19 0 (d.dirMask dir) else putBits x 51 32 (d.dirMask dir))) d
    (e.avoidLinks e.badLinks).requestFlip

/-- The cause for which the check fails as a whole (Table — Whole-device checks). -/
def Dev.wholeCheck (d : Dev) (x : List Byte) : Option Nat :=
  let n := d.torus
  if !topoOk x then some 7
  else if !d.flag Fld.COB_DEVICE_ID_VALID || d.devId ≠ ofBytes (slice x 2 2) then some 5
  else if n.1 ≠ byteAt x 4 || n.2.1 ≠ byteAt x 5 || n.2.2 ≠ byteAt x 6 then some 7
  else if !d.timeOk then some 6
  else none

/-- TOPOLOGY_CHECK: a BENCHED device ends in SAFE (13 R405). -/
def topologyCheck (d : Dev) : Dev :=
  match d.cob.desc with
  | none => d
  | some x =>
    if d.fld Fld.COB_BRINGUP_STATE ≠ 4 || d.cob.readyAt.isSome then d
    else
      let d := d.setFld Fld.COB_TOPO_STATUS_ID_OK (b2n (d.flag Fld.COB_DEVICE_ID_VALID && d.devId == ofBytes (slice x 2 2)))
      let d := d.setFld Fld.COB_TOPO_STATUS_TIME_OK (b2n d.timeOk)
      match d.wholeCheck x with
      | some cause => (d.setFld Fld.COB_TOPO_STATUS_RESULT 4).enterSafe cause
      | none =>
        let d := d.judgePorts x
        let empty := d.dirEmpty x
        let d := d.setFld Fld.COB_TOPO_STATUS_DIR_EMPTY (b2n empty)
        if d.fld Fld.COB_TOPO_STATUS_FAILED ≠ 0 || empty then (d.setFld Fld.COB_TOPO_STATUS_RESULT 4).enterSafe 4
        else
          let degraded := decide (d.fld Fld.COB_TOPO_STATUS_ACCEPTED ≠ 0)
          let d := (d.setFld Fld.COB_TOPO_STATUS_RESULT (if degraded then 3 else 2)).recordPeers x
          if d.benched then d.enterSafe 8 else { d with cob := { d.cob with readyAt := some (degraded, d.readyEpoch) } }

/-! ### Overruns (R366) and the device id (01 R16) -/

/-- The limit of a bring-up state in ns (Table — Bring-up durations). -/
def stateLimit (st : Nat) : Nat :=
  match st with | 0 => 10 ^ 8 | 1 => 4 * 10 ^ 9 | _ => 9 * 10 ^ 9

/-- BRINGUP_OVERRUN. -/
def bringupOverrun (d : Dev) : Dev :=
  let st := d.fld Fld.COB_BRINGUP_STATE
  let late := decide (d.fld Fld.COB_BRINGUP_TIME_ENTRY + stateLimit st ≤ d.t)
  match st with
  | 0 => if d.power.good && late then d.powerLoss 0x20 5 false else d
  | 1 => if late then d.setFld Fld.COB_BRINGUP_BOOT_FAULT 1 else d
  | 2 => if late then d.enterSafe 3 else d
  | 3 => trainEnd d
  | _ => d

/-- DEVICE_ID_WRITE: accepted in ROM, FILL_TEST and TRAIN. -/
def deviceIdWrite (v : Word) (d : Dev) : Dev :=
  let st := d.fld Fld.COB_BRINGUP_STATE
  if 1 ≤ st && st ≤ 3 then
    (d.setReg 0x18 (putBits (putBits (d.reg 0x18) 13 0 (bits v 13 0)) 63 63 1)).emit .accepted
  else d.emit .refused

/-- POWER_GOOD (R368; 17 R463). -/
def execPowerGood (s : State) : Host.Outcome State Fault Refusal := effect powerGood s
/-- RAILS_IN_REGULATION (R368). -/
def execRailsInRegulation (s : State) : Host.Outcome State Fault Refusal := effect railsOk s
/-- ROM_BOOT (R369). -/
def execRomBoot (img : FwImage) (s : State) : Host.Outcome State Fault Refusal := effect (romBoot img) s
/-- FILL_TEST_END (R370, R371). -/
def execFillTestEnd (bad : List Defect) (s : State) : Host.Outcome State Fault Refusal := effect (fillTestEnd bad) s
/-- TRAIN_END (R374). -/
def execTrainEnd (s : State) : Host.Outcome State Fault Refusal := effect trainEnd s
/-- TOPOLOGY_CHECK (R376–R382). -/
def execTopologyCheck (s : State) : Host.Outcome State Fault Refusal := effect topologyCheck s
/-- BRINGUP_OVERRUN (R366). -/
def execBringupOverrun (s : State) : Host.Outcome State Fault Refusal := effect bringupOverrun s
/-- DEVICE_ID_WRITE (01 R16). -/
def execDeviceIdWrite (_a : Agent) (v : Word) (s : State) : Host.Outcome State Fault Refusal := effect (deviceIdWrite v) s

end Sys2Proof.Machine
end

