-- ==== Sys2Proof/Machine/Weir.lean ====
section
/-!
DEFINITION. The Weir, the power stage, the sideband and the event counters (15 R433–R446; 17 R461–R470).
-/
namespace Sys2Proof.Machine

/-! ### Grants (R433, R442) -/

def Dev.grant (d : Dev) (f : Fld) (u : Nat) : Nat := d.fld (f.nth 8 u)
def Dev.setGrant (d : Dev) (f : Fld) (u v : Nat) : Dev := d.setFld (f.nth 8 u) v
/-- A holder that can be throttled: a cluster (0–103) or a controller (104–123). -/
def throttles (u : Nat) : Bool := decide (u < 124)

/-- Up to `want u` of what is left goes to each holder in turn: the allotments, holder by holder, and what is left. -/
def allot (want : Nat → Nat) : List Nat → Nat → NMap Nat × Nat
  | [], left => ([], left)
  | u :: us, left =>
    let x := min (want u) left
    let r := allot want us (left - x)
    (NMap.set 0 r.1 u x, r.2)

/-- Grants of a period: floors, then the ports' and the controllers' demand, then the clusters in proportion to theirs. -/
def shareOut (avail : Nat) (floor demand : Nat → Nat) : NMap Nat :=
  let need := fun u => demand u - floor u
  let floors := allot floor (List.range 144) avail
  let ports := allot need (List.range' 124 20) floors.2
  let mems := allot need (List.range' 104 20) ports.2
  let total := ((List.range 104).map demand).foldl (· + ·) 0
  let part := fun u => min (need u) (mems.2 * demand u / total)
  let clu := allot part (List.range 104) mems.2
  (List.range 144).foldl (fun m u =>
    NMap.set 0 m u (NMap.get 0 floors.1 u + NMap.get 0 ports.1 u + NMap.get 0 mems.1 u + NMap.get 0 clu.1 u)) []

/-- The sensor of a holder in a set of readings; none for LPDDR controllers and ports. -/
def sensor (r : Readings) (u : Nat) : Option Nat :=
  if u < 104 then some (NMap.get 0 r.junction u) else if u < 120 then some (NMap.get 0 r.stack (u - 104)) else none

/-- The limit at which a holder's grant is trimmed: THROTTLE for a cluster, 95 °C for a stack. -/
def Dev.trimAt (d : Dev) (u : Nat) : Nat := if u < 104 then d.fld Fld.WEIR_THERMAL_THROTTLE else 95
/-- Grant periods a holder has been trimmed: one more at its limit or above and until 2 °C below it. -/
def Dev.trimCount (d : Dev) (r : Readings) (u : Nat) : Nat :=
  match sensor r u with
  | none => 0
  | some t =>
    let n := NMap.get 0 d.weir.trim u
    if d.trimAt u ≤ t then n + 1 else if d.trimAt u ≤ t + 2 ∧ t + 2 ≠ d.trimAt u then (if n = 0 then 0 else n + 1) else 0
/-- A grant less one eighth, n times. -/
def eighths : Nat → Nat → Nat
  | 0, g => g
  | n + 1, g => eighths n (g - g / 8)

/-- The hottest of a list, first of equals: (index, temperature). -/
def hottest (l : List (Nat × Nat)) : Nat × Nat := l.foldl (fun a x => if a.2 < x.2 then x else a) (0, 0)

/-- WEIR_TELEM, WEIR_THERMAL and each holder's TEMP (R443). -/
def Dev.telemetry (d : Dev) (r : Readings) : Dev :=
  let d := ((d.setFld Fld.WEIR_TELEM_VIN r.vin).setFld Fld.WEIR_TELEM_IIN r.iin).setFld Fld.WEIR_TELEM_PIN r.pin
  let d := d.setFld Fld.WEIR_TELEM_IIN_PEAK r.peak
  let h := hottest ((List.range 104).map fun k => (k, NMap.get 0 r.junction k))
  let d := ((d.setFld Fld.WEIR_THERMAL_HOTTEST h.1).setFld Fld.WEIR_THERMAL_JUNCTION h.2).setFld Fld.WEIR_THERMAL_INLET r.inlet
  let d := (d.setFld Fld.WEIR_THERMAL_OUTLET r.outlet).setFld Fld.WEIR_THERMAL_HBM_MAX
    (hottest ((List.range 16).map fun k => (k, NMap.get 0 r.stack k))).2
  (List.range 120).foldl (fun d u => d.setGrant Fld.WEIR_GRANT_TEMP u ((sensor r u).getD 0)) d

/-- Clusters at HOT or above are reported to the healing block; THERMAL_HOT when one comes to be (R442, log 62). -/
def Dev.hotClusters (d : Dev) (r : Readings) : Dev :=
  (List.range 104).foldl (fun d k =>
    let was := NMap.get 0 d.weir.hot k
    if d.fld Fld.WEIR_THERMAL_HOT ≤ NMap.get 0 r.junction k then
      if was = 0 then
        (({ d with weir := { d.weir with hot := NMap.set 0 d.weir.hot k 1 } } : Dev).event
          { code := 0x801, kind := 0x23, unit := k, detail := leBytes 2 1 }).alert 1
      else d
    else if was = 1 then { d with weir := { d.weir with hot := NMap.set 0 d.weir.hot k 0 } } else d) d

/-- A core frequency is scheduled for the first epoch that can be named; for a higher one each cluster's floor voltage rises first
(R438). -/
def Dev.scheduleFreq (d : Dev) (epoch f : Nat) : Dev :=
  let d := ((d.setFld Fld.WEIR_OP_REQ_REQ_EPOCH epoch).setFld Fld.WEIR_OP_REQ_FREQ f).setFld Fld.WEIR_OP_REQ_ARM 1
  if d.fld Fld.WEIR_OP_STATUS_FREQ < f then
    (List.range 104).foldl (fun d k => d.setFld (Fld.WEIR_AVS_FLOOR.nth 8 k) (Config.floorVolt k f).toNat) d
  else d

/-- CRIT: THERMAL_CRIT, every cluster at its FLOOR and 800 MHz, held until every sensor reads below THROTTLE (R442). -/
def Dev.critical (d : Dev) (r : Readings) : Dev :=
  let temps := (List.range 104).map fun k => NMap.get 0 r.junction k
  let crit := temps.any fun t => decide (d.fld Fld.WEIR_THERMAL_CRIT ≤ t)
  let cool := temps.all fun t => decide (t < d.fld Fld.WEIR_THERMAL_THROTTLE)
  let d :=
    if crit && !d.weir.crit then
      (({ d with weir := { d.weir with crit := true } } : Dev).event { code := 0x802, kind := 0x23 }).alert 2
    else if cool then { d with weir := { d.weir with crit := false } } else d
  if !d.weir.crit then d
  else
    let d := (List.range 104).foldl (fun d k => d.setGrant Fld.WEIR_GRANT_GRANT k (d.grant Fld.WEIR_GRANT_FLOOR k)) d
    if d.fld Fld.WEIR_OP_STATUS_FREQ = 0x20 || (d.flag Fld.WEIR_OP_REQ_ARM && decide (d.fld Fld.WEIR_OP_REQ_FREQ = 0x20)) then d
    else d.scheduleFreq ((d.epoch + 1) % 2 ^ 16) 0x20

/-- Clusters at a throttle level above 0. -/
def Dev.countThrottled (d : Dev) : Dev :=
  d.setFld Fld.WEIR_STATUS_THROTTLED ((List.range 104).filter fun k => d.grant Fld.WEIR_GRANT_THROTTLE k ≠ 0).length

/-- FLOOR and DEMAND of every holder: the larger of its measured draw and its activity estimate (R433). -/
def Dev.demands (d : Dev) (r : Readings) : Dev :=
  (List.range 144).foldl (fun d u =>
    (d.setGrant Fld.WEIR_GRANT_FLOOR u (Config.floorCur u (d.fld Fld.WEIR_OP_STATUS_FREQ)).toNat).setGrant Fld.WEIR_GRANT_DEMAND u
      (max (NMap.get 0 r.draw u) (NMap.get 0 r.activity u))) d
/-- GRANT of every holder: its share, trimmed by its sensor, never below what it has of its FLOOR. -/
def Dev.newGrants (d : Dev) (r : Readings) (trim : NMap Nat) : Dev :=
  let floor := d.grant Fld.WEIR_GRANT_FLOOR
  let g := shareOut (d.fld Fld.WEIR_BUDGET_BUDGET - r.reserve) floor (d.grant Fld.WEIR_GRANT_DEMAND)
  (List.range 144).foldl (fun d u =>
    let x := NMap.get 0 g u
    d.setGrant Fld.WEIR_GRANT_GRANT u (max (min x (floor u)) (eighths (NMap.get 0 trim u) x))) d
/-- The stage falls to 0 once its condition no longer holds. -/
def Dev.stageOver (d : Dev) (r : Readings) : Dev :=
  if (d.fld Fld.WEIR_STATUS_STAGE == 2 && decide (d.fld Fld.WEIR_BUDGET_BUDGET < r.iin)) ||
      decide (d.fld Fld.WEIR_BUDGET_FAST_LIMIT ≤ r.peak) then d
  else d.setFld Fld.WEIR_STATUS_STAGE 0

/-- Whether the fast limit tripped in this Race cycle (R436). -/
def Dev.trippedNow (d : Dev) : Bool := d.weir.tripAt.any fun t => t * 8 / 5 == d.raceCycle
/-- The grants of every holder, and the grants put back. -/
def Dev.allGrants (d : Dev) : NMap Nat := (List.range 144).foldl (fun m u => NMap.set 0 m u (d.grant Fld.WEIR_GRANT_GRANT u)) []
def Dev.putGrants (d : Dev) (m : NMap Nat) : Dev := (List.range 144).foldl (fun d u => d.setGrant Fld.WEIR_GRANT_GRANT u (NMap.get 0 m u)) d

/-- GRANT_PERIOD; one in the Race cycle of a trip leaves the grants as the trip set them (R436). -/
def grantPeriod (r : Readings) (d : Dev) : Dev :=
  let trim := (List.range 144).foldl (fun m u => NMap.set 0 m u (d.trimCount r u)) []
  let old := d.allGrants
  let d := (d.telemetry r).demands r
  let d := if d.trippedNow then d else d.newGrants r trim
  let d : Dev := { d with weir := { d.weir with trim, reserve := r.reserve, valid := true, before := some (d.t, old) } }
  let d := (((d.hotClusters r).critical r).stageOver r).countThrottled
  if d.fld Fld.WEIR_STATUS_THROTTLED == 0 then d else d.tally 0x3C1 0x23 0 0 1

/-- THROTTLE_STEP: one level up in a µs over the grant, one down in 10 µs below 95 % of it (R434); while a stage of the fast limit acts
up to four come in a µs (R435). -/
def throttleStep (k draw : Nat) (slow : Bool) (d : Dev) : Dev :=
  let l := d.grant Fld.WEIR_GRANT_THROTTLE k
  let g := d.grant Fld.WEIR_GRANT_GRANT k
  let l' := if slow then (if 100 * draw < 95 * g then l - 1 else l) else (if g < draw then min 15 (l + 1) else l)
  (d.setGrant Fld.WEIR_GRANT_THROTTLE k l').countThrottled

/-! ### The fast limit (R435, R436) -/

/-- The sum of the grants of some holders. -/
def Dev.grants (d : Dev) (us : List Nat) : Nat := (us.map (d.grant Fld.WEIR_GRANT_GRANT)).foldl (· + ·) 0

/-- What a surge leaves the clusters: BUDGET less the excess over it, less the reserve and the other holders' grants. -/
def surgeGoal (budget sample reserve others : Nat) : Nat := budget - (sample - budget) - reserve - others
/-- Every cluster's grant falls in the proportion goal to sum. -/
def Dev.scaleGrants (d : Dev) (goal sum : Nat) : Dev :=
  if sum ≤ goal then d
  else (List.range 104).foldl (fun d k => d.setGrant Fld.WEIR_GRANT_GRANT k (d.grant Fld.WEIR_GRANT_GRANT k * goal / sum)) d

/-- The grants recomputed in this Race cycle are discarded for those before them (R436). -/
def Dev.dropGrants (d : Dev) : Dev :=
  match d.weir.before with
  | some (t, m) => if t * 8 / 5 = d.raceCycle then d.putGrants m else d
  | none => d

/-- FAST_LIMIT_TRIP: cluster grants fall in proportion until all grants and the reserve make BUDGET less the excess over it; grants
recomputed in the same Race cycle are discarded first (R435, R436). -/
def fastTrip (sample : Nat) (d : Dev) : Dev :=
  if sample < d.fld Fld.WEIR_BUDGET_FAST_LIMIT then d
  else
    let d := d.dropGrants
    let goal := surgeGoal (d.fld Fld.WEIR_BUDGET_BUDGET) sample d.weir.reserve (d.grants (List.range' 104 40))
    let d := d.scaleGrants goal (d.grants (List.range 104))
    let d := (d.addFld Fld.WEIR_STATUS_TRIPS 1).tally 0x3C0 0x23 0 0 1
    let d : Dev := { d with weir := { d.weir with tripAt := some d.t, before := none } }
    if d.fld Fld.WEIR_STATUS_STAGE == 0 then d.setFld Fld.WEIR_STATUS_STAGE 1 else d

/-- FAST_LIMIT_STAGE2: samples still at the limit 50 µs after stage 1. -/
def fastStage2 (sample : Nat) (d : Dev) : Dev :=
  if d.fld Fld.WEIR_STATUS_STAGE ≠ 1 || (d.weir.tripAt.any fun t => decide (d.t < t + 50000)) || decide (sample < d.fld Fld.WEIR_BUDGET_FAST_LIMIT) then d
  else
    let d := (List.range 124).foldl (fun d u => d.setGrant Fld.WEIR_GRANT_GRANT u (d.grant Fld.WEIR_GRANT_FLOOR u)) d
    let d := (List.range 104).foldl (fun d k =>
      d.setFld (Fld.WEIR_AVS_VOLT.nth 8 k) (d.fld (Fld.WEIR_AVS_FLOOR.nth 8 k))) d
    ({ d with weir := { d.weir with half := [], good := [] } } : Dev).setFld Fld.WEIR_STATUS_STAGE 2

/-- FAST_LIMIT_STAGE3: ten grant periods in a row over BUDGET after stage 2: 50 MHz less, down to 800 MHz. -/
def fastStage3 (draws : List Nat) (d : Dev) : Dev :=
  let above := draws.drop (draws.length - 10)
  if d.fld Fld.WEIR_STATUS_STAGE ≠ 2 || above.length ≠ 10 || above.any (fun x => decide (x ≤ d.fld Fld.WEIR_BUDGET_BUDGET)) then d
  else
    let f := max 0x20 (d.fld Fld.WEIR_OP_STATUS_FREQ - 2)
    (((d.setFld Fld.WEIR_STATUS_STAGE 3).scheduleFreq ((d.epoch + 1) % 2 ^ 16) f).event { code := 0x800, kind := 0x23 }).alert 3

/-! ### Operating points and loops (R437–R441) -/

/-- WEIR_OP_REQ: refused while ARM is set, and for a frequency outside 800–1,350 MHz (R362, R437). -/
def opReq (v : Word) (d : Dev) : Dev :=
  let f := getF v Fld.WEIR_OP_REQ_FREQ
  let e := getF v Fld.WEIR_OP_REQ_REQ_EPOCH
  if d.flag Fld.WEIR_OP_REQ_ARM || decide (f < 0x20) || decide (0x36 < f) then d.emit .refused
  else if getF v Fld.WEIR_OP_REQ_ARM = 1 then (d.scheduleFreq e f).emit .accepted
  else ((d.setFld Fld.WEIR_OP_REQ_REQ_EPOCH e).setFld Fld.WEIR_OP_REQ_FREQ f).emit .accepted

/-- The rail of cluster k in half mV. -/
def Dev.rail2 (d : Dev) (k : Nat) : Nat := 2 * d.fld (Fld.WEIR_AVS_VOLT.nth 8 k) + NMap.get 0 d.weir.half k
def Dev.setRail2 (d : Dev) (k v : Nat) : Dev :=
  ({ d with weir := { d.weir with half := NMap.set 0 d.weir.half k (v % 2) } } : Dev).setFld (Fld.WEIR_AVS_VOLT.nth 8 k) (v / 2)

/-- AVS_REPORT of cluster k: 2.5 mV up when a slack is below target, down after 100 reports with each above twice it; the rail stays
between the floor and 0.90 V (R439). -/
def avsReport (k target : Nat) (slacks : List Int) (d : Dev) : Dev :=
  let low := slacks.any fun s => decide (s < (target : Int))
  let wide := slacks.all fun s => decide (2 * (target : Int) < s)
  let floor2 := 2 * d.fld (Fld.WEIR_AVS_FLOOR.nth 8 k)
  let v := max (d.rail2 k) floor2
  let d := d.setRail2 k v
  let n := if wide then NMap.get 0 d.weir.good k + 1 else 0
  let good := fun (d : Dev) (n : Nat) => ({ d with weir := { d.weir with good := NMap.set 0 d.weir.good k n } } : Dev)
  if low then
    if v + 5 ≤ 1800 then (good d 0).setRail2 k (v + 5) |>.addFld (Fld.WEIR_AVS_RAISES.nth 8 k) 1
    else if NMap.get 0 d.weir.hot k = 2 then good d 0
    else ((good { d with weir := { d.weir with hot := NMap.set 0 d.weir.hot k 2 } } 0).event
      { code := 0x801, kind := 0x23, unit := k, detail := leBytes 2 2 }).alert 1
  else
    let d := if NMap.get 0 d.weir.hot k = 2 then { d with weir := { d.weir with hot := NMap.set 0 d.weir.hot k 0 } } else d
    if n < 100 then good d n else (good d 0).setRail2 k (max floor2 (v - 5))

/-- EQ_ADAPT: one tap of a lane moves by one step, at most once per 10 µs (R440). -/
def eqAdapt (port lane tap : Nat) (up : Bool) (d : Dev) : Dev :=
  let at_ := port * 8 + lane
  let key := at_ * 256 + tap
  let last := NMap.get 0 d.weir.tapAt at_
  if last ≠ 0 ∧ d.t + 1 < last + 10000 then d
  else { d with weir := { d.weir with taps := NMap.set 0 d.weir.taps key (NMap.get 0 d.weir.taps key + if up then 1 else -1),
                                      tapAt := NMap.set 0 d.weir.tapAt at_ (d.t + 1) } }

/-- PHY_EYE_ADJUST: more than 4 corrected symbols on one side move the PHY one step away, `up` or down, within 16 steps of its trained
value and at most once per 1 ms; at that bound PHY_DRIFT, and the controller's next reset trains cold (R441). -/
def phyEye (k pc corrected : Nat) (up : Bool) (d : Dev) : Dev :=
  let key := k * 64 + pc
  let x := NMap.get 0 d.weir.phys key + if up then 1 else -1
  let last := NMap.get 0 d.weir.physAt key
  if corrected ≤ 4 ∨ (last ≠ 0 ∧ d.t + 1 < last + 10 ^ 6) then d
  else
    let d := { d with weir := { d.weir with physAt := NMap.set 0 d.weir.physAt key (d.t + 1) } }
    let d := if x.natAbs ≤ 16 then { d with weir := { d.weir with phys := NMap.set 0 d.weir.phys key x } } else d
    if x.natAbs < 16 then d
    else (d.setMemc k { d.memc k with saved := false }).event { code := 0x803, kind := 0x0A, unit := k, detail := leBytes 2 pc }

/-! ### The power stage (17 R461–R467) -/

/-- The causes that hold in a sample, as bits of the shutdown word. -/
def causes (s : PowerSample) : List Nat :=
  (if s.under then [0] else []) ++ (if s.above then [1] else []) ++ (if s.current then [2] else []) ++
  (if 125 ≤ s.junction then [3] else []) ++ (if 105 ≤ s.hbm || 75 ≤ s.outlet then [4] else []) ++ (if s.railBad then [5] else [])

/-- POWER_STAGE_SHUTDOWN: every rail goes; a cause that arises later adds its bit. -/
def shutdown (s : PowerSample) (d : Dev) : Dev :=
  let cs := causes s
  let word := cs.foldl (fun a i => a + 2 ^ i) 0
  let trip := cs.contains 3 || cs.contains 4
  match cs with
  | [] => d
  | first :: _ =>
    if d.power.good then d.powerLoss word first trip
    else if d.power.shutdown ≠ 0 then
      { d with power := { d.power with shutdown := d.power.shutdown ||| word, thermTrip := d.power.thermTrip || trip,
                                       latched := d.power.latched || decide (word / 4 ≠ 0) } }
    else d

/-- MOD_EN_DEASSERT: RESET_NOTICE of kind 2 on every link, then power-down (R465); it clears the latch of a restart. -/
def modEnOff (d : Dev) : Dev :=
  if d.power.good then
    let d := ((List.range 20).foldl (fun d p => d.sendNotice 2 p) d).powerLoss 0x40 6 false
    { d with power := { d.power with modEn := false } }
  else { d with power := { d.power with modEn := false, latched := false } }

/-- COLD_RESET_PIN: low for 1 ms or more asks for a device cold reset, counted under R404 (R467). -/
def coldPin (ns : Nat) (d : Dev) : Dev :=
  if ns < 10 ^ 6 || !d.power.good then d else d.startCapture 4 7 0 (0, 0x24, 0) true

/-! ### The sideband (17 R468–R470) -/

/-- A die value of n bytes: FFh in each before a grant period has been completed. -/
def Dev.smbDie (d : Dev) (bs : List Byte) : Dev :=
  d.emit (.smb (if d.power.good && d.weir.valid then bs else List.replicate bs.length 0xFF))
/-- A power stage value of 2 bytes: that of the last grant period, free where there was none. -/
def Dev.smbStage (d : Dev) (v : Nat) : Dev :=
  if d.power.good && d.weir.valid then d.emit (.smb (leBytes 2 v))
  else ({ d with fresh := d.fresh + 1 } : Dev).emit (.smb (leBytes 2 (Config.freeNat d.fresh)))
/-- STATE. -/
def Dev.smbState (d : Dev) : Nat :=
  d.fld Fld.COB_BRINGUP_STATE + 64 * d.fld Fld.HANG_STATUS_BENCHED + 128 * b2n (d.power.good && d.weir.valid)
/-- ALERTS: read, or bits cleared. -/
def smbAlerts (clear : Option Byte) (d : Dev) : Dev :=
  match clear with
  | none => d.emit (.smb (leBytes 1 d.power.alerts))
  | some b => { d with power := { d.power with alerts := d.power.alerts &&& (255 - b.toNat) } }
/-- The alert response address: the target answers with its own address while an alert bit is set; bit 0 is free (log 63). -/
def smbAra (d : Dev) : Dev :=
  if d.power.alerts = 0 then d
  else ({ d with fresh := d.fresh + 1 } : Dev).emit (.smb (leBytes 1 (2 * (0x50 + Config.strap.toNat) + Config.freeNat d.fresh % 2)))

/-! ### Event counters (R444–R446) -/

/-- COUNTER_WINDOW_OPEN at START of an armed window that is not empty. -/
def windowOpens (d : Dev) : Dev :=
  let a := d.fld Fld.CNT_START_TICK
  if d.flag Fld.CNT_CTRL_ARM && !d.flag Fld.CNT_CTRL_COUNTING && decide (a ≤ d.t) && decide (a < d.fld Fld.CNT_FREEZE_TICK) &&
      decide (d.t < d.fld Fld.CNT_FREEZE_TICK) then
    (d.setFld Fld.CNT_CTRL_COUNTING 1).setFld Fld.CNT_CTRL_SETTLED 0
  else d
/-- The counters freeze: ARM and COUNTING clear; SETTLED is to read 1 from 2 µs later on. -/
def Dev.freezeAt (d : Dev) (t : Nat) : Dev :=
  let d := ((d.setFld Fld.CNT_CTRL_ARM 0).setFld Fld.CNT_CTRL_COUNTING 0).setFld Fld.CNT_CTRL_SETTLED 1
  { d with weir := { d.weir with frozenAt := t } }
/-- COUNTER_FREEZE at FREEZE. -/
def counterFreeze (d : Dev) : Dev :=
  if d.flag Fld.CNT_CTRL_ARM && decide (d.fld Fld.CNT_FREEZE_TICK ≤ d.t) then d.freezeAt (d.fld Fld.CNT_FREEZE_TICK) else d
/-- CLEAR: every counter of the device and of every cluster reads zero. -/
def Dev.clearCounters (d : Dev) : Dev :=
  { d with regs := d.regs.filter fun e =>
      match blockOf e.1 with
      | (.clu _, o) => !(decide (0xB000 ≤ o) && o % 16 == 8)
      | (.dev, o) => !(decide (0xE000000 ≤ o) && decide (o < 0xE000400) && o % 16 == 8)
      | _ => true }
/-- A write of CNT_CTRL (R445): an ARM while COUNTING is refused; one whose FREEZE has passed freezes at once. -/
def cntCtrl (v : Word) (d : Dev) : Dev :=
  let arm := getF v Fld.CNT_CTRL_ARM = 1
  if arm && d.flag Fld.CNT_CTRL_COUNTING then d.emit .refused
  else
    let d := d.setFld Fld.CNT_CTRL_WINDOWED (getF v Fld.CNT_CTRL_WINDOWED)
    let d := if getF v Fld.CNT_CTRL_CLEAR = 1 then d.clearCounters else d
    let d :=
      if !arm then d
      else if d.fld Fld.CNT_FREEZE_TICK ≤ d.t then d.freezeAt d.t
      else (d.setFld Fld.CNT_CTRL_ARM 1).setFld Fld.CNT_CTRL_SETTLED 0
    d.emit .accepted
/-- The codes of Table — Event counter codes. -/
def counterCodes : List Nat :=
  List.range 0xE ++ List.range' 0x10 6 ++ List.range' 0x100 9 ++ List.range' 0x200 5 ++ List.range' 0x300 4 ++ [0x380, 0x3C0, 0x3C1]
/-- A write of a counter's select: a code the table does not list is refused; a change clears the counter (R444, R446). -/
def cntSel (off : Nat) (v : Word) (d : Dev) : Dev :=
  let clu := match blockOf off with | (.clu _, _) => true | _ => false
  let code := if clu then bits v 9 0 else bits v 57 48
  let new := match rowAt off with
    | some r => r.fields.foldl (fun x f => putBits x f.1 f.2.1 (bits v f.1 f.2.1)) 0
    | none => 0
  if !counterCodes.contains code || (clu && decide (0x200 ≤ code)) then d.emit .refused
  else (if new = d.reg off then d else (d.setReg off new).setReg (off + 8) 0).emit .accepted
/-- An offset of a select register. -/
def isCntSel (off : Nat) : Bool :=
  match blockOf off with
  | (.clu _, o) => decide (0xB000 ≤ o) && decide (o < 0xB080) && o % 16 == 0
  | (.dev, o) => decide (0xE000000 ≤ o) && decide (o < 0xE000400) && o % 16 == 0
  | _ => false

/-- GRANT_PERIOD (R433, R442, R443). -/
def execGrantPeriod (r : Readings) (s : State) : Host.Outcome State Fault Refusal := effect (grantPeriod r) s
/-- THROTTLE_STEP (R434). -/
def execThrottleStep (k draw : Nat) (slow : Bool) (s : State) : Host.Outcome State Fault Refusal :=
  onUnit (throttles k) (throttleStep k draw slow) s
/-- FAST_LIMIT_TRIP (R435, R436). -/
def execFastLimitTrip (sample : Nat) (s : State) : Host.Outcome State Fault Refusal := effect (fastTrip sample) s
/-- FAST_LIMIT_STAGE2 (R435). -/
def execFastLimitStage2 (sample : Nat) (s : State) : Host.Outcome State Fault Refusal := effect (fastStage2 sample) s
/-- FAST_LIMIT_STAGE3 (R435). -/
def execFastLimitStage3 (draws : List Nat) (s : State) : Host.Outcome State Fault Refusal := effect (fastStage3 draws) s
/-- WEIR_OP_REQ (R437, R438). -/
def execWeirOpReq (_a : Agent) (v : Word) (s : State) : Host.Outcome State Fault Refusal := effect (opReq v) s
/-- AVS_REPORT (R439). -/
def execAvsReport (k target : Nat) (slacks : List Int) (s : State) : Host.Outcome State Fault Refusal :=
  onUnit (decide (k < numRouters)) (avsReport k target slacks) s
/-- EQ_ADAPT (R440): ports 0–19, 20 the host port. -/
def execEqAdapt (port lane tap : Nat) (up : Bool) (s : State) : Host.Outcome State Fault Refusal :=
  onUnit (decide (port ≤ 20) && decide (lane < 8)) (eqAdapt port lane tap up) s
/-- PHY_EYE_ADJUST (R441). -/
def execPhyEyeAdjust (k pc corrected : Nat) (up : Bool) (s : State) : Host.Outcome State Fault Refusal :=
  onUnit (decide (k < 20) && decide (pc < 64)) (phyEye k pc corrected up) s
/-- POWER_STAGE_SHUTDOWN (17 R461, R462). -/
def execPowerStageShutdown (p : PowerSample) (s : State) : Host.Outcome State Fault Refusal := effect (shutdown p) s
/-- MOD_EN_DEASSERT (17 R465). -/
def execModEnDeassert (s : State) : Host.Outcome State Fault Refusal := effect modEnOff s
/-- COLD_RESET_PIN (17 R467). -/
def execColdResetPin (ns : Nat) (s : State) : Host.Outcome State Fault Refusal := effect (coldPin ns) s
/-- SMB_IDENT (17 R469). -/
def execSmbIdent (s : State) : Host.Outcome State Fault Refusal := effect (fun d => d.emit (.smb (leBytes 8 (d.reg 0).toNat))) s
/-- SMB_SERIAL (17 R469). -/
def execSmbSerial (s : State) : Host.Outcome State Fault Refusal := effect (fun d => d.emit (.smb (leBytes 8 (d.reg 8).toNat))) s
/-- SMB_STATE (17 R469). -/
def execSmbState (s : State) : Host.Outcome State Fault Refusal := effect (fun d => d.emit (.smb (leBytes 1 d.smbState))) s
/-- SMB_VIN (17 R469). -/
def execSmbVin (s : State) : Host.Outcome State Fault Refusal := effect (fun d => d.smbStage (d.fld Fld.WEIR_TELEM_VIN)) s
/-- SMB_IIN (17 R469). -/
def execSmbIin (s : State) : Host.Outcome State Fault Refusal := effect (fun d => d.smbStage (d.fld Fld.WEIR_TELEM_IIN)) s
/-- SMB_PIN (17 R469). -/
def execSmbPin (s : State) : Host.Outcome State Fault Refusal :=
  effect (fun d => d.smbDie (leBytes 2 (d.fld Fld.WEIR_TELEM_PIN))) s
/-- SMB_IIN_PEAK (17 R469). -/
def execSmbIinPeak (s : State) : Host.Outcome State Fault Refusal :=
  effect (fun d => d.smbDie (leBytes 2 (d.fld Fld.WEIR_TELEM_IIN_PEAK))) s
/-- SMB_JUNCTION (17 R469). -/
def execSmbJunction (s : State) : Host.Outcome State Fault Refusal :=
  effect (fun d => d.smbDie (leBytes 1 (d.fld Fld.WEIR_THERMAL_JUNCTION) ++ leBytes 1 (d.fld Fld.WEIR_THERMAL_HOTTEST))) s
/-- SMB_COOLANT (17 R469). -/
def execSmbCoolant (s : State) : Host.Outcome State Fault Refusal :=
  effect (fun d => d.smbDie (leBytes 1 (d.fld Fld.WEIR_THERMAL_INLET) ++ leBytes 1 (d.fld Fld.WEIR_THERMAL_OUTLET))) s
/-- SMB_HBM_MAX (17 R469). -/
def execSmbHbmMax (s : State) : Host.Outcome State Fault Refusal :=
  effect (fun d => d.smbDie (leBytes 1 (d.fld Fld.WEIR_THERMAL_HBM_MAX))) s
/-- SMB_SHUTDOWN (17 R462, R469). -/
def execSmbShutdown (s : State) : Host.Outcome State Fault Refusal :=
  effect (fun d => d.emit (.smb (leBytes 1 d.power.shutdown ++ leBytes 1 d.power.first))) s
/-- SMB_ALERTS (17 R470). -/
def execSmbAlerts (clear : Option Byte) (s : State) : Host.Outcome State Fault Refusal := effect (smbAlerts clear) s
/-- SMB_ALERT_RESPONSE (17 R468). -/
def execSmbAlertResponse (s : State) : Host.Outcome State Fault Refusal := effect smbAra s
/-- COUNTER_WINDOW_OPEN (R445). -/
def execCounterWindowOpen (s : State) : Host.Outcome State Fault Refusal := effect windowOpens s
/-- COUNTER_FREEZE (R445). -/
def execCounterFreeze (s : State) : Host.Outcome State Fault Refusal := effect counterFreeze s
/-- CNT_ARM (R445). -/
def execCntArm (_a : Agent) (v : Word) (s : State) : Host.Outcome State Fault Refusal := effect (cntCtrl v) s
/-- CNT_CLEAR (R446). -/
def execCntClear (_a : Agent) (s : State) : Host.Outcome State Fault Refusal := effect (fun d => d.clearCounters.emit .accepted) s
/-- CNT_SEL_WRITE (R444, R446). -/
def execCntSelWrite (_a : Agent) (off : Nat) (v : Word) (s : State) : Host.Outcome State Fault Refusal :=
  onUnit (isCntSel off) (cntSel off v) s

end Sys2Proof.Machine
end

