-- ==== Sys2Proof/Machine/Cks.lean ====
section
/-!
DEFINITION. The Checkpoint Store (16 R447–R459): its request ring, objects, states, wear, refresh and retired blocks.
-/
namespace Sys2Proof.Machine

/-- Erase block b; the object of an id. -/
def Dev.nand (d : Dev) (b : Nat) : Nand := NMap.get {} d.cks.blks b
def Dev.setNand (d : Dev) (b : Nat) (n : Nand) : Dev := { d with cks := { d.cks with blks := NMap.set {} d.cks.blks b n } }
def Dev.obj (d : Dev) (id : Nat) : Option Obj := d.cks.objs.find? fun o => o.id == id
/-! ### Erase blocks (R454–R456) -/

/-- The free block of lowest erase count, the lowest index of equals. -/
def Dev.freshBlock (d : Dev) : Option Nat :=
  (List.range rawBlocks).foldl (fun a b =>
    let n := d.nand b
    if n.used || n.bad then a
    else match a with
      | none => some b
      | some c => if n.erase < (d.nand c).erase then some b else a) none
/-- A block is erased and written. -/
def Dev.program (d : Dev) (b : Nat) : Dev := d.setNand b { d.nand b with erase := (d.nand b).erase + 1, at_ := d.t, used := true }
/-- n fresh blocks are written, in order. -/
def Dev.programs (d : Dev) : Nat → List Nat × Dev
  | 0 => ([], d)
  | n + 1 =>
    match d.freshBlock with
    | some b => let r := (d.program b).programs n; (b :: r.1, r.2)
    | none => ([], d)
def Dev.freeBlocks (d : Dev) (bs : List Nat) : Dev := bs.foldl (fun d b => d.setNand b { d.nand b with used := false }) d
/-- The data of block b moves to block c; b is free from then on. -/
def Dev.moveBlock (d : Dev) (b c : Nat) : Dev :=
  let d := (d.program c).freeBlocks [b]
  { d with cks := { d.cks with weak := d.cks.weak.filter (· ≠ b),
                               objs := d.cks.objs.map fun o => { o with blks := o.blks.map fun x => if x = b then c else x } } }
/-! ### Requests (R449–R453) -/

def cksReq : Req := { node := cksNode }
def rOp (b : List Byte) : Nat := byteAt b 0
def rRegion (b : List Byte) : Nat := byteAt b 1
def rStep (b : List Byte) : Nat := ofBytes (slice b 2 6)
def rId (b : List Byte) : Nat := ofBytes (slice b 8 8)
def rAddr (b : List Byte) : Nat := ofBytes (slice b 16 8)
def rLen (b : List Byte) : Nat := ofBytes (slice b 24 8)
def rOff (b : List Byte) : Nat := ofBytes (slice b 32 8)

/-- A request that breaks Table — Store request, as far as it shows before it runs. -/
def reqBad (b : List Byte) : Bool :=
  rOp b == 0 || decide (4 < rOp b) || decide (2 < rRegion b) || (rRegion b ≠ 0 && rOp b ≠ 2 && rOp b ≠ 4) || rAddr b % 64 ≠ 0 ||
  (slice b 40 24).any (· ≠ 0) ||
  (rOp b == 1 && (rLen b == 0 || decide (4 * 10 ^ 12 < rLen b))) || (rOp b == 2 && rOff b % 64 ≠ 0)

/-- Ring and completion queue. -/
def Dev.cksFull (d : Dev) : Bool :=
  let w := d.fld Fld.CKS_CQ_PTR_WRITE; let r := d.fld Fld.CKS_CQ_PTR_READ
  decide (2 ^ d.fld Fld.CKS_CQ_BASE_SIZE_LOG2 ≤ (w + 2 ^ 16 - r) % 2 ^ 16 + d.cks.reqs.length)
/-- The store serves its ring: mounted, and no capture runs (R457, R459). -/
def Dev.cksServes (d : Dev) : Bool := decide (2 ≤ d.fld Fld.CKS_STATUS_STATE) && d.cob.capture.isNone

/-- A request is started: it stands among the running ones. -/
def Dev.cksBegin (d : Dev) (x : CksReq) : Dev :=
  ({ d with cks := { d.cks with reqs := d.cks.reqs ++ [x] } } : Dev).setFld Fld.CKS_RING_CTRL_HEAD (d.fld Fld.CKS_RING_CTRL_HEAD + 1)

/-- CKS_RING_START: the request at HEAD is fetched and checked; at most 8 run. A TAIL more than a ring ahead ends the service with
`malformed` (log 70). -/
def ringStart (d : Dev) : Dev :=
  let head := d.fld Fld.CKS_RING_CTRL_HEAD
  let tail := d.fld Fld.CKS_RING_CTRL_TAIL
  let size := 2 ^ d.fld Fld.CKS_RING_BASE_SIZE_LOG2
  if !d.flag Fld.CKS_RING_CTRL_ENABLE || !d.cksServes || decide (8 ≤ d.cks.reqs.length) || d.cksFull || head = tail then d
  else if size < (tail + 2 ^ 16 - head) % 2 ^ 16 then
    (d.cksBegin { index := head, bytes := [], ran := true, status := 5 }).setFld Fld.CKS_RING_CTRL_ENABLE 0
  else
    match d.devRead cksReq (64 * d.fld Fld.CKS_RING_BASE_BASE + 64 * (head % size)) 64 with
    | (.ok b, d) => d.cksBegin { index := head, bytes := b, ran := reqBad b, status := if reqBad b then 5 else 0 }
    | (.err r, d) => d.cksBegin { index := head, bytes := [], ran := true, status := 6, reason := r }
    | (.wait, _) => d

/-- The request of ring count i that is to run an operation, none while an earlier one of the same object and region runs. -/
def Dev.cksNext (d : Dev) (i op : Nat) : Option CksReq :=
  match d.cks.reqs.find? fun x => x.index == i with
  | none => none
  | some x =>
    let before := d.cks.reqs.takeWhile fun y => y.index ≠ i
    if x.ran || rOp x.bytes ≠ op || !d.cksServes ||
        before.any (fun y => !y.ran && rId y.bytes == rId x.bytes && rRegion y.bytes == rRegion x.bytes) then none
    else some x
/-- The request has run. -/
def Dev.cksRan (d : Dev) (x : CksReq) (status reason moved : Nat) : Dev :=
  { d with cks := { d.cks with reqs := d.cks.reqs.map fun y =>
      if y.index = x.index then { y with ran := true, status, reason, moved } else y } }

/-- n bytes at a in reads of up to 1 KiB. -/
def cksGet (d : Dev) (a n : Nat) : Res (List Byte) × Dev :=
  (List.range (ceilDiv n 1024)).foldl (fun r i =>
    match r.1 with
    | .ok bs =>
      let y := r.2.devRead cksReq (a + 1024 * i) (min 1024 (n - 1024 * i))
      (match y.1 with | .ok b => .ok (bs ++ b) | e => e, y.2)
    | _ => r) (.ok [], d)
/-- Bytes written at a in writes of up to 1 KiB: how many were written, and what ended the rest. -/
def cksPut (d : Dev) (a : Nat) (bs : List Byte) : Nat × Res Unit × Dev :=
  (List.range (ceilDiv bs.length 1024)).foldl (fun r i =>
    match r.2.1 with
    | .ok _ =>
      let b := slice bs (1024 * i) 1024
      let y := r.2.2.devWrite cksReq (a + 1024 * i) b
      (match y.1 with | .ok _ => r.1 + b.length | _ => r.1, y.1, y.2)
    | _ => r) (0, .ok (), d)

/-- Writes of CHECKPOINT are accepted in READY alone: `worn` in READ_ONLY, `error` in FAILED (R457, log 71). -/
def Dev.cksClosed (d : Dev) : Option Nat :=
  match d.fld Fld.CKS_STATUS_STATE with | 2 => none | 3 => some 2 | _ => some 6

/-- WRITE: the object, its digest and its directory entry become durable at one moment (R450, R451). -/
def cksWrite (i : Nat) (d : Dev) : Dev :=
  match d.cksNext i 1 with
  | none => d
  | some x =>
    let id := rId x.bytes
    let n := rLen x.bytes
    match d.cksClosed with
    | some st => d.cksRan x st 0 0
    | none =>
      if d.cksFree < n || ((d.obj id).isNone && decide (maxObjs ≤ d.cks.objs.length)) then d.cksRan x 1 0 0
      else match cksGet d (rAddr x.bytes) n with
        | (.wait, _) => d
        | (.err r, d) => d.cksRan x 6 r 0
        | (.ok bs, d) =>
          let r := d.programs (ceilDiv n blockBytes)
          let d := match d.obj id with | some o => r.2.freeBlocks o.blks | none => r.2
          let o : Obj := { id, bytes := bs, step := rStep x.bytes, digest := sha256 bs, time := d.t, blks := r.1 }
          ({ d with cks := { d.cks with objs := (d.cks.objs.filter fun y => y.id ≠ id) ++ [o] } } : Dev).cksRan x 0 0 n

/-- What a READ or STAT names: data, first unreadable byte, and directory entry (R449, R452). -/
def Dev.cksNamed (d : Dev) (b : List Byte) : Option (List Byte × Option Nat × List Byte) :=
  let entry := fun (len step : Nat) (digest : List Byte) (time : Nat) =>
    leBytes 8 (rId b) ++ leBytes 8 len ++ leBytes 6 step ++ leBytes 2 0 ++ fit 32 digest ++ leBytes 8 time
  match rRegion b with
  | 0 => if d.fld Fld.CKS_STATUS_STATE = 4 then none
         else (d.obj (rId b)).map fun o => (o.bytes, o.bad, entry o.bytes.length o.step o.digest o.time)
  | 1 => (d.cks.captures.find? fun c => c.1 == rId b).map fun c =>
      (c.2, none, entry c.2.length (ofBytes (slice c.2 24 6)) (slice c.2 4064 32) (ofBytes (slice c.2 16 8)))
  | _ =>
    let n := d.logStored
    if rId b < n - logRing || n ≤ rId b then none
    else
      let es := (d.cob.log.take n).drop (rId b)
      let bs := es.flatMap fun e => e.bytes d.devId
      some (bs, none, entry bs.length ((es.head?.map Event.step).getD 0) (sha256 bs) ((es.head?.map Event.time).getD 0))

/-- A scale table as firmware writes it when a restore misses it (R136): header fields from a source the spec does not name (log 98),
ENTRIES by R131, every entry UNSCALED with E 0 and CALM 0. -/
def lostTable (at_ : Nat) : List Byte :=
  let h := fit 30 (Config.tableHeader at_)
  let n := ceilDiv (ofBytes (slice h 8 4)) 64 * ceilDiv (ofBytes (slice h 12 4)) 64
  slice h 0 17 ++ leBytes 1 0 ++ slice h 18 2 ++ leBytes 4 n ++ slice h 24 6 ++ leBytes 2 0 ++ leBytes 4 n ++ leBytes 28 0 ++
    (List.replicate n (leBytes 4 (mkEntry 0 0 1))).flatten
/-- A restore that ends without the bytes from offset `got` on: each table that a region declares there is written as lost and reported
(R136, R458). -/
def Dev.loseTables (d : Dev) (b : List Byte) (got : Nat) : Dev :=
  ((d.cob.tables.flatMap fun e => e.2.map fun a => (e.1, a)).filter fun x =>
      decide (rAddr b ≤ x.2) && decide (x.2 < rAddr b + rLen b) && decide (rAddr b + got < x.2 + (lostTable x.2).length)).foldl
    (fun d x => (cksPut d x.2 (lostTable x.2)).2.2.reportTable 0x22 0 x.1 x.2) d

/-- READ (R449, R452); a scale table that it finds missing or unreadable is marked UNSCALED (R136). -/
def cksRead (i : Nat) (d : Dev) : Dev :=
  match d.cksNext i 2 with
  | none => d
  | some x =>
    let off := rOff x.bytes
    let n := rLen x.bytes
    match d.cksNamed x.bytes with
    | none => (d.loseTables x.bytes 0).cksRan x 4 0 0
    | some (bs, bad, _) =>
      if bs.length < off + n || (n % 64 ≠ 0 && off + n ≠ bs.length) then d.cksRan x 5 0 0
      else
        let stop := match bad with | some b => if off ≤ b && b < off + n then some b else none | none => none
        let data := slice bs off (match stop with | some b => b - off | none => n)
        match cksPut d (rAddr x.bytes) data with
        | (_, .wait, _) => d
        | (m, .err r, d) => d.cksRan x 6 r m
        | (m, .ok _, d) => match stop with | some b => (d.loseTables x.bytes (b - off)).cksRan x 3 0 b | none => d.cksRan x 0 0 m

/-- STAT: the directory entry, 64 bytes, at ADDR (R452). -/
def cksStat (i : Nat) (d : Dev) : Dev :=
  match d.cksNext i 4 with
  | none => d
  | some x =>
    match d.cksNamed x.bytes with
    | none => d.cksRan x 4 0 0
    | some (_, _, entry) =>
      match d.devWrite cksReq (rAddr x.bytes) entry with
      | (.wait, _) => d
      | (.err r, d) => d.cksRan x 6 r 0
      | (.ok _, d) => d.cksRan x 0 0 64

/-- DELETE frees the object's space (R450). -/
def cksDelete (i : Nat) (d : Dev) : Dev :=
  match d.cksNext i 3 with
  | none => d
  | some x =>
    match d.cksClosed, d.obj (rId x.bytes) with
    | some st, _ => d.cksRan x st 0 0
    | none, none => d.cksRan x 4 0 0
    | none, some o =>
      let d := d.freeBlocks o.blks
      ({ d with cks := { d.cks with objs := d.cks.objs.filter fun y => y.id ≠ o.id } } : Dev).cksRan x 0 0 0

/-- CKS_REQUEST_COMPLETE: the completion entry of a request that has run (R453). -/
def cksComplete (i : Nat) (d : Dev) : Dev :=
  match d.cks.reqs.find? fun x => x.index == i && x.ran with
  | none => d
  | some x =>
    let w := d.fld Fld.CKS_CQ_PTR_WRITE
    let a := 32 * d.fld Fld.CKS_CQ_BASE_BASE + 32 * (w % 2 ^ d.fld Fld.CKS_CQ_BASE_SIZE_LOG2)
    let entry := leBytes 1 0 ++ leBytes 1 x.status ++ leBytes 1 x.reason ++ leBytes 1 (rOp x.bytes) ++ leBytes 2 x.index ++ leBytes 2 0 ++
      leBytes 8 x.moved ++ leBytes 8 d.t ++ leBytes 6 d.stepNo ++ leBytes 2 0
    match d.devWrite cksReq a entry with
    | (.wait, _) => d
    | (_, d) =>
      ({ d with cks := { d.cks with reqs := d.cks.reqs.filter fun y => y.index ≠ i } } : Dev).setFld Fld.CKS_CQ_PTR_WRITE (w + 1)

/-! ### States, wear, refresh (R454–R458) -/

/-- The refresh backlog exceeds 1 % of the blocks: CKS_REFRESH_BACKLOG as it comes to (R455). -/
def Dev.backlog (d : Dev) (weak : List Nat) : Dev :=
  let was := d.cks.weak.length
  let d := { d with cks := { d.cks with weak } }
  if was ≤ 7500 && decide (7500 < weak.length) then d.event { code := 0x902, kind := 0x22 } else d

/-- CKS_MOUNT: `weak` are the blocks whose sampled page fails the test. A cold bring-up that cannot read the reset history starts it
empty (R406, R457, R458). -/
def cksMount (dirOk : Bool) (weak : List Nat) (d : Dev) : Dev :=
  if 2 ≤ d.fld Fld.CKS_STATUS_STATE then d
  else if dirOk then (({ d with cks := { d.cks with logEnd := none } } : Dev).cksSet 2).backlog weak
  else
    let d := d.cksSet 4
    if d.fld Fld.COB_BRINGUP_RESET_KIND = 0 then
      let d := (d.setFld Fld.HANG_STATUS_HISTORY_LOST 1).setFld Fld.HANG_STATUS_BENCHED 0
      let d := (List.range 16).foldl (fun d i => d.setReg (0x400080 + 8 * i) 0) d
      { d with cob := { d.cob with counted := 0 } }
    else d

/-- CKS_STATE: READ_ONLY for want of spare blocks or at the end of the blocks' life, FAILED once the reserve is exhausted. -/
def cksState (d : Dev) : Dev :=
  match d.fld Fld.CKS_STATUS_STATE with
  | 2 => if d.fld Fld.CKS_WEAR_SPARE < 15000 || 3000 ≤ d.meanErase then d.cksSet 3 else d
  | 3 => if d.cks.reserve = 0 then d.cksSet 4 else d
  | _ => d

/-- CKS_REFRESH: a block at HORIZON, or one that needed heavy correction, is written again elsewhere (R455). -/
def cksRefresh (b : Nat) (d : Dev) : Dev :=
  if (d.nand b).bad then d
  else if (d.nand b).used then
    match d.freshBlock with
    | some c => d.moveBlock b c
    | none => if d.cks.weak.contains b then d else d.backlog (d.cks.weak ++ [b])
  else { d with cks := { d.cks with weak := d.cks.weak.filter (· ≠ b) } }

/-- The index with the extreme erase count among some blocks, the first of equals. -/
def Dev.extreme (d : Dev) (worse : Nat → Nat → Bool) (p : Nand → Bool) : Option Nat :=
  (List.range rawBlocks).foldl (fun a b =>
    let n := d.nand b
    if !p n then a
    else match a with
      | none => some b
      | some c => if worse n.erase (d.nand c).erase then some b else a) none

/-- WEAR_LEVEL_MOVE: with the highest count more than 256 over the mean, data of the least-erased block that holds some moves onto the
most-erased free one (R454). -/
def wearMove (d : Dev) : Dev :=
  if d.maxErase ≤ d.meanErase + 256 then d
  else
    match d.extreme (fun a b => decide (a < b)) (fun n => n.used && !n.bad),
          d.extreme (fun a b => decide (b < a)) (fun n => !n.used && !n.bad) with
    | some b, some c => d.moveBlock b c
    | _, _ => d

/-- What a failing page loses of an object: nothing, or a page of the piece that lay in the block (free, log 72). -/
def loseAt (v piece : Nat) (o : Obj) : Obj :=
  if v % 2 = 0 then o
  else
    let at_ := piece * blockBytes + v / 2 % 1000 * 16000
    if at_ < o.bytes.length then { o with bad := some (min at_ (o.bad.getD at_)) } else o

/-- BLOCK_RETIRE: readable data moves elsewhere, the block is retired (R456). -/
def blockRetire (b : Nat) (d : Dev) : Dev :=
  let n := d.nand b
  if n.bad then d
  else
    let d :=
      if !n.used then d
      else
        let v := Config.freeNat d.fresh
        let objs := d.cks.objs.map fun o => if o.blks.contains b then loseAt v (o.blks.findIdx (· == b)) o else o
        let d := { d with fresh := d.fresh + 1, cks := { d.cks with objs } }
        match d.freshBlock with | some c => d.moveBlock b c | none => d
    let d := d.setNand b { d.nand b with bad := true, used := false }
    let d := d.addFld Fld.CKS_WEAR_RETIRED 1
    if d.fld Fld.CKS_STATUS_STATE = 3 then { d with cks := { d.cks with reserve := d.cks.reserve - 1 } }
    else d.setFld Fld.CKS_WEAR_SPARE (d.fld Fld.CKS_WEAR_SPARE - 1)

/-- CKS_WRITE (R450, R451). -/
def execCksWrite (i : Nat) (s : State) : Host.Outcome State Fault Refusal := effect (cksWrite i) s
/-- CKS_READ (R452). -/
def execCksRead (i : Nat) (s : State) : Host.Outcome State Fault Refusal := effect (cksRead i) s
/-- CKS_DELETE (R450). -/
def execCksDelete (i : Nat) (s : State) : Host.Outcome State Fault Refusal := effect (cksDelete i) s
/-- CKS_STAT (R452). -/
def execCksStat (i : Nat) (s : State) : Host.Outcome State Fault Refusal := effect (cksStat i) s
/-- CKS_REQUEST_COMPLETE (R453). -/
def execCksRequestComplete (i : Nat) (s : State) : Host.Outcome State Fault Refusal := effect (cksComplete i) s
/-- CKS_MOUNT (R457). -/
def execCksMount (dirOk : Bool) (weak : List Nat) (s : State) : Host.Outcome State Fault Refusal := effect (cksMount dirOk weak) s
/-- CKS_REFRESH (R455). -/
def execCksRefresh (b : Nat) (s : State) : Host.Outcome State Fault Refusal := onUnit (decide (b < rawBlocks)) (cksRefresh b) s
/-- WEAR_LEVEL_MOVE (R454). -/
def execWearLevelMove (s : State) : Host.Outcome State Fault Refusal := effect wearMove s
/-- BLOCK_RETIRE (R456). -/
def execBlockRetire (b : Nat) (s : State) : Host.Outcome State Fault Refusal := onUnit (decide (b < rawBlocks)) (blockRetire b) s
/-- CKS_STATE (R457). -/
def execCksState (s : State) : Host.Outcome State Fault Refusal := effect cksState s
/-- CKS_RING_START (R449). -/
def execCksRingStart (s : State) : Host.Outcome State Fault Refusal := effect ringStart s

end Sys2Proof.Machine
end

