-- ==== Sys2Proof/Machine/Eddy.lean ====
section
/-!
DEFINITION. Eddy watch (06 R191–R200): suspicion, probes, spills and the drain of spill segments.
-/
namespace Sys2Proof.Machine

/-! ### Suspects and wait edges -/

/-- Whether a core is suspect: RUNNING, waiting on its firing condition for THRESHOLD core cycles (R191). -/
def Dev.suspect (d : Dev) (c : Nat) : Bool :=
  let k := d.core c
  d.coreState c == .running && k.sil.blocked && k.sil.block == 1 &&
    decide (k.fld Fld.CORE_EDDY_CFG_THRESHOLD ≤ k.sil.stall)

/-- Report a core to its cluster watcher once. -/
def Dev.reportCore (d : Dev) (c : Nat) : Dev :=
  let g := d.gw (routerOf c)
  if g.probes.contains c then d else d.setGw (routerOf c) { g with probes := g.probes ++ [c] }

/-- The counters the instruction at pc waits on: its own, for a stream instruction, and its slots (R47). -/
def condsAt (w : Word) : List (Nat × Nat) :=
  (if 0x71 ≤ opcodeOf w && opcodeOf w ≤ 0x74 then [(tSC w, tK w)] else []) ++ (slotsOf w).map Prod.snd

/-- The wait edges at pc, as (link, stream, upstream): one per unmet counter of a stitch stream (R192). -/
def Core.waitEdges (k : Core) : List (Nat × Nat × Bool) :=
  ((condsAt (NMap.get 0 k.log.imem k.log.pc)).filter fun x => decide (k.counter x.1 < x.2)).filterMap fun x =>
    match k.log.bound x.1 with
    | .inS q => some (q / 8, q % 8, true)
    | .outS q => some (q / 8, q % 8, false)
    | _ => none

/-- Send copies of a probe out of core c along edges, unless HOPS would pass HOP_LIMIT of its gateway (R194). -/
def Dev.sendProbes (d : Dev) (c : Nat) (p : Probe) (es : List (Nat × Nat × Bool)) : Dev :=
  if d.fld (Fld.CLU_EDDY_CFG_HOP_LIMIT.at (cluBase (routerOf c))) ≤ p.hops then d
  else es.foldl (fun d e => d.emit (.probe c e.1 { p with stream := e.2.1, up := e.2.2 })) d

/-! ### A probe's life (R192–R195) -/

/-- A core becomes suspect and reports (R191). -/
def coreSuspect (c : Nat) (d : Dev) : Dev := if d.suspect c then d.reportCore c else d

/-- The watcher launches the next probe of a reported core that is still suspect and has none outstanding (R192). -/
def probeLaunch (c : Nat) (d : Dev) : Dev :=
  let r := routerOf c
  let g := d.gw r
  if !g.probes.contains c then d
  else
    let d := d.setGw r { g with probes := g.probes.filter (· ≠ c) }
    let k := d.core c
    if !d.suspect c || k.flag Fld.CORE_EDDY_STATUS_PROBE_OUT then d
    else
      let serial := (k.fld Fld.CORE_EDDY_STATUS_SERIAL + 1) % 16
      let d := d.modCore c fun k =>
        let k := (k.setFld Fld.CORE_EDDY_STATUS_SERIAL serial).setFld Fld.CORE_EDDY_STATUS_PROBE_OUT 1
        { k with log := { k.log with probe := some k.sil.stall } }
      d.sendProbes c { init := d.lid c, serial, up := false, stream := 0 } k.waitEdges

/-- An outstanding probe is dead once STALL_RUN has grown by a further THRESHOLD; a core still suspect is reported again
(R192). -/
def probeDead (c : Nat) (d : Dev) : Dev :=
  let k := d.core c
  match k.log.probe with
  | none => d
  | some s0 =>
    if s0 + k.fld Fld.CORE_EDDY_CFG_THRESHOLD ≤ k.sil.stall then
      let d := d.modCore c fun k =>
        let k := k.setFld Fld.CORE_EDDY_STATUS_PROBE_OUT 0
        { k with log := { k.log with probe := none } }
      if d.suspect c then d.reportCore c else d
    else d

/-- The initiator confirms a cycle: receives alone are reported, a recorded queue is ordered spilled, by a SPILL_ORDER packet
where another cluster holds it; an order to the own watcher stands with it at once (R195, R196). -/
def Dev.confirm (d : Dev) (c : Nat) (p : Probe) : Dev :=
  let d := d.modCore c fun k =>
    let k := k.setFld Fld.CORE_EDDY_STATUS_PROBE_OUT 0
    { k with log := { k.log with probe := none } }
  match p.rec? with
  | none => d.event { code := 0x102, kind := 1, unit := c, lid := d.lid c, pc := some (d.core c).log.pc }
  | some (core, link, stream) =>
    let r := routerOf c
    let dest := d.gwNode core
    let p : Packet := { ptype := .spillOrder, dst := dest, dstDev := d.devId, dstCore := core, aux := 8 * link + stream }
    if dest = 4 * r then { d with arrived := d.arrived ++ [(4 * r, { p, at_ := d.t })] }
    else if d.mayInject (4 * r) .spillOrder then d.inject (4 * r) p else d

/-- A probe at the end of its stream: the initiator confirms or drops it; another core passes it on along its wait edges while
it waits long enough, unless its own outstanding probe has the lower id (R193–R195). -/
def Dev.probeEnds (d : Dev) (c : Nat) (p : Probe) : Dev :=
  let k := d.core c
  let out := k.flag Fld.CORE_EDDY_STATUS_PROBE_OUT
  if d.lid c = p.init then
    if out && k.fld Fld.CORE_EDDY_STATUS_SERIAL == p.serial then d.confirm c p else d
  else if out && decide (d.lid c < p.init) then d
  else if k.sil.blocked && k.sil.block == 1 && decide (k.fld Fld.CORE_EDDY_CFG_PROBE_HOLD ≤ k.sil.stall) then
    d.sendProbes c p k.waitEdges
  else d

/-- The entry that routes the word at the head of queue q, or an arriving one while the queue is empty (R180). -/
def Core.headEntry (k : Core) (q : Nat) : Word × Nat :=
  let x := k.log.inQ q
  match x.q with
  | w :: _ => (k.route w.w.gen q, w.taken)
  | [] => (k.route x.agen q, 0)

/-- The link outputs of queue q whose head word waits for a credit. -/
def Core.blockedOuts (k : Core) (q : Nat) : List Nat :=
  let e := k.headEntry q
  if (k.log.inQ q).q.isEmpty then []
  else [1, 2, 3, 4].filter fun o =>
    nbit (routeMask e.1) o && !nbit e.2 o && (k.log.outQ (outStream e.1 o)).credits == 0

/-- The inbound stream whose valid entry drives outbound stream oq, in the bank of that stream's generation. -/
def Core.driver (k : Core) (oq : Nat) : Option Nat :=
  (List.range 32).find? fun i =>
    let e := k.route (k.log.outQ oq).gen i; nbit (routeMask e) (1 + oq / 8) && routeStream e == oq % 8

/-- Downstream copies through the blocked outputs of queue q, but not back along `except`. -/
def Dev.turnDown (d : Dev) (c q : Nat) (p : Probe) (except : Option Nat) : Dev :=
  let k := d.core c
  let es := ((k.blockedOuts q).filter fun o => except ≠ some (o - 1)).map fun o => (o - 1, routeStream (k.headEntry q).1, false)
  d.sendProbes c p es

/-- A router passes a probe on (R193–R195). -/
def Dev.passProbe (d : Dev) (c link : Nat) (p0 : Probe) : Dev :=
  let k := d.core c
  let p := { p0 with hops := p0.hops + 1 }
  if p.up then
    match k.driver (8 * link + p.stream) with
    | none => d.probeEnds c p
    | some q => (d.sendProbes c p [(q / 8, q % 8, true)]).turnDown c q p (some link)
  else
    let q := 8 * link + p.stream
    let p := if p.rec?.isNone && decide (8 ≤ (k.log.inQ q).q.length) then { p with rec? := some (d.lid c, link, p.stream) } else p
    let e := k.headEntry q
    let d := d.turnDown c q p none
    if nbit (routeMask e.1) 0 && !nbit e.2 0 then d.probeEnds c p else d

/-- A probe reaches a router: while its links stop, the lane's buffer holds up to 4 probes and a further one dies (R194, log 109); else
those it holds are passed on, then this one. -/
def probeArrival (c link : Nat) (p : Probe) (d : Dev) : Dev :=
  let held := (d.core c).sil.lane
  let put := fun (l : List (Nat × Probe)) => d.modCore c fun k => { k with sil := { k.sil with lane := l } }
  if d.linksStopped c then (if held.length < 4 then put (held ++ [(link, p)]) else d)
  else (held ++ [(link, p)]).foldl (fun d x => d.passProbe c x.1 x.2) (put [])

/-! ### Spills (R196–R200) -/

/-- Ring slots reserved: allowance and 8 more for each stream that has spilled or spills (R197). -/
def Core.reserved (k : Core) : Nat :=
  (k.log.inq.map fun e => let s := e.2.allow + (if e.2.spill then 8 else 0); if s = 0 then 0 else s + 8).foldl (· + ·) 0
def Core.setReserved (k : Core) : Core := k.setFld Fld.CORE_EDDY_STATUS_RESERVED k.reserved

/-- The ring has no room for a spill (R199). -/
def Dev.unrecoverable (d : Dev) (c q : Nat) : Dev :=
  let d := d.coreErr c 0x13 (d.core c).log.pc 1 q 0 0
  if d.coreState c == .running then d.toHung c else d.abortStep

/-- A spill order that stands with the watcher that holds the queue is carried out or cancelled (R196, R199, R200). -/
def spillOrder (lid q : Nat) (d : Dev) : Dev :=
  match d.hostOf lid with
  | none => d
  | some c =>
    let r := routerOf c
    let mine := fun (a : Nat × QPkt) => a.1 == 4 * r && a.2.p.ptype == PType.spillOrder && a.2.p.dstCore == lid && a.2.p.aux == q
    let any := d.arrived.any mine
    let d := { d with arrived := d.arrived.filter fun a => !mine a }
    let k := d.core c
    let x := k.log.inQ q
    let b := cluBase r
    if !any then d
    else if x.spill || decide (x.q.length < 8) || !d.flag (Fld.CLU_EDDY_CFG_SPILL_EN.at b) then
      d.addFld (Fld.CLU_EDDY_LOG0_CANCELLED.at b) 1
    else
      let k' := k.setInQ q { x with spill := true, spillAt := d.t }
      if k'.reserved > 32 * k.fld Fld.CORE_SPILL_CFG_SIZE then d.unrecoverable c q
      else
        let d := d.setCore c k'.setReserved
        let d := (d.setFld (Fld.CLU_EDDY_LOG0_CORE.at b) lid).setFld (Fld.CLU_EDDY_LOG0_LINK.at b) (q / 8)
        (d.setFld (Fld.CLU_EDDY_LOG0_STREAM.at b) (q % 8)).setReg (Fld.CLU_EDDY_LOG1_FABRIC_TIME.off + b) d.now

/-- The first word moved takes the flip (R266). -/
def ringErr (es : List (Nat × Nat)) : List SWord → List SWord
  | [] => []
  | u :: us => { u with errs := es } :: us

/-- The queue's words stand at the head of the segment: credits by generation, the allowance, the records (R197, R200). -/
def spillMoveEnd (c q : Nat) (d : Dev) : Dev :=
  let k := d.core c
  let x := k.log.inQ q
  if !x.spill then d
  else
    let n := x.q.length
    let f := k.ringFlip
    let k := (f.2.setInQ q { x with q := [], seg := ringErr f.1 x.q ++ x.seg, allow := x.allow + n, spill := false,
                                    spillAt := 0 }).setReserved
    let d := d.afterSpad c (k.addFld Fld.CORE_EDDY_STATUS_SPILLS 1)
    let d := [0, 1, 2, 3].foldl (fun d g =>
      let m := (x.q.filter fun w => w.w.gen == g).length
      if m = 0 then d else d.giveCredit c q m g) d
    let b := cluBase (routerOf c)
    let d := (d.setFld (Fld.CLU_EDDY_LOG0_WORDS.at b) n).addFld (Fld.CLU_EDDY_LOG0_SPILLS.at b) 1
    let d := d.event { code := 0x101, kind := 1, unit := c, lid := d.lid c, idKind := 1, id := q, detail := leBytes 1 n }
    { d with step := { d.step with spills := d.step.spills ++ [(d.lid c, q, n, x.allow + n, x.spillAt)] } }.tally 0x00C 1 c
      (routerOf c) 1

/-- The drain moves the segment's head word to the tail of a queue with room (R198). What an uncorrectable codeword of the ring delivers
the spec does not say: its data are a free value (log 97). -/
def spillDrain (c q : Nat) (d : Dev) : Dev :=
  let k := d.core c
  let x := k.log.inQ q
  match x.seg with
  | u :: rest =>
    if x.q.length < 8 && !x.spill then
      let r := k.ringRead u
      let data : Line := BitVec.ofNat 512 (Config.freeNat d.fresh)
      let v := r.1.getD { u with w := { u.w with data, par := parOf data }, errs := [] }
      { d.afterSpad c (r.2.setInQ q { x with q := x.q ++ [v], seg := rest }) with fresh := d.fresh + b2n r.1.isNone }
    else d
  | [] => d

/-- CORE_SUSPECT (R191). -/
def execCoreSuspect (c : Nat) (s : State) : Host.Outcome State Fault Refusal :=
  onUnit (decide (c < numCores)) (coreSuspect c) s
/-- PROBE_LAUNCH (R192). -/
def execProbeLaunch (c : Nat) (s : State) : Host.Outcome State Fault Refusal :=
  onUnit (decide (c < numCores)) (probeLaunch c) s
/-- PROBE_DEAD (R192). -/
def execProbeDead (c : Nat) (s : State) : Host.Outcome State Fault Refusal :=
  onUnit (decide (c < numCores)) (probeDead c) s
/-- PROBE_ARRIVAL (R193–R195). -/
def execProbeArrival (c link : Nat) (p : Probe) (s : State) : Host.Outcome State Fault Refusal :=
  onUnit (decide (c < numCores) && decide (link < 4)) (probeArrival c link p) s
/-- SPILL_ORDER (R196, R199). -/
def execSpillOrder (core q : Nat) (s : State) : Host.Outcome State Fault Refusal :=
  onUnit (decide (core < numLogical) && decide (q < 32)) (spillOrder core q) s
/-- SPILL_MOVE_END (R197, R200). -/
def execSpillMoveEnd (c q : Nat) (s : State) : Host.Outcome State Fault Refusal :=
  onUnit (decide (c < numCores) && decide (q < 32)) (spillMoveEnd c q) s
/-- SPILL_DRAIN (R198). -/
def execSpillDrain (c q : Nat) (s : State) : Host.Outcome State Fault Refusal :=
  onUnit (decide (c < numCores) && decide (q < 32)) (spillDrain c q) s

end Sys2Proof.Machine
end

