-- ==== Sys2Proof/Machine/RegWrite.lean ====
section
/-!
DEFINITION. Writes of the device register space (R7–R10): which agent reaches which register, what each register refuses, what a write
leaves, and the commands that are such writes. A write that the device refuses answers `.refused` and changes nothing else.
-/
namespace Sys2Proof.Machine

/-- What a write leaves in a register: each field by its access code, a reserved bit as it was (R7, R9). RWL fields do not occur. -/
def RegRow.store (r : RegRow) (old v : Word) : Word :=
  r.fields.foldl (fun x f =>
    let new := bits v f.1 f.2.1
    let was := bits x f.1 f.2.1
    match f.2.2 with
    | .ro | .wo => x
    | .rw | .rws | .rwl => putBits x f.1 f.2.1 new
    | .w1s => putBits x f.1 f.2.1 (was ||| new)
    | .w1c => putBits x f.1 f.2.1 (was - (was &&& new))) old

/-- The bits of a register that a write of 1 clears. -/
def RegRow.clears (r : RegRow) : Word :=
  r.fields.foldl (fun x f => if f.2.2 == .w1c then putBits x f.1 f.2.1 (2 ^ (f.1 + 1 - f.2.1) - 1) else x) 0
/-- A register without a field that a write changes: a write is ignored (R7). -/
def RegRow.readOnly (r : RegRow) : Bool := r.fields.all fun f => f.2.2 == .ro

/-- The bits of a register no field names (R9). -/
def RegRow.reserved (r : RegRow) : Word := r.fields.foldl (fun x f => putBits x f.1 f.2.1 0) (BitVec.allOnes 64)

/-- An access the DRS serves: 64 bits, aligned, to a register whose heading names the agent (R8, R10). -/
def mayReach (a : Agent) (off size : Nat) : Bool :=
  decide (size = 8) && off % 8 == 0 && match rowAt off with
    | some r => r.agents == .both || a == .firmware
    | none => false

/-- A value held between two limits. -/
def clampF (v : Word) (f : Fld) (lo hi : Nat) : Word := setF v f (min hi (max lo (getF v f)))
/-- A field in a range. -/
def inF (v : Word) (f : Fld) (lo hi : Nat) : Bool := decide (lo ≤ getF v f) && decide (getF v f ≤ hi)
/-- Any core is RUNNING. -/
def Dev.anyRunning (d : Dev) : Bool := d.cores.any fun e => e.2.log.state == .running
/-- ROM, FILL_TEST or TRAIN: the registers written as COB_DEVICE_ID are open (R16). -/
def Dev.early (d : Dev) : Bool := let st := d.fld Fld.COB_BRINGUP_STATE; decide (1 ≤ st) && decide (st ≤ 3)

/-! ### Core blocks -/

/-- A route entry may be written as `new` (R182). -/
def Core.routeOk (k : Core) (open_ : Bool) (row : RegRow) (i : Nat) (v new : Word) : Bool :=
  let bank := i / 32
  let link := i % 32 / 8
  let after := fun (j : Nat) => if j = i % 32 then new else k.route bank j
  let clash := (List.range 32).any fun j =>
    j != i % 32 && (routeMask new &&& routeMask (after j)) / 2 != 0 && routeStream new == routeStream (after j)
  let held := k.log.inq.any fun e => (e.2.q ++ e.2.seg).any fun w => w.w.gen % 2 == bank
  let chosen := (List.range 32).any fun q => (k.log.inQ q).agen % 2 == bank
  !nbit (getF new Fld.CORE_STITCH_ROUTE_OUT_MASK) (1 + link) && (v &&& row.reserved) == 0 && !clash &&
    (open_ || new == k.route bank (i % 32) || !(held || chosen))

/-- A Sluice entry may be written as `new` (R173). -/
def Core.sluOk (k : Core) (n : Nat) (new : Word) : Bool :=
  getF new Fld.CORE_SLU_CFG_LAG != 0 && getF new Fld.CORE_SLU_CFG_WINDOW != 0 &&
  (getF new Fld.CORE_SLU_CFG_VALID == 0 || (List.range 8).all fun m =>
    let x := k.reg (0x800 + 0x40 * m)
    m == n || getF x Fld.CORE_SLU_CFG_VALID == 0 || getF x Fld.CORE_SLU_CFG_LAYER != getF new Fld.CORE_SLU_CFG_LAYER)

/-- A scratchpad remap entry may be written as `new` (R265). -/
def Core.remapOk (k : Core) (i : Nat) (new : Word) : Bool :=
  let e := k.reg (0x700 + 8 * i)
  let same := fun (j : Nat) => let x := k.reg (0x700 + 8 * j)
    j != i && getF x Fld.CORE_SPAD_REMAP_VALID == 1 && getF x Fld.CORE_SPAD_REMAP_CODEWORD == getF new Fld.CORE_SPAD_REMAP_CODEWORD
  (new == e || getF e Fld.CORE_SPAD_REMAP_VALID == getF e Fld.CORE_SPAD_REMAP_ACTIVE) &&
    (getF new Fld.CORE_SPAD_REMAP_VALID == 0 || !(List.range 4).any fun j => same (i / 4 * 4 + j))

/-- The INDEX fields of a flip mask do not exceed a position. -/
def flipIndexOk (v : Word) (most : Nat) : Bool := (List.range 4).all fun j => decide (bits v (16 * j + 14) (16 * j + 8) ≤ most)

/-- A write of a core register other than the route, Sluice, tag and remap tables: none where it is refused. -/
def Dev.coreWrite1 (d : Dev) (c o : Nat) (row : RegRow) (v : Word) : Option Dev :=
  let k := d.core c
  let st := d.coreState c
  let put := fun (v : Word) => some (d.setCore c (k.setReg o (row.store (k.reg o) v)))
  if o = 0x10 then if st == .empty || st == .loading || st == .loaded then put v else none
  else if o = 0x20 then if st == .empty || st == .loaded || st == .done then some (d.setCore c (k.setGate (getF v Fld.CORE_BANK_GATE_GATE))) else none
  else if o = 0x28 then if inF v Fld.CORE_SPILL_CFG_SIZE 1 16 && (st == .empty || st == .loaded) then put v else none
  else if o = 0x30 then put (clampF v Fld.CORE_REMOTE_TIMEOUT_CYCLES 512 (2 ^ 20 - 1))
  else if o = 0x38 then
    if bit v 0 then some (d.setCore c ([0x38, 0x40, 0x48, 0x50, 0x58].foldl (fun k o => k.setReg o 0) k)) else some d
  else if o = 0x108 then
    put (clampF (clampF v Fld.CORE_EDDY_CFG_THRESHOLD 256 (2 ^ 20 - 1)) Fld.CORE_EDDY_CFG_PROBE_HOLD 16 (2 ^ 20 - 1))
  else if 0x640 ≤ o && o < 0x680 then
    if nbit (k.fld Fld.CORE_SPAD_FLIP_ARM_ARM) ((o - 0x640) / 8) || !flipIndexOk v 68 then none else put v
  else if o = 0x680 then
    let arm := k.fld Fld.CORE_SPAD_FLIP_ARM_ARM
    if arm &&& (getF v Fld.CORE_SPAD_FLIP_ARM_ARM ||| getF v Fld.CORE_SPAD_FLIP_ARM_APPLIED) != 0 then none else put v
  else put v

/-- A write of a core register (R475): a logical-state register of a core that holds no logical core refuses it. -/
def Dev.coreWrite (d : Dev) (c o : Nat) (row : RegRow) (v : Word) : Option Dev :=
  let k := d.core c
  let st := d.coreState c
  let new := row.store (k.reg o) v
  let put := some (d.setCore c (k.setReg o new))
  let idle := st == .empty || st == .loaded || st == .done
  if isLogical o && (d.lidOf c).isNone then none
  else if row.readOnly then some d
  else if 0x200 ≤ o && o < 0x400 then
    if k.routeOk (st == .empty || st == .loaded) row ((o - 0x200) / 8) v new then put else none
  else if 0x700 ≤ o && o < 0x800 then if k.remapOk ((o - 0x700) / 8) new then put else none
  else if 0x800 ≤ o && o < 0xA00 then
    if idle && (o % 0x40 != 0 || k.sluOk ((o - 0x800) / 0x40) new) then put else none
  else if 0xA00 ≤ o then if idle then put else none
  else d.coreWrite1 c o row v

/-! ### Cluster and router blocks -/

/-- The confluence entries of a gateway may stand as they do after a write of entry n (R242). -/
def Dev.confOk (d : Dev) (r n : Nat) : Bool :=
  let on := fun (m : Nat) => d.fld (cf Fld.CLU_CONF_CFG_ENABLE r m) == 1
  let mode := d.fld (cf Fld.CLU_CONF_DELIVER_DELIVER_MODE r n)
  let lo := d.fld (cf Fld.CLU_CONF_DELIVER_SPAN_LO r n)
  let hi := d.fld (cf Fld.CLU_CONF_DELIVER_SPAN_HI r n)
  let alike := fun (m : Nat) => m != n && on m && d.fld (cf Fld.CLU_CONF_CFG_TAG r m) == d.fld (cf Fld.CLU_CONF_CFG_TAG r n)
  let total := (List.range 64).foldl (fun a m => if on m then a + d.confBlocks r m else a) 0
  let reach := d.fld (cf Fld.CLU_CONF_DELIVER_DELIVER_OFFSET r n) + d.confBlocks r n * unitLen (d.confKind r n)
  !(on n && (List.range 64).any alike) && decide (total ≤ 512) && decide (reach ≤ 0x60000) && d.confKind r n != 3 &&
    !(mode == 1 && (decide (hi < lo) || decide (7 < hi))) && !(mode == 2 && (decide (hi < lo) || decide (11 < hi)))

/-- A screening entry expects at most 64 contributions (R313). -/
def Dev.screenOk (d : Dev) (r n : Nat) : Bool :=
  d.fld (cr Fld.CLU_CONF_RED_SCREEN r n) == 0 || decide (d.fld (cf Fld.CLU_CONF_CFG_EXPECTED r n) ≤ 64)

/-- A write of a cluster register. -/
def Dev.cluWrite (d : Dev) (r o off : Nat) (row : RegRow) (v : Word) : Option Dev :=
  let put := fun (v : Word) => d.setReg off (row.store (d.reg off) v)
  if o = 0x8000 then some (put (clampF v Fld.CLU_EDDY_CFG_HOP_LIMIT 16 1023))
  else if 0x9000 ≤ o && o < 0x9800 then
    let n := (o - 0x9000) / 0x20
    let after := put v
    if d.confState r n = 1 || !after.confOk r n || !after.screenOk r n || (o % 0x20 == 0x10 && bits v 31 0 == 0) then none
    else some after
  else if 0xA000 ≤ o && o < 0xA200 then
    let after := put v
    let n := (o - 0xA000) / 8
    if d.confState r n = 1 || !after.confOk r n || getF v Fld.CLU_CONF_RED_FACTOR = 0 || !after.screenOk r n then none else some after
  else some (put v)

/-- A write of a routing table (R219, R364): OUT 0–4, the shadow bank's fields alone, while the router holds no old packet. -/
def Dev.raceWrite (d : Dev) (r off : Nat) (row : RegRow) (v : Word) : Option Dev :=
  let old := d.reg off
  let new := row.store old v
  let act := d.fld (Fld.RACE_CTRL_ACTIVE_BANK.at (raceBase r))
  let hi := 4 * act + 3
  if decide (4 < getF v Fld.RACE_ROUTE_OUT0) || decide (4 < getF v Fld.RACE_ROUTE_OUT1) || bits new hi (hi - 3) != bits old hi (hi - 3) ||
    d.oldInFlight r != 0 then none
  else some (d.setReg off new)

/-! ### Memory controllers and ports -/

/-- A remap entry of a controller may be written as `new` (R265). -/
def Dev.memRemapOk (d : Dev) (k i : Nat) (new : Word) : Bool :=
  let at_ := fun (j : Nat) => d.reg (memBase k + 0x1000 + 8 * j)
  let block := getF new Fld.HBM_REMAP_BLOCK
  let same := fun (j : Nat) => j != i && getF (at_ j) Fld.HBM_REMAP_VALID == 1 && getF (at_ j) Fld.HBM_REMAP_BLOCK == block
  (new == at_ i || getF (at_ i) Fld.HBM_REMAP_VALID == getF (at_ i) Fld.HBM_REMAP_ACTIVE) &&
    (getF new Fld.HBM_REMAP_VALID == 0 || !(List.range (if k < 16 then 256 else 64)).any same) &&
    (decide (16 ≤ k) || (block / 4 % 32 == i / 8 && decide (block < 48 * 2 ^ 24)))

/-- A write of a descriptor ring's control (R247, R248, R258): HEAD stays while the ring is RUNNING, when TAIL_SRC may not change;
ENABLE starts an IDLE ring, START a STOPPED one, which stays so without it, and clearing ENABLE leaves a RUNNING one IDLE. -/
def Dev.ringWrite (d : Dev) (off : Nat) (row : RegRow) (v : Word) : Option Dev :=
  let old := d.reg off
  let st := getF old Fld.HBM_WELT_RING_CTRL_STATE
  let v := if st = 1 then setF v Fld.HBM_WELT_RING_CTRL_HEAD (getF old Fld.HBM_WELT_RING_CTRL_HEAD) else v
  if st = 1 && getF v Fld.HBM_WELT_RING_CTRL_TAIL_SRC != getF old Fld.HBM_WELT_RING_CTRL_TAIL_SRC then none
  else
    let new := row.store old v
    let next := if getF v Fld.HBM_WELT_RING_CTRL_ENABLE = 0 then (if st = 2 then 2 else 0)
      else if st = 2 && getF v Fld.HBM_WELT_RING_CTRL_START = 0 then 2 else 1
    some (d.setReg off (setF new Fld.HBM_WELT_RING_CTRL_STATE next))

/-- A write of a memory controller's register. -/
def Dev.memWrite (d : Dev) (k o off : Nat) (row : RegRow) (v : Word) : Option Dev :=
  let old := d.reg off
  let new := row.store old v
  let b := memBase k
  let armed := d.flag (Fld.HBM_FLIP_CTRL_ARM.at b)
  if o = 8 then
    if bit v 0 then
      let d := ((d.setFld (Fld.HBM_ECC_COUNT_LATCHED.at b) 0).setFld (Fld.HBM_ECC_COUNT_EXTRA.at b) 0)
      some ([0x10, 0x18, 0x20, 0x28].foldl (fun d o => d.setReg (b + o) 0) d)
    else some d
  else if o = 0x40 || o = 0x48 then if armed || !flipIndexOk v 71 then none else some (d.setReg off new)
  else if o = 0x50 then if armed then none else some (d.setReg off new)
  else if o = 0x68 then
    if getF v Fld.HBM_FILL_START = 0 || d.flag (Fld.HBM_FILL_START.at b) then some (d.setReg off new)
    else if d.anyRunning || !(d.memc k).descs.isEmpty then none
    else some (d.fillStart k (getF v Fld.HBM_FILL_MODE == 1))
  else if 0x1000 ≤ o && o < 0x2000 then if d.memRemapOk k ((o - 0x1000) / 8) new then some (d.setReg off new) else none
  else if 0x2000 ≤ o && o < 0x2100 then
    if o % 16 = 8 then d.ringWrite off row v
    else if (d.ring Fld.HBM_WELT_RING_CTRL_STATE k ((o - 0x2000) / 16) = 1 && new != old) || !inF v Fld.HBM_WELT_RING_BASE_SIZE_LOG2 4 16
    then none else some (d.setReg off new)
  else if o = 0x3000 then if inF v Fld.HBM_WELT_CQ_BASE_SIZE_LOG2 4 16 then some (d.setReg off new) else none
  else some (d.setReg off new)

/-- A write of a Ford port's register: FORD_CTRL stores its settings, then ACCEPT_PEER and ENABLE act (R290, R293). -/
def Dev.fordWrite (d : Dev) (p o off : Nat) (row : RegRow) (v : Word) : Option Dev :=
  if o = 0 then
    let w := clampF (clampF v Fld.FORD_CTRL_RETRAIN_DELAY 1 255) Fld.FORD_CTRL_KEEPALIVE_LIMIT 4 64
    let d := d.setReg off (row.store (d.reg off) w)
    let d := if getF v Fld.FORD_CTRL_ACCEPT_PEER = 1 then d.acceptPeer p else d
    some (d.portEnable p (getF v Fld.FORD_CTRL_ENABLE == 1))
  else some (d.setReg off (row.store (d.reg off) v))

/-! ### Device blocks -/

/-- A write of COB_STEP_NEXT (R315): ARM arms STEP, the next of the last committed one; while ARM is set no write is taken. -/
def Dev.stepNextWrite (d : Dev) (v : Word) : Option Dev :=
  let step := getF v Fld.COB_STEP_NEXT_STEP
  let free := !d.flag Fld.COB_STEP_COMMITTED_VALID || decide (step = d.fld Fld.COB_STEP_COMMITTED_STEP + 1)
  if d.flag Fld.COB_STEP_NEXT_ARM then none
  else if getF v Fld.COB_STEP_NEXT_ARM = 0 then some (d.setFld Fld.COB_STEP_NEXT_STEP step)
  else if !free || d.stepState = 1 || d.stepState = 2 then none
  else some (d.armStep step)

/-- A write of COB_STEP_CMD (R323, R330): COMMIT_SEALED and FAIL_SEALED act on a SEALED step alone; EXPEL as written. -/
def Dev.stepCmdWrite (d : Dev) (v : Word) : Option Dev :=
  if (bit v 0 || bit v 1) && d.stepState ≠ 3 then none
  else
    let d := if bit v 0 then d.commitSealed else d
    let d := if bit v 1 then d.failSealed else d
    let d := if bit v 0 then d.setFld Fld.COB_STEP_CMD_COMMIT_SEALED 1 else d
    let d := if bit v 1 then d.setFld Fld.COB_STEP_CMD_FAIL_SEALED 1 else d
    some (if bit v 2 || d.flag Fld.COB_STEP_CMD_EXPEL then d.setExpel (bit v 2) else d)

/-- A write of HEAL_CMD (R339, R343, R351). -/
def Dev.healCmdWrite (d : Dev) (v : Word) : Option Dev :=
  let kind := getF v Fld.HEAL_CMD_KIND
  let unit := getF v Fld.HEAL_CMD_UNIT
  if bit v 62 && !d.flag Fld.HEAL_STATUS_SHIFT_WANTED then none
  else
    let d := (d.setFld Fld.HEAL_CMD_KIND kind).setFld Fld.HEAL_CMD_UNIT unit
    let d := if bit v 63 then d.healTest kind unit else d
    let d := if bit v 61 then d.healRetest.setFld Fld.HEAL_CMD_RETEST 1 else d
    some (if bit v 62 then (d.setFld Fld.HEAL_CMD_SHIFT 1).beginShift else d)

/-- A write of HEAL_MAP_WRITE (R364): values in range, and no packet of the epoch before the last flip held. -/
def Dev.mapWrite (d : Dev) (v : Word) : Option Dev :=
  let prow := getF v Fld.HEAL_MAP_WRITE_PROW
  let g := getF v Fld.HEAL_MAP_WRITE_G
  let r := getF v Fld.HEAL_MAP_WRITE_V
  if d.oldHeld || decide (12 < r) || decide (103 < prow) || decide (16 < g) then none
  else
    let d := if bit v 61 then d.mapSetG prow (getF v Fld.HEAL_MAP_WRITE_CCOL) g else d
    let d := if bit v 62 then d.mapSetV r else d
    some (if bit v 63 then d.mapFlip (getF v Fld.HEAL_MAP_WRITE_EPOCH) else d)

/-- HANG_TIMEOUTS may hold a value (R391). -/
def Dev.timeoutsOk (d : Dev) (v : Word) : Bool :=
  let live := getF v Fld.HANG_TIMEOUTS_LIVENESS_LIMIT
  let age := getF v Fld.HANG_TIMEOUTS_AGE_LIMIT
  let welt := getF v Fld.HANG_TIMEOUTS_WELT_TIMEOUT
  inF v Fld.HANG_TIMEOUTS_LIVENESS_LIMIT 1 1000 && inF v Fld.HANG_TIMEOUTS_AGE_LIMIT 10 100000 &&
    inF v Fld.HANG_TIMEOUTS_WELT_TIMEOUT 20 1000000 && decide (2 * age ≤ welt) && decide (age ≤ d.fld Fld.FT_EPOCH_CFG_PERIOD) &&
    decide (4 * age ≤ 1000 * live)

/-- A write of HANG_CMD (R403, R406): refused as a whole where one of its requests is; while GO is set the fields of the request
that waits stay. -/
def Dev.hangWrite (d : Dev) (v : Word) : Dev :=
  let go := getF v Fld.HANG_CMD_GO = 1
  let again := getF v Fld.HANG_CMD_REINSTATE = 1
  if again && !d.benched then d.emit .refused
  else if go then
    let r := hangGo v { (if again then reinstate d else d) with out := [] }
    if r.out.contains .refused then d.emit .refused else { r with out := d.out ++ r.out }
  else if d.flag Fld.HANG_CMD_GO then (if again then reinstate d else d.emit .refused)
  else if again then reinstate (d.hangFields v) else (d.hangFields v).emit .accepted

/-- A direction table may be written as `new` (R285, R287, R364): the shadow bank's mask alone, no port in two directions of a bank. -/
def Dev.fordDirOk (d : Dev) (off : Nat) (old new : Word) : Bool :=
  let act := d.flag Fld.COB_FORD_DIR_ACTIVE_BANK
  let kept := if act then bits new 51 32 == bits old 51 32 else bits new 19 0 == bits old 19 0
  let mask := fun (w : Word) => if act then bits w 19 0 else bits w 51 32
  let taken := (List.range 6).any fun i =>
    let o := 0x710 + 8 * i
    o != off && ((mask (d.reg o) &&& mask new) / 2 ^ 18 != 0)
  kept && !taken && !d.oldHeld

/-- What the step, time and numerics registers refuse. -/
def Dev.devBad1 (d : Dev) (off : Nat) (v : Word) : Bool :=
  let st := d.stepState
  if off = 0x400 then d.anyRunning
  else if off = 0x408 then !inF v Fld.COB_NUMERICS_LEVEL_REQ_LEVEL 1 2
  else if 0x480 ≤ off && off < 0x500 then
    let n := (off - 0x480) / 8
    !inF v Fld.COB_NUM_REGION_RANGE_EXP 1 128 ||
      d.cores.any fun e => e.2.log.state == .running && e.2.fld Fld.CORE_PROG_REGION_REGION == n
  else if off = 0x600 then decide (4 < getF v Fld.COB_MEM_MAP_GRANULE) || !d.early
  else if off = 0x700 then
    !inF v Fld.COB_FORD_TORUS_X_SIZE 1 32 || !inF v Fld.COB_FORD_TORUS_Y_SIZE 1 32 || !inF v Fld.COB_FORD_TORUS_Z_SIZE 1 16 || !d.early
  else if off = 0x200008 then let s := getF v Fld.FT_SOURCE_SOURCE; decide (0x13 < s) && s != 0x1E && s != 0x1F
  else if off = 0x808 then d.flag Fld.COB_STEP_NEXT_ARM
  else if off = 0x810 then
    getF v Fld.COB_STEP_CFG_SEAL_OFFSET == 0 || !inF v Fld.COB_STEP_CFG_DIGEST_N 1 64 || getF v Fld.COB_STEP_CFG_VERDICT_WAIT == 0 ||
      (decide (1 ≤ st) && decide (st ≤ 4))
  else if off = 0x818 then decide (1 ≤ st) && decide (st ≤ 4)
  else if off = 0x828 then decide (1 ≤ st) && decide (st ≤ 4)
  else if off = 0x200018 then
    !inF v Fld.FT_EPOCH_CFG_PERIOD 100 100000 || decide (getF v Fld.FT_EPOCH_CFG_PERIOD < d.fld Fld.HANG_TIMEOUTS_AGE_LIMIT) || !d.early
  else if off = 0x200020 || off = 0x918 then !d.early || (off == 0x918 && getF v Fld.COB_BRINGUP_CFG_TRAIN_WINDOW == 0)
  else false

/-- What the healing, hang, Weir, counter and store registers refuse. -/
def Dev.devBad2 (d : Dev) (off : Nat) (v : Word) : Bool :=
  let crit := getF v Fld.WEIR_THERMAL_CRIT
  let thr := getF v Fld.WEIR_THERMAL_THROTTLE
  if off = 0x300008 then !inF v Fld.HEAL_POLICY_TRANSIENT_LIMIT 2 15 || getF v Fld.HEAL_POLICY_TRANSIENT_WINDOW == 0
  else if off = 0x400008 then !d.timeoutsOk v
  else if off = 0x400010 then getF v Fld.HANG_ESCALATE_WINDOW == 0
  else if off = 0x400028 then !inF v Fld.HANG_CAPTURE_CAPTURE_LIMIT 10 10000
  else if off = 0x100000 then
    !inF v Fld.WEIR_BUDGET_BUDGET 1000 4440 || !inF v Fld.WEIR_BUDGET_FAST_LIMIT (getF v Fld.WEIR_BUDGET_BUDGET + 50) 4800
  else if off = 0x100018 then
    !inF v Fld.WEIR_THERMAL_CRIT 100 120 || decide (thr < 80) || decide (crit < thr + 5) ||
      decide (getF v Fld.WEIR_THERMAL_HOT < 60) || decide (thr < getF v Fld.WEIR_THERMAL_HOT + 5)
  else if off = 0xE001008 || off = 0xE001010 then d.flag Fld.CNT_CTRL_ARM || d.flag Fld.CNT_CTRL_COUNTING
  else if off = 0x0C000010 then !inF v Fld.CKS_RETENTION_HORIZON 24 8760
  else if off = 0x0C000018 then !inF v Fld.CKS_RING_BASE_SIZE_LOG2 4 12 || d.flag Fld.CKS_RING_CTRL_ENABLE
  else if off = 0x0C000028 then !inF v Fld.CKS_CQ_BASE_SIZE_LOG2 4 16 || d.flag Fld.CKS_RING_CTRL_ENABLE
  else false

/-- The value stored where a register holds the nearer limit instead. -/
def devClamp (off : Nat) (v : Word) : Word :=
  if off = 0x300010 then clampF (clampF v Fld.HEAL_ROT_CFG_INTERVAL 1 65535) Fld.HEAL_ROT_CFG_PARALLEL 1 104
  else if off = 0x400000 then clampF v Fld.HANG_CORE_WD_CYCLES (2 ^ 20) (2 ^ 32 - 1)
  else v

/-- A write of a register of the device blocks. -/
def Dev.devRegWrite (d : Dev) (off : Nat) (row : RegRow) (v : Word) : Option Dev :=
  let old := d.reg off
  let new := row.store old (devClamp off v)
  if off = 0x800 then d.stepNextWrite v
  else if off = 0x838 then d.stepCmdWrite v
  else if off = 0x300028 then d.healCmdWrite v
  else if off = 0x300048 then d.mapWrite v
  else if off = 0x500 then if d.flag Fld.COB_STITCH_FORCE_ARM then none else some (d.setReg off new)
  else if off = 0x528 then
    if d.flag Fld.COB_RACE_REQ_ARM || decide (2 < getF v Fld.COB_RACE_REQ_REQ_SERVICE) then none else some (d.setReg off new)
  else if 0x710 ≤ off && off < 0x740 then if d.fordDirOk off old new then some (d.setReg off new) else none
  else if d.devBad1 off v || d.devBad2 off v then none
  else
    let d := d.setReg off new
    some (if off = 0x408 then { d with cob := { d.cob with level := true } } else d)

/-! ### The write itself -/

/-- A write to a register outside the core blocks, by its block. -/
def Dev.unitWrite (d : Dev) (off : Nat) (row : RegRow) (v : Word) : Option Dev :=
  match blockOf off with
  | (.clu r, o) => d.cluWrite r o off row v
  | (.race r, _) => d.raceWrite r off row v
  | (.mem k, o) => d.memWrite k o off row v
  | (.ford p, o) => d.fordWrite p o off row v
  | (.dev, o) => d.devRegWrite o row v
  | _ => none

/-- A write to the register at an offset: a W1C bit that hardware sets in this Race cycle stays set (R13), and a register with RO
fields alone ignores the value (R7). -/
def Dev.blkWrite (d : Dev) (off : Nat) (row : RegRow) (v : Word) : Option Dev :=
  let v := v &&& ~~~(d.justSet off &&& row.clears)
  match blockOf off with
  | (.core c, o) => d.coreWrite c o row v
  | _ => if row.readOnly then some d else d.unitWrite off row v

/-- Whose descriptors a ring runs: the agent's that wrote its control last (12 R383). -/
def Dev.ringBy (d : Dev) (a : Agent) (off : Nat) : Dev :=
  match blockOf off with
  | (.mem k, o) =>
    if 0x2000 ≤ o && o < 0x2100 && o % 16 = 8 then
      let r := (o - 0x2000) / 16; let m := d.memc k
      d.setMemc k { m with fwRings := if a = .firmware then m.fwRings ||| 2 ^ r else m.fwRings - (m.fwRings &&& 2 ^ r) }
    else d
  | _ => d

/-- A 64-bit write by an agent: its effect and `.accepted`, or `.refused` and no effect (R8, R10). -/
def drsWrite (a : Agent) (off size : Nat) (v : Word) (d : Dev) : Dev :=
  if !mayReach a off size then d.emit .refused
  else if off = 0x18 then deviceIdWrite v d
  else if off = 0x400020 then d.hangWrite v
  else if off = 0x400038 then cobKick a d
  else if off = 0x100020 then opReq v d
  else if off = 0xE001000 then cntCtrl v d
  else if isCntSel off then cntSel off v d
  else
    match rowAt off with
    | some row => match d.blkWrite off row v with
      | some d => (d.ringBy a off).emit .accepted
      | none => d.emit .refused
    | none => d.emit .refused

/-! ### The commands -/

/-- The offset of remap entry i of a store, of its flip masks' arming register. -/
def remapOff : Store → Nat → Nat
  | .mem k, i => memBase k + 0x1000 + 8 * i
  | .bank c _, i => coreBase c + 0x700 + 8 * i
def flipOff : Store → Nat
  | .mem k => memBase k + 0x50
  | .bank c _ => coreBase c + 0x680

/-- MEM_FILL_START (R268): a write of HBM_FILL. -/
def execMemFillStart (a : Agent) (k : Nat) (v : Word) (s : State) : Host.Outcome State Fault Refusal :=
  onUnit (decide (k < 20)) (drsWrite a (memBase k + 0x68) 8 v) s
/-- REMAP_WRITE (R265). -/
def execRemapWrite (a : Agent) (u : Store) (i : Nat) (v : Word) (s : State) : Host.Outcome State Fault Refusal :=
  onUnit (remapOk u i) (drsWrite a (remapOff u i) 8 v) s
/-- FLIP_MASK_ARM (R266): a write of HBM_FLIP_CTRL or CORE_SPAD_FLIP_ARM. -/
def execFlipMaskArm (a : Agent) (u : Store) (v : Word) (s : State) : Host.Outcome State Fault Refusal :=
  onUnit (storeOk u) (drsWrite a (flipOff u) 8 v) s
/-- FORD_PORT_ENABLE (R290): a write of FORD_CTRL. -/
def execFordPortEnable (a : Agent) (p : Nat) (v : Word) (s : State) : Host.Outcome State Fault Refusal :=
  onUnit (fordOk p) (drsWrite a (fordBase p) 8 v) s
/-- ACCEPT_PEER (R293): FORD_CTRL written with its own settings and ACCEPT_PEER. -/
def execAcceptPeer (a : Agent) (p : Nat) (s : State) : Host.Outcome State Fault Refusal :=
  onUnit (fordOk p) (fun d => drsWrite a (fordBase p) 8 (setF (d.reg (fordBase p)) Fld.FORD_CTRL_ACCEPT_PEER 1) d) s
/-- STEP_ARM (R315): a write of COB_STEP_NEXT. -/
def execStepArm (a : Agent) (v : Word) (s : State) : Host.Outcome State Fault Refusal := effect (drsWrite a 0x800 8 v) s
/-- COB_STEP_CMD with one bit more than it holds. -/
def stepCmd (a : Agent) (b : Nat) (d : Dev) : Dev := drsWrite a 0x838 8 (BitVec.ofNat 64 (4 * d.fld Fld.COB_STEP_CMD_EXPEL + b)) d
/-- COMMIT_SEALED (R323). -/
def execCommitSealed (a : Agent) (s : State) : Host.Outcome State Fault Refusal := effect (stepCmd a 1) s
/-- FAIL_SEALED (R323). -/
def execFailSealed (a : Agent) (s : State) : Host.Outcome State Fault Refusal := effect (stepCmd a 2) s
/-- EXPEL (R330). -/
def execExpel (a : Agent) (on : Bool) (s : State) : Host.Outcome State Fault Refusal :=
  effect (drsWrite a 0x838 8 (BitVec.ofNat 64 (4 * b2n on))) s
/-- HEAL_TEST (R343): a write of HEAL_CMD. -/
def execHealTest (a : Agent) (v : Word) (s : State) : Host.Outcome State Fault Refusal := effect (drsWrite a 0x300028 8 v) s
/-- HEAL_CMD written with its KIND and UNIT and one bit. -/
def healCmd (a : Agent) (f : Fld) (d : Dev) : Dev := drsWrite a 0x300028 8 (setF (bits (d.reg 0x300028) 39 0) f 1) d
/-- HEAL_SHIFT (R351). -/
def execHealShift (a : Agent) (s : State) : Host.Outcome State Fault Refusal := effect (healCmd a Fld.HEAL_CMD_SHIFT) s
/-- RETEST (R339). -/
def execRetest (a : Agent) (s : State) : Host.Outcome State Fault Refusal := effect (healCmd a Fld.HEAL_CMD_RETEST) s
/-- MAP_WRITE_SET_G (R364). -/
def execMapWriteSetG (a : Agent) (v : Word) (s : State) : Host.Outcome State Fault Refusal := effect (drsWrite a 0x300048 8 v) s
/-- MAP_WRITE_SET_V (R364). -/
def execMapWriteSetV (a : Agent) (v : Word) (s : State) : Host.Outcome State Fault Refusal := effect (drsWrite a 0x300048 8 v) s
/-- MAP_WRITE_FLIP (R364). -/
def execMapWriteFlip (a : Agent) (v : Word) (s : State) : Host.Outcome State Fault Refusal := effect (drsWrite a 0x300048 8 v) s
/-- ERR_LATCHED_CLEAR (R70): a write of CORE_ERR_STATUS. -/
def execErrLatchedClear (a : Agent) (c : Nat) (v : Word) (s : State) : Host.Outcome State Fault Refusal :=
  onUnit (decide (c < numCores)) (drsWrite a (coreBase c + 0x38) 8 v) s
/-- MEM_LATCHED_CLEAR (R271): a write of HBM_ECC_COUNT. -/
def execMemLatchedClear (a : Agent) (k : Nat) (v : Word) (s : State) : Host.Outcome State Fault Refusal :=
  onUnit (decide (k < 20)) (drsWrite a (memBase k + 8) 8 v) s
/-- CORE_BANK_GATE_WRITE (R64). -/
def execCoreBankGateWrite (a : Agent) (c : Nat) (v : Word) (s : State) : Host.Outcome State Fault Refusal :=
  onUnit (decide (c < numCores)) (drsWrite a (coreBase c + 0x20) 8 v) s
/-- STITCH_ROUTE_WRITE (R182): entry i of CORE_STITCH_ROUTE. -/
def execStitchRouteWrite (a : Agent) (c i : Nat) (v : Word) (s : State) : Host.Outcome State Fault Refusal :=
  onUnit (decide (c < numCores) && decide (i < 64)) (drsWrite a (coreBase c + 0x200 + 8 * i) 8 v) s
/-- FORCE_RECONFIG_ARM (R206): a write of COB_STITCH_FORCE. -/
def execForceReconfigArm (a : Agent) (v : Word) (s : State) : Host.Outcome State Fault Refusal := effect (drsWrite a 0x500 8 v) s
/-- RACE_REQ_ARM (R219): a write of COB_RACE_REQ. -/
def execRaceReqArm (a : Agent) (v : Word) (s : State) : Host.Outcome State Fault Refusal := effect (drsWrite a 0x528 8 v) s
/-- NUMERICS_LEVEL_REQ (R149): a write of COB_NUMERICS_LEVEL. -/
def execNumericsLevelReq (a : Agent) (v : Word) (s : State) : Host.Outcome State Fault Refusal := effect (drsWrite a 0x408 8 v) s
/-- WELT_RING_START (R258): a write of HBM_WELT_RINGr_CTRL. -/
def execWeltRingStart (a : Agent) (e r : Nat) (v : Word) (s : State) : Host.Outcome State Fault Refusal :=
  onUnit (decide (e < 20) && decide (r < 16)) (drsWrite a (memBase e + 0x2008 + 16 * r) 8 v) s
/-- REGISTER_WRITE (R7): any write of the DRS. -/
def execRegisterWrite (a : Agent) (off size : Nat) (v : Word) (s : State) : Host.Outcome State Fault Refusal :=
  effect (drsWrite a off size v) s

end Sys2Proof.Machine
end

