-- ==== Sys2Proof/Machine/Image.lean ====
section
/-!
DEFINITION. Images in memory: a placement image checked and loaded (14 R420–R422), a firmware image checked (14 R426). The manual gives
a placement image's header and directory; the layouts inside its sections are the model's (log 11).
-/
namespace Sys2Proof.Machine

/-! ### Firmware images (R426) -/

/-- The header fields of a firmware image and whether its digest and signature verify. -/
def fwOf (b : List Byte) : FwImage :=
  let n := ofBytes (slice b 20 4)
  let body := slice b 512 n
  { magicOk := slice b 0 4 == [0x54, 0x46, 0x57, 0x31] && ofBytes (slice b 6 2) == 1 && b.length == 512 + n && decide (n ≤ 2 ^ 25),
    arch := byteAt b 4, member := byteAt b 5, major := ofBytes (slice b 8 2), minor := ofBytes (slice b 10 2),
    build := ofBytes (slice b 12 2), rollback := ofBytes (slice b 14 2), advance := byteAt b 16 % 2 == 1,
    digestOk := sha256 body == slice b 24 32, signOk := rsaVerify Config.fwKey (sha256 (slice b 0 128)) (slice b 128 384),
    measure := sha256 b }

/-- The status of the check of R426: 0, or 05h `image_check`, 09h `signature`, 0Ah `rollback`. -/
def Dev.fwStatus (d : Dev) (x : FwImage) : Nat :=
  if !x.magicOk || x.arch != 1 || x.member != 9 || !x.digestOk || decide (128 < x.rollback) then 5
  else if !x.signOk then 9
  else if x.rollback < d.fld Fld.SEC_ROLLBACK_FUSED then 0xA else 0

/-! ### Placement images (R420) -/

/-- A directory entry. -/
structure Section where
  kind    : Nat
  region  : Nat
  variant : Nat
  lid     : Nat
  off     : Nat
  len     : Nat
deriving DecidableEq, Repr

def dirEntry (b : List Byte) : Section :=
  { kind := ofBytes (slice b 0 2), region := byteAt b 2, variant := byteAt b 3, lid := ofBytes (slice b 4 2), off := ofBytes (slice b 8 4),
    len := ofBytes (slice b 12 4) }
/-- The directory of an image. -/
def directory (img : List Byte) : List Section :=
  let n := ofBytes (slice img 8 4)
  (chunks 16 n (slice img 64 (16 * n))).map dirEntry

/-- An image header of another generation: ARCH other than 01h or MEMBER other than 09h (R1, R421). -/
def wrongGeneration (hd : List Byte) : Bool := byteAt hd 4 != 1 || byteAt hd 5 != 9

/-- The check of an image against a mask of regions: 0, or 04h `wrong_generation`, 05h `image_check` (R421). -/
def imageStatus (img : List Byte) (len mask : Nat) : Nat :=
  let total := ofBytes (slice img 16 8)
  let dir := directory img
  if wrongGeneration img then 4
  else if slice img 0 4 ≠ [0x54, 0x53, 0x50, 0x49] || ofBytes (slice img 6 2) ≠ 1 || decide (len < total) || img.length ≠ total ||
      decide (total < 64 + 16 * dir.length) || sha256 (img.drop 64) ≠ slice img 32 32 then 5
  else if dir.any fun x => decide (total < x.off + x.len) || (decide (x.kind ≤ 5) && decide (numLogical ≤ x.lid)) then 5
  else if mask &&& ofBytes (slice img 12 2) ≠ mask then 5 else 0

/-- What one section of a load comes to: loaded, a failed check with its DETAIL, or a wait for memory. -/
inductive Load1 where
  | ok (d : Dev) | fail (detail : Nat) (d : Dev) | wait

/-- The 8-byte words of a section. -/
def words8 (b : List Byte) : List Word := (chunks 8 b.length b).map fun x => (BitVec.ofNat 64 (ofBytes x) : Word)

/-- Registers of a core set one after another; a refused one fails the load. -/
def setCoreRegs (c lid : Nat) : List (Nat × Word) → Dev → Load1
  | [], d => .ok d
  | (o, v) :: rs, d =>
    match rowIn rowsCORE o with
    | none => .fail lid d
    | some row => match d.coreWrite c o row v with
      | none => .fail lid d
      | some d => setCoreRegs c lid rs d

/-- The words of an instruction section, as the ILOAD packets carry them. -/
def loadCore (c lid : Nat) (b : List Byte) (d : Dev) : Load1 :=
  let total := ofBytes (slice b 0 4)
  let crc := ofBytes (slice b 4 4)
  let d := (List.range ((total + 127) / 128)).foldl (fun d i =>
    if i ≠ 0 && d.coreState c ≠ .loading then d
    else d.loadWords c { ptype := .iload, addr := 128 * i + total * 2 ^ 16, aux := crc,
                         payload := slice b (8 + 1024 * i) (min 1024 (8 * total - 1024 * i)) }) d
  if d.coreState c == .loaded then .ok d else .fail lid d

/-- One entry of a gateway section: byte 0 says 0 barrier or 1 confluence, byte 1 its number (log 11). -/
def gatewayEntry (r : Nat) (b : List Byte) (d : Dev) : Option Dev :=
  let n := byteAt b 1
  if byteAt b 0 = 0 then
    let span := fun (i : Nat) => if byteAt b i = 1 then some (byteAt b (i + 1), byteAt b (i + 2)) else none
    some (d.setBar r n { valid := true, members := ofBytes (slice b 8 2), root := ofBytes (slice b 10 2), awaits := ofBytes (slice b 12 2),
                         colSpan := span 14, rowSpan := span 17 })
  else
    let w := fun (i : Nat) => (BitVec.ofNat 64 (ofBytes (slice b (8 + 8 * i) 8)) : Word)
    let put := fun (d : Dev) (o : Nat) (v : Word) => match rowIn rowsCLU o with
      | some row => d.setReg (cluBase r + o) (row.store (d.reg (cluBase r + o)) v)
      | none => d
    let d' := (List.range 3).foldl (fun d i => put d (0x9000 + 0x20 * n + 8 * i) (w i)) (put d (0xA000 + 8 * n) (w 3))
    if 64 ≤ n || d.confState r n = 1 || !d'.confOk r n || !d'.screenOk r n || bits (w 2) 31 0 = 0 || getF (w 3) Fld.CLU_CONF_RED_FACTOR = 0
    then none else some d'

/-- One ring of a ring section: engine, BASE, CTRL, a count and that many descriptors (log 11). -/
def ringEntries (region : Nat) : Nat → List Byte → Dev → Load1
  | 0, _, d => .ok d
  | fuel + 1, b, d =>
    if b.length < 32 then .ok d
    else
      let e := ofBytes (slice b 0 8)
      let n := ofBytes (slice b 24 8)
      let v := fun (i : Nat) => (BitVec.ofNat 64 (ofBytes (slice b i 8)) : Word)
      let o := 0x2000 + 16 * region
      let set := fun (d : Dev) (o : Nat) (v : Word) => (rowIn rowsMEM o).bind fun row => d.memWrite e o (memBase e + o) row v
      if 20 ≤ e then .fail 0 d
      else match d.devWrite { region, node := cobNode } (bits (v 8) 47 6 * 64) (slice b 32 (64 * n)) with
        | (.wait, _) => .wait
        | (.err _, d) => .fail 0 d
        | (.ok _, d) => match (set d o (v 8)).bind fun d => set d (o + 8) (v 16) with
          | none => .fail 0 d
          | some d => ringEntries region fuel (b.drop (32 + 64 * n)) d

/-- One section loaded (Table — Section kinds). Values of section 07h that their registers refuse (R151) end the load with `image_check`,
DETAIL 0 (DESIGN CHOICE, log 105). -/
def loadSection (img : List Byte) (x : Section) (d : Dev) : Load1 :=
  let b := slice img x.off x.len
  let ws := words8 b
  let nth := fun (base step : Nat) => (List.range ws.length).map fun i => (base + step * i, ws.getD i 0)
  let opt := fun (r : Option Dev) => match r with | some d => Load1.ok d | none => .fail 0 d
  match x.kind with
  | 7 => opt ((rowIn rowsDEV 0x480).bind fun row => d.devRegWrite (0x480 + 8 * (x.region % 16)) row (ws.getD 0 0))
  | 8 => ringEntries (x.region % 16) b.length b d
  | 9 => match d.devWrite { region := x.region, node := cobNode } (ofBytes (slice b 0 8)) (b.drop 8) with
    | (.ok _, d) => .ok d
    | (.err _, d) => .fail 0 d
    | (.wait, _) => .wait
  | 0xA => .ok { d with cob := { d.cob with tables := NMap.set [] d.cob.tables x.region (ws.map BitVec.toNat) } }
  | k => match d.hostOf x.lid with
    | none => .fail x.lid d
    | some c => match k with
      | 1 => loadCore c x.lid b d
      | 2 => setCoreRegs c x.lid [(0x10, ws.getD 0 0), (0x28, ws.getD 1 0), (0x20, ws.getD 2 0), (0x108, ws.getD 3 0)] d
      | 3 => setCoreRegs c x.lid (((List.range 64).map fun i => (0x200 + 8 * i, 0)) ++ nth 0x200 8) d
      | 4 => setCoreRegs c x.lid (((List.range 128).map fun i => (0xA00 + 8 * i, ws.getD i 0)) ++
          (List.range 64).map fun i => (0xE00 + 8 * i, ws.getD (128 + i) 0)) d
      | 5 => setCoreRegs c x.lid (((List.range 8).map fun i => (0x800 + 0x40 * i, coreReset 0x800)) ++
          (List.range ws.length).map fun i => (0x800 + 0x40 * (i / 2) + 8 * (i % 2), ws.getD i 0)) d
      | 6 => opt ((chunks 40 b.length b).foldl (fun r e => r.bind (gatewayEntry (routerOf c) e)) (some d))
      | _ => .fail 0 d

/-- The sections of a load, in directory order. -/
def loadSections (img : List Byte) : List Section → Dev → Load1
  | [], d => .ok d
  | x :: xs, d => match loadSection img x d with
    | .ok d => loadSections img xs d
    | r => r

/-- The variant a region is loaded in (R422). -/
def Dev.pickVariant (d : Dev) (img : List Byte) (dir : List Section) (variant r : Nat) : Nat :=
  let tables := (dir.filter fun x => x.kind == 0xA && x.region == r).flatMap fun x => (words8 (slice img x.off x.len)).map BitVec.toNat
  if variant ≤ 1 then variant else if tables.any fun a => d.unscaledCount a != 0 then 1 else 0

/-- The sections of a load: those of the named regions in the variant of each. -/
def Dev.selected (d : Dev) (img : List Byte) (mask variant : Nat) : List Section :=
  let dir := directory img
  dir.filter fun x => nbit mask x.region && (x.variant == 2 || x.variant == d.pickVariant img dir variant x.region)

/-- The first core of a load that may not be loaded: unhosted, LOADING, RUNNING, FAULTED, HUNG, UNDER_TEST or OFFLINE (R421). -/
def Dev.firstBusy (d : Dev) (lids : List Nat) : Option Nat :=
  lids.find? fun l => match d.hostOf l with
    | none => true
    | some c => !(d.coreState c == .empty || d.coreState c == .loaded || d.coreState c == .done)

/-- A checked image is loaded: 0 or a status, its DETAIL, the device; none while memory makes the load wait (R421). A load that fails is
abandoned: each core it left LOADING is reset, with IMEM_LOAD_CHECK latched (R36). -/
def Dev.loadImage (d : Dev) (img : List Byte) (mask variant : Nat) : Option (Nat × Nat × Dev) :=
  let secs := d.selected img mask variant
  let regions := (List.range 16).filter (nbit mask)
  let of_ := fun (r : Nat) => ((secs.filter fun x => x.kind == 1 && x.region == r).map Section.lid).eraseDups
  let cores := (d.placement mask ++ (secs.filter fun x => decide (x.kind ≤ 5)).map Section.lid).eraseDups
  match d.firstBusy cores with
  | some l => some (8, l, d)
  | none =>
    let dir := directory img
    let d := cores.foldl (fun d l => match d.hostOf l with
      | some c => if d.coreState c == .loaded then d.coreReset c else d
      | none => d) d
    let d := regions.foldl (fun (d : Dev) r =>
      { d with cob := { d.cob with placed := NMap.set [] d.cob.placed r (of_ r), tables := NMap.set [] d.cob.tables r [],
                                   variant := NMap.set 0 d.cob.variant r (d.pickVariant img dir variant r) } }) d
    match loadSections img secs d with
    | .ok d => some (0, 0, d)
    | .fail detail d =>
      let left := cores.filterMap fun l => (d.hostOf l).filter fun c => d.coreState c == .loading
      some (5, detail, left.foldl (fun d c => (d.coreReset c).coreErr c 8 0 0 0 0 0) d)
    | .wait => none

end Sys2Proof.Machine
end

