-- ==== Sys2Proof/Machine/Host.lean ====
section
/-!
DEFINITION. The host port (14 R407–R432): queue pairs and the commands and RDMA operations that wait on them, the command protocol, memory
windows, remote register access and Cobbler's registers behind Race packets, PTP, congestion, and what the block does while idle.
-/
namespace Sys2Proof.Machine

/-! ### The command protocol (R415, R416) -/

def Dev.upState (d : Dev) : Nat := d.fld Fld.COB_BRINGUP_STATE
/-- The mask-ROM loader runs: ROM without firmware (R369, R429). -/
def Dev.loader (d : Dev) : Bool := d.upState == 1 && !d.cob.fw
/-- READY or DEGRADED_READY. -/
def Dev.serving (d : Dev) : Bool := d.upState == 5 || d.upState == 6
/-- ROM with firmware running, onward. -/
def Dev.fwUp (d : Dev) : Bool := decide (1 ≤ d.upState) && !d.loader
/-- FILL_TEST onward. -/
def Dev.pastRom (d : Dev) : Bool := decide (2 ≤ d.upState)

/-- The header and body are as R415 asks: `bad` says what is wrong with the body. -/
def hdrOk (h : Hdr) (bad : Bool) : Bool := h.version == 1 && !h.rsvd && h.lenOk && !bad

/-- A command completes with a status. -/
def Dev.done (d : Dev) (h : Hdr) (op status : Nat) (detail : Nat := 0) (body : List Byte := []) : Dev :=
  d.respond h.qp h.seq op status detail body

/-- A command of the table: `bad_command` or `not_ready`, else its work, which answers none where it must wait. -/
def Dev.command (d : Dev) (h : Hdr) (op : Nat) (bad accepted : Bool) (f : Dev → Option Dev) : Option Dev :=
  if !hdrOk h bad then some (d.done h op 1) else if !accepted then some (d.done h op 3) else f d

/-! ### Register access (R417) -/

/-- The runtime reaches a register; the loader only the COB_ and SEC_ blocks. -/
def Dev.hostReach (d : Dev) (off : Nat) : Bool :=
  mayReach .runtime off 8 && (!d.loader || decide (off < 0x100000) || (decide (0x0D000000 ≤ off) && decide (off < 0x0D100000)))

/-- The 64-byte bitmap of refused entries. -/
def bitmap (refused : List Nat) : List Byte := leBytes 64 (refused.foldl (fun a i => a ||| 2 ^ i) 0)
/-- The response body of REG_READ. -/
def readBody (vals : List Word) (refused : List Nat) : List Byte := vals.flatMap (fun v => leBytes 8 v.toNat) ++ bitmap refused

/-- The entries of a local REG_READ: values and refused entries. -/
def Dev.regReads (d : Dev) (offs : List Nat) : List Word × List Nat :=
  (offs.map fun o => if d.hostReach o then d.read o else 0,
   (List.range offs.length).filter fun i => !d.hostReach (offs.getD i 1))

/-- The entries of a local REG_WRITE from entry i on: the first refused one, and the device. -/
def regWrites : Nat → List (Nat × Word) → Dev → Option Nat × Dev
  | _, [], d => (none, d)
  | i, (o, v) :: es, d =>
    let r := drsWrite .runtime o 8 v { d with out := [] }
    if !d.hostReach o || r.out.contains .refused then (some i, d)
    else regWrites (i + 1) es { r with out := d.out ++ r.out.filter (· ≠ .accepted) }

/-- The DRS in the device physical address space (R29). -/
def drsBase : Nat := 0x7F0000000000

/-- Cobbler sends the entry that is next of a remote command, or completes it (R417). -/
def Dev.remoteSend (d : Dev) (x : RemOp) : Dev :=
  match x.todo with
  | [] => d.respond x.qp x.seq x.op 0 0 (if x.op = 0x10 then readBody x.vals x.refused else [])
  | (o, v) :: _ =>
    let (t, d) := d.newTxn
    let d := { d with host := { d.host with remote := d.host.remote ++ [{ x with txn := t, since := d.t }] } }
    d.inject cobNode { ptype := if x.op = 0x10 then .read else .write, dst := cobNode, dstDev := x.target, txn := t,
                       addr := drsBase + o, aux := 8, payload := if x.op = 0x10 then [] else leBytes 8 v.toNat }

/-- A remote command runs: its queue pair is busy until it completes. -/
def Dev.remoteStart (d : Dev) (h : Hdr) (op : Nat) (es : List (Nat × Word)) : Dev :=
  let d := match d.qp h.qp with | some x => d.setQp h.qp { x with busy := true } | none => d
  d.remoteSend { qp := h.qp, seq := h.seq, op, target := h.target, todo := es }

/-- An answer to an entry: data or an acknowledgement, the target's refusal (83h), or an answer of the path (0Fh `remote`). -/
def Dev.remoteAnswer (d : Dev) (p : Packet) (ok : Bool) : Dev :=
  match d.host.remote.find? fun x => x.txn == p.txn with
  | none => d
  | some x =>
    let d := { d with host := { d.host with remote := d.host.remote.filter fun y => y.txn ≠ p.txn } }
    let next := fun (v : Word) (refused : List Nat) =>
      d.remoteSend { x with todo := x.todo.drop 1, vals := x.vals ++ [v], refused, index := x.index + 1 }
    if ok then next (BitVec.ofNat 64 (ofBytes p.payload)) x.refused
    else if p.reason ≠ 0x83 then d.respond x.qp x.seq x.op 0xF 0 []
    else if x.op = 0x10 then next 0 (x.refused ++ [x.index])
    else d.respond x.qp x.seq x.op 2 x.index []

/-- Remote commands without an answer for `Config.remoteWait` ns end (R415, status 0Fh). -/
def Dev.remoteLapse (d : Dev) : Dev :=
  let late := d.host.remote.filter fun x => decide (x.since + Config.remoteWait ≤ d.t)
  late.foldl (fun d x => d.respond x.qp x.seq x.op 0xF 0 [])
    { d with host := { d.host with remote := d.host.remote.filter fun x => decide (d.t < x.since + Config.remoteWait) } }

/-- REG_READ. -/
def cmdRead (h : Hdr) (offs : List Nat) (d : Dev) : Option Dev :=
  d.command h 0x10 (decide (512 < offs.length)) true fun d =>
    if h.remote && h.target != d.devId then some (d.remoteStart h 0x10 (offs.map fun o => (o, 0)))
    else let r := d.regReads offs; some (d.done h 0x10 0 0 (readBody r.1 r.2))

/-- REG_WRITE. -/
def cmdWrite (h : Hdr) (es : List (Nat × Word)) (d : Dev) : Option Dev :=
  d.command h 0x11 (decide (512 < es.length)) (decide (1 ≤ d.upState)) fun d =>
    if h.remote && h.target != d.devId then some (d.remoteStart h 0x11 es)
    else match regWrites 0 es d with
      | (none, d) => some (d.done h 0x11 0)
      | (some i, d) => some (d.done h 0x11 2 i)

/-! ### Windows and RDMA (R413, R414) -/

/-- The populated range of R29 an address lies in, the scratchpad windows as one. -/
def hostRange (a : Nat) : Option Nat :=
  if 0x400000000000 ≤ a && a < 0x400000000000 + numLogical * 2 ^ 19 then some 18 else rangeId a

/-- WINDOW_OPEN. -/
def cmdWindowOpen (h : Hdr) (base len access : Nat) (d : Dev) : Option Dev :=
  d.command h 0x20 (access == 0 || decide (3 < access)) d.pastRom fun d =>
    let fits := (hostRange base).isSome && hostRange base == hostRange (base + len - 1)
    if len = 0 || !fits || decide (64 ≤ d.host.windows.length) then some (d.done h 0x20 0xC)
    else
      let k := d.host.nextKey
      let w : Window := { rkey := k, base, len, access, qp := h.qp }
      some (({ d with host := { d.host with windows := d.host.windows ++ [w], nextKey := (k + 1) % 2 ^ 32 } } : Dev).done h 0x20 0 0 (leBytes 4 k))

/-- An RDMA operation. -/
def isRdma : HostOp → Bool
  | .write _ _ _ _ => true
  | .read _ _ _ _ => true
  | _ => false
/-- The rkey an RDMA operation names. -/
def rkeyOf : HostOp → Option Nat
  | .write _ k _ _ => some k
  | .read _ k _ _ => some k
  | _ => none

/-- WINDOW_CLOSE: once no RDMA operation on the window waits. -/
def cmdWindowClose (h : Hdr) (rkey : Nat) (d : Dev) : Option Dev :=
  d.command h 0x21 false d.pastRom fun d =>
    if d.host.windows.all fun w => w.rkey != rkey then some (d.done h 0x21 0xC)
    else if d.host.qps.any fun e => e.2.any fun x => x.cmds.any fun i => rkeyOf i == some rkey then none
    else some (({ d with host := { d.host with windows := d.host.windows.filter fun w => w.rkey != rkey } } : Dev).done h 0x21 0)

/-- A remote access error: the queue pair enters the error state, and the reason is logged (R414, log 12). -/
def Dev.rdmaError (d : Dev) (qp reason : Nat) : Dev :=
  let d := match d.qp qp with | some x => d.setQp qp { x with err := true, busy := false, cmds := [] } | none => d
  (d.event { code := 0, kind := 0x20, detail := leBytes 2 reason }).emit (.rdma qp 1 [])

/-- An access of n bytes through a window with a right (0 read, 1 write). -/
def Dev.windowOk (d : Dev) (rkey a n right : Nat) : Bool :=
  d.host.windows.any fun w => w.rkey == rkey && nbit w.access right && decide (w.base ≤ a) && decide (a + n ≤ w.base + w.len)

/-- The requests of the host port's slot, and whether scratchpads wait for the map (R414). -/
def hostReq : Req := { core := 0x3FFF, node := hostNode }
def Dev.mapUnbuilt (d : Dev) (a : Nat) : Bool := decide (d.upState ≤ 2) && decide (0x400000000000 ≤ a)

/-- Bytes written in pieces of 1 KiB, one Race WRITE each (log 21). -/
def hostWrites : Nat → Nat → List Byte → Dev → Res Unit × Dev
  | 0, _, _, d => (.ok (), d)
  | fuel + 1, a, bs, d =>
    if bs.isEmpty then (.ok (), d)
    else match d.devWrite hostReq a (bs.take 1024) with
      | (.ok _, d) => hostWrites fuel (a + 1024) (bs.drop 1024) d
      | r => r
/-- Bytes read in pieces of 1 KiB, one Race READ each. -/
def hostReads : Nat → Nat → Nat → List Byte → Dev → Res (List Byte) × Dev
  | 0, _, _, acc, d => (.ok acc, d)
  | fuel + 1, a, n, acc, d =>
    if n = 0 then (.ok acc, d)
    else match d.devRead hostReq a (min n 1024) with
      | (.ok bs, d) => hostReads fuel (a + 1024) (n - 1024) (acc ++ bs) d
      | r => r

/-- RDMA WRITE: none while it must wait. -/
def rdmaWriteOp (qp rkey a : Nat) (data : List Byte) (d : Dev) : Option Dev :=
  if !d.windowOk rkey a data.length 1 then some (d.rdmaError qp 0)
  else if d.mapUnbuilt a then none
  else match hostWrites (data.length / 1024 + 1) a data d with
    | (.ok _, d) => some (d.emit (.rdma qp 0 []))
    | (.err r, d) => some (d.rdmaError qp r)
    | (.wait, _) => none
/-- RDMA READ: none while it must wait. -/
def rdmaReadOp (qp rkey a n : Nat) (d : Dev) : Option Dev :=
  if !d.windowOk rkey a n 0 then some (d.rdmaError qp 0)
  else if d.mapUnbuilt a then none
  else match hostReads (n / 1024 + 1) a n [] d with
    | (.ok bs, d) => some (d.emit (.rdma qp 0 bs))
    | (.err r, d) => some (d.rdmaError qp r)
    | (.wait, _) => none

/-! ### Images, starts, aborts (R421–R424, R428, R429) -/

/-- n bytes of device memory as Cobbler reads them. -/
def Dev.cobRead (d : Dev) (a n : Nat) : Res (List Byte) × Dev := d.devRead { core := 0x3FFF, node := cobNode } a n

/-- A command of some kind runs on another queue pair: the one at its front, which memory makes wait (R421, R428). -/
def Dev.runsElsewhere (d : Dev) (q : Nat) (kind : HostOp → Bool) : Bool :=
  d.host.qps.any fun e => e.1 != q && e.2.any fun x => !x.busy && (x.cmds.head?.any kind)
def isImageLoad : HostOp → Bool
  | .imageLoad _ _ _ _ _ => true
  | _ => false
def isFwUpdate : HostOp → Bool
  | .fwUpdate _ _ _ _ => true
  | _ => false

/-- IMAGE_LOAD. -/
def cmdImageLoad (h : Hdr) (addr len regions variant : Nat) (d : Dev) : Option Dev :=
  d.command h 0x30 (decide (2 < variant) || decide (2 ^ 16 ≤ regions)) d.serving fun d =>
    if d.runsElsewhere h.qp isImageLoad then some (d.done h 0x30 8)
    else match d.cobRead addr (min len 64) with
    | (.wait, _) => none
    | (.err _, d) => some (d.done h 0x30 5)
    | (.ok hd, d) =>
      if wrongGeneration hd then some (d.done h 0x30 4)
      else match d.cobRead addr (min len (max (hd.length) (ofBytes (slice hd 16 8)))) with
      | (.wait, _) => none
      | (.err _, d) => some (d.done h 0x30 5)
      | (.ok img, d) =>
        let st := imageStatus img len regions
        if st ≠ 0 then some (d.done h 0x30 st)
        else (d.loadImage img regions variant).map fun r => r.2.2.done h 0x30 r.1 r.2.1

/-- START: held until its tick (R423). -/
def cmdStart (h : Hdr) (regions tick : Nat) (d : Dev) : Option Dev :=
  d.command h 0x31 (decide (2 ^ 16 ≤ regions)) d.serving fun d =>
    if tick < d.t + 100000 then some (d.done h 0x31 0xD)
    else if d.cob.start.isSome then some (d.done h 0x31 8)
    else
      let d := match d.qp h.qp with | some x => d.setQp h.qp { x with busy := true } | none => d
      some { d with cob := { d.cob with start := some (tick, regions, h.qp, h.seq) } }

/-- The placement's cores of the named regions return to LOADED. -/
def Dev.abortCores (d : Dev) (regions : Nat) : Dev :=
  (d.placement regions).foldl (fun d l => match d.hostOf l with | some c => d.toLoaded c | none => d) d

/-- ABORT: a pending START of a shared region whose tick lies ahead is cancelled; otherwise the cores return to LOADED (R36, R424). -/
def cmdAbort (h : Hdr) (regions : Nat) (d : Dev) : Option Dev :=
  d.command h 0x32 (decide (2 ^ 16 ≤ regions)) d.serving fun d =>
    let d := startTick d
    match d.cob.start with
    | some (_, mask, qp, seq) =>
      if mask &&& regions ≠ 0 then
        some ((({ d with cob := { d.cob with start := none } } : Dev).respond qp seq 0x31 0xE 0 []).done h 0x32 0)
      else some ((d.abortCores regions).done h 0x32 0)
    | none => some ((d.abortCores regions).done h 0x32 0)
/-- FW_UPDATE: checked, then written in place and read back; a store that takes no writes leaves the image it holds, and a write that
fails (`written` false) leaves an invalid one (R428). -/
def cmdFwUpdate (h : Hdr) (addr len : Nat) (written : Bool) (d : Dev) : Option Dev :=
  d.command h 0x50 false d.fwUp fun d =>
    if d.runsElsewhere h.qp isFwUpdate then some (d.done h 0x50 8)
    else match d.cobRead addr len with
    | (.wait, _) => none
    | (.err _, d) => some (d.done h 0x50 5)
    | (.ok img, d) =>
      let st := d.fwStatus (fwOf img)
      if st ≠ 0 then some (d.done h 0x50 st)
      else if !d.cksReady then some (d.done h 0x50 0xB)
      else if !written then some (({ d with cks := { d.cks with fwBad := true } } : Dev).done h 0x50 0xB)
      else some (({ d with cks := { d.cks with fw := img, fwBad := false } } : Dev).done h 0x50 0)

/-- ROM_LOAD: chunks in ascending offset; the last one is checked, stored and started (R429). -/
def cmdRomLoad (h : Hdr) (off : Nat) (last : Bool) (chunk : List Byte) (d : Dev) : Option Dev :=
  d.command h 0x80 (decide (60 * 1024 < chunk.length) || (d.loader && off != d.host.romBuf.length)) d.loader fun d =>
    let buf := d.host.romBuf ++ chunk
    if !last then some (({ d with host := { d.host with romBuf := buf } } : Dev).done h 0x80 0)
    else
      let d := { d with host := { d.host with romBuf := [] } }
      let img := fwOf buf
      let st := d.fwStatus img
      if st ≠ 0 then some (d.done h 0x80 (if st = 0xA then 0xA else 9))
      else some ((({ d with cks := { d.cks with fw := buf, fwBad := false } } : Dev).startFirmware img).done h 0x80 0)

/-! ### Topology, routing, identity, events (R418, R419, R430, R431) -/

/-- TOPOLOGY replaces the held descriptor; one received in SAFE is kept across a warm reset. -/
def cmdTopology (h : Hdr) (x : List Byte) (d : Dev) : Option Dev :=
  let st := d.upState
  d.command h 0x40 (x.length != 1344) ((decide (1 ≤ st) && decide (st ≤ 4) && d.cob.readyAt.isNone) || st == 7) fun d =>
    some (({ d with cob := { d.cob with desc := some x, keepDesc := st == 7 } } : Dev).done h 0x40 0)

/-- ROUTING: firmware's request through COB_RACE_REQ, in the service mode in force. -/
def cmdRouting (h : Hdr) (mode epoch : Nat) (d : Dev) : Option Dev :=
  d.command h 0x41 (decide (1 < mode)) d.serving fun d =>
    if d.flag Fld.COB_RACE_REQ_ARM then some (d.done h 0x41 8)
    else
      let v := setF (setF 0 Fld.COB_RACE_REQ_REQ_EPOCH epoch) Fld.COB_RACE_REQ_REQ_SERVICE (d.fld Fld.COB_RACE_STATUS_SERVICE)
      some ((d.setReg 0x528 (setF (setF v Fld.COB_RACE_REQ_REQ_ROUTING mode) Fld.COB_RACE_REQ_ARM 1)).done h 0x41 0)

/-- The registers of the configuration measurement, in order. -/
def measured : List Nat := [0x18, 0x700, 0x600, 0x918, 0x200018, 0x200020, 0x200008, 0x408, 0x300008, 0x400010]

/-- Bytes 0–191 of the quote (Table — Attestation quote). -/
def Dev.quote (d : Dev) (nonce : List Byte) : List Byte :=
  leBytes 2 1 ++ leBytes 2 d.devId ++ leBytes 4 0 ++ leBytes 8 Config.serial.toNat ++ leBytes 8 d.t ++ nonce ++
  sha256 (if d.cks.fw.isEmpty then Config.firmware else d.cks.fw) ++ sha256 (fuses.flatMap Defect.bytes32) ++
  (match d.heal.ledger with | some l => l.digest | none => List.replicate 32 0) ++
  sha256 (d.words measured ++ d.cob.desc.getD (List.replicate 1344 0)) ++
  leBytes 2 (d.fld Fld.SEC_ROLLBACK_FUSED) ++ leBytes 1 d.upState ++ leBytes 5 0

/-- ATTEST. -/
def cmdAttest (h : Hdr) (nonce : List Byte) (d : Dev) : Option Dev :=
  d.command h 0x61 (nonce.length != 32) d.fwUp fun d =>
    some (d.done h 0x61 0 0 (d.quote nonce ++ Config.sign (sha256 (d.quote nonce))))

/-- The certificate chain: device, module CA and root, each after its 4-byte length (R430). -/
def certChain : List Byte := (List.range 3).flatMap fun i => leBytes 4 (Config.cert i).length ++ Config.cert i

/-- EVENTS: enable 0 on the event queue pair leaves none (log 13). -/
def cmdEvents (h : Hdr) (enable : Nat) (d : Dev) : Option Dev :=
  d.command h 0x70 (decide (1 < enable)) d.fwUp fun d =>
    let evQp := if enable = 1 then some h.qp else if d.host.evQp = some h.qp then none else d.host.evQp
    some (({ d with host := { d.host with evQp } } : Dev).done h 0x70 0)

/-- EVENT_RECORD_SEND: up to 64 records on the event queue pair; without one that is up they count as not sent (log 13). -/
def eventSend (d : Dev) : Dev :=
  let due := d.cob.log.drop d.cob.sent
  match d.host.evQp.bind fun q => (d.qp q).map fun _ => q with
  | some q =>
    if due.isEmpty then d
    else ({ d with cob := { d.cob with sent := d.cob.sent + min 64 due.length } } : Dev).emit (.events q (due.take 64))
  | none => ({ d with cob := { d.cob with sent := d.cob.log.length } } : Dev).addFld Fld.HOST_CMD_STATS_EVENTS_UNSENT due.length

/-! ### What waits on a queue pair (R410, R411) -/

/-- A host command or RDMA operation runs: none where it must wait. -/
def runHost (i : HostOp) (d : Dev) : Option Dev :=
  match i with
  | .nop h => d.command h 0x01 false true fun d => some (d.done h 0x01 0)
  | .regRead h offs => cmdRead h offs d
  | .regWrite h es => cmdWrite h es d
  | .windowOpen h b n a => cmdWindowOpen h b n a d
  | .windowClose h k => cmdWindowClose h k d
  | .imageLoad h a n r v => cmdImageLoad h a n r v d
  | .start h r t => cmdStart h r t d
  | .abort h r => cmdAbort h r d
  | .topology h x => cmdTopology h x d
  | .routing h m e => cmdRouting h m e d
  | .fwUpdate h a n w => cmdFwUpdate h a n w d
  | .identity h => d.command h 0x60 false true fun d => some (d.done h 0x60 0 0 certChain)
  | .attest h n => cmdAttest h n d
  | .events h e => cmdEvents h e d
  | .romLoad h o l c => cmdRomLoad h o l c d
  | .write q k a bs => rdmaWriteOp q k a bs d
  | .read q k a n => rdmaReadOp q k a n d

/-- The next thing of a queue pair that can go on does: its first RDMA operation, or the command at its front while none runs. -/
def Dev.pumpQp (d : Dev) (q : Nat) : Option Dev :=
  match d.qp q with
  | none => none
  | some x =>
    let go := fun (i : HostOp) => runHost i (d.setQp q { x with cmds := x.cmds.erase i })
    match (x.cmds.find? isRdma).bind go with
    | some d => some d
    | none => match x.cmds with
      | [] => none
      | i :: _ => if isRdma i || x.busy then none else go i
/-- A queue pair goes on until nothing of it can. -/
def pumpAll : Nat → Nat → Dev → Dev
  | 0, _, d => d
  | fuel + 1, q, d => match d.pumpQp q with
    | some d => pumpAll fuel q d
    | none => d
/-- Every queue pair goes on. -/
def Dev.hostPump (d : Dev) : Dev := d.host.qps.foldl (fun d e => pumpAll ((e.2.map fun x => x.cmds.length).getD 0) e.1 d) d

/-- What counts with an operation against a queue pair's limit, and that limit: 64 commands, 256 READs; WRITEs have none (R410). -/
def countsWith (i j : HostOp) : Bool :=
  match i, j with
  | .write _ _ _ _, _ => false
  | .read _ _ _ _, .read _ _ _ _ => true
  | .read _ _ _ _, _ => false
  | _, j => !isRdma j
def opLimit : HostOp → Nat
  | .write _ _ _ _ => 1
  | .read _ _ _ _ => 256
  | _ => 64

/-- A command or RDMA operation comes on a queue pair: it runs, or waits for what came before it; at most 64 commands and 256 RDMA
READs wait, and a queue pair that is not connected or in error takes nothing. -/
def submit (q : Nat) (i : HostOp) (d : Dev) : Dev :=
  match d.qp q with
  | none => d
  | some x =>
    let mine := x.cmds.filter fun j => isRdma j == isRdma i
    let first := if isRdma i then mine.isEmpty else x.cmds.isEmpty && !x.busy
    match if first then runHost i d else none with
    | some d => d
    | none => if opLimit i ≤ (x.cmds.filter (countsWith i)).length then d else d.setQp q { x with cmds := x.cmds ++ [i] }

/-! ### Cobbler's node on the Race (R286, R417) -/

/-- A READ of a register from a peer's Cobbler, under the runtime's rights; a refusal is answered 83h (log 15). -/
def drsReadPacket (p : Packet) (d : Dev) : Dev :=
  d.byEpoch cobNode p fun d =>
    let d := d.take cobNode p
    let o := p.addr - drsBase
    if p.src = cobNode && drsBase ≤ p.addr && mayReach .runtime o p.aux then
      d.answer cobNode p .readData 0 (leBytes 8 (d.read o).toNat)
    else d.error cobNode p 0x83
/-- A WRITE of a register from a peer's Cobbler. -/
def drsWritePacket (p : Packet) (d : Dev) : Dev :=
  d.byEpoch cobNode p fun d =>
    let d := d.take cobNode p
    let o := p.addr - drsBase
    let r := drsWrite .runtime o p.payload.length (BitVec.ofNat 64 (ofBytes p.payload)) { d with out := [] }
    if p.src = cobNode && drsBase ≤ p.addr && !r.out.contains .refused then
      ({ r with out := d.out ++ r.out.filter (· ≠ .accepted) } : Dev).answer cobNode p .writeAck 0 []
    else d.error cobNode p 0x83
/-- An answer to a remote register command of this device. -/
def cobAnswer (ok : Bool) (p : Packet) (d : Dev) : Dev :=
  d.byEpoch cobNode p fun d => ((d.take cobNode p).remoteAnswer p ok).hostPump

/-! ### Links, queue pairs, congestion (R407, R409, R410, R412) -/

/-- The link goes down: queue pairs in error, windows closed, commands end without a response; PTP is lost (R409, R425). -/
def linkDown (d : Dev) : Dev :=
  if d.fld Fld.HOST_LINK_STATUS_STATE ≠ 2 then d
  else
    let d := d.addFld Fld.HOST_LINK_STATUS_DOWN_COUNT 1
    let d := (d.setFld Fld.HOST_LINK_STATUS_STATE 0).setFld Fld.HOST_LINK_STATUS_WIDTH 0
    let d := (d.addFld Fld.HOST_CMD_STATS_COMMANDS d.host.remote.length).tally 0x380 0x20 0 0 d.host.remote.length
    let qps := d.host.qps.map fun e => (e.1, e.2.map fun x => { x with err := true, busy := false, cmds := [] })
    let d : Dev := { d with host := { d.host with qps, windows := [], remote := [] } }
    if d.fld Fld.FT_SOURCE_SOURCE = 0x1E then d.holdover else d

/-- Training: all eight lanes, else lanes 0–3, else lanes 4–7, else down for 1 s (R407); `lanes` has a bit for each lane that trains. -/
def linkTrain (lanes : Nat) (d : Dev) : Dev :=
  if d.fld Fld.HOST_LINK_STATUS_STATE = 2 || decide (d.t < d.host.retryAt) then d
  else
    let up := fun (w g : Nat) =>
      ((d.setFld Fld.HOST_LINK_STATUS_STATE 2).setFld Fld.HOST_LINK_STATUS_WIDTH w).setFld Fld.HOST_LINK_STATUS_LANE_GROUP g
    if lanes % 256 = 255 then up 8 0
    else if lanes % 16 = 15 then up 4 0
    else if lanes / 16 % 16 = 15 then up 4 1
    else
      let d := (d.setFld Fld.HOST_LINK_STATUS_STATE 0).setFld Fld.HOST_LINK_STATUS_WIDTH 0
      { d with host := { d.host with retryAt := d.t + 10 ^ 9 } }

/-- The bytes a waiting command or RDMA operation holds in the receive buffer (R412, log 112). -/
def rxBytes : HostOp → Nat
  | .write _ _ _ bs => bs.length
  | .regRead _ offs => 32 + 8 * offs.length
  | .regWrite _ es => 32 + 16 * es.length
  | .topology _ x => 32 + x.length
  | .attest _ n => 32 + n.length
  | .romLoad _ _ _ c => 37 + c.length
  | _ => 64
/-- What the 16 MiB receive buffer holds: the commands and RDMA operations that wait. -/
def Dev.rxFill (d : Dev) : Nat :=
  (d.host.qps.map fun e => ((e.2.map QP.cmds).getD []).foldl (fun a i => a + rxBytes i) 0).foldl (· + ·) 0
/-- A priority pause goes out above 75 % of the buffer and is lifted below 50 % (R412). -/
def Dev.pauseCheck (d : Dev) : Dev :=
  if !d.host.paused && decide (12 * 2 ^ 20 < d.rxFill) then ({ d with host := { d.host with paused := true } } : Dev).emit (.pause true)
  else if d.host.paused && decide (d.rxFill < 8 * 2 ^ 20) then ({ d with host := { d.host with paused := false } } : Dev).emit (.pause false)
  else d

/-- A connection request: one of at most 1,024 queue pairs, or a reject. -/
def connect (q : Nat) (d : Dev) : Dev :=
  if d.fld Fld.HOST_LINK_STATUS_STATE ≠ 2 || (d.qp q).isSome then d
  else if 1024 ≤ (d.host.qps.filter fun e => e.2.any fun x => !x.err).length then d.emit .refused
  else (d.setQp q { last := d.t }).emit .accepted

/-- A packet marked congestion experienced: one notification per queue pair per 50 µs. -/
def ecnMarked (q : Nat) (d : Dev) : Dev :=
  match d.qp q with
  | none => d
  | some x =>
    if x.cnpAt.any fun t => decide (d.t < t + 50000) then d else (d.setQp q { x with cnpAt := some d.t }).emit (.cnp q)
/-- A notification halves the rate. -/
def cnpIn (q : Nat) (d : Dev) : Dev :=
  match d.qp q with
  | none => d
  | some x => d.setQp q { x with rate := x.rate / 2, last := d.t }
/-- 55 µs without a notification: 5 % of the line rate more. -/
def rateUp (q : Nat) (d : Dev) : Dev :=
  match d.qp q with
  | none => d
  | some x =>
    if d.t < x.last + 55000 then d else d.setQp q { x with rate := min (10 ^ 9) (x.rate + 5 * 10 ^ 7), last := x.last + 55000 }

/-! ### PTP (R425) -/

/-- An offset from the PTP master: ERR_BOUND is the mean magnitude of the last 16 plus ASYM_NS. -/
def ptpOffset (offset : Int) (d : Dev) : Dev :=
  if d.fld Fld.FT_SOURCE_SOURCE ≠ 0x1E || d.fld Fld.HOST_LINK_STATUS_STATE ≠ 2 then d
  else
    let xs := (offset :: d.host.ptp).take 16
    let mean := (xs.map Int.natAbs).foldl (· + ·) 0 / xs.length
    let d := { d with host := { d.host with ptp := xs } }.offsetFrom offset (mean + d.fld Fld.HOST_PTP_CFG_ASYM_NS)
    { d with host := { d.host with syncAt := d.t } }
/-- No Sync for 3 s. -/
def ptpLost (d : Dev) : Dev :=
  if d.fld Fld.FT_SOURCE_SOURCE = 0x1E && decide (d.host.syncAt + 3 * 10 ^ 9 ≤ d.t) then d.holdover else d

/-- Some event counter is enabled. -/
def Dev.counterOn (d : Dev) : Bool := d.regs.any fun e => isCntSel e.1 && bit e.2 63
/-- The core cycle whose number is `n` goes to the counters of core c: its busy units, and the hold of a unit at throttle level L, which
is taken as the first L cycles of every 16 (R434, R444, log 25). -/
def Dev.coreCycle (n : Nat) (d : Dev) (e : Nat × Core) : Dev :=
  let r := routerOf e.1
  let d := if e.2.log.mu = [] then d else d.tally 0x002 1 e.1 r 1
  let d := if e.2.log.vu = [] then d else d.tally 0x003 1 e.1 r 1
  if (e.2.log.mu ≠ [] ∨ e.2.log.vu ≠ []) ∧ n % 16 < d.grant Fld.WEIR_GRANT_THROTTLE r then d.tally 0x008 1 e.1 r 1 else d
/-- The core cycles that end in a tick go to the counters of cycles (R444): one that elapses counts once in each counter. -/
def Dev.countCycles (d e : Dev) : Dev :=
  if e.counterOn && e.counts then
    let at_ := fun (t : Nat) => t * e.coreMHz / 1000
    (List.range' (at_ d.t) (at_ e.t - at_ d.t)).foldl (fun e n =>
      let e := (List.range numRouters).foldl (fun e r => e.tallyAt (cluBase r + 0xB000) 8 1 fun s => bits s 9 0 == 0) e
      e.cores.foldl (fun d x => d.coreCycle n x) (e.tallyAt 0x0E000000 64 1 fun s => bits s 57 48 == 0)) e
  else e
/-- The confluence entries that are OPEN. -/
def Dev.openConfs (d : Dev) : List (Nat × Nat) :=
  d.regs.filterMap fun e => match blockOf e.1 with
    | (.clu r, o) =>
      if decide (0x9000 ≤ o) && decide (o < 0x9800) && o % 0x20 == 0 && getF e.2 Fld.CLU_CONF_CFG_STATE == 1 then
        some (r, (o - 0x9000) / 0x20) else none
    | _ => none
/-- The scheduled boundaries that fall due take effect before every event of the same time, in the order of R474: the epoch tick, the
step's start tick, the confluence, seal and verdict deadlines, the edge of a counter window; then a START's tick, the
ports a failing seal has left by (R330), direction tables to rebuild (R287), and a scrub lap that passes its limit (R270). -/
def Dev.boundaries (d : Dev) : Dev :=
  let d := stepStart (epochTick d.rootCommit)
  let d := d.openConfs.foldl (fun d x => confDeadline x.1 x.2 d) d
  let d := startTick (windowOpens (counterFreeze (stepUndecided (sealDeadline d))))
  (List.range 20).foldl (fun d k => d.scrubLate k) d.expelPorts.rebuildDirs
/-- What an empty queue of commands leaves: a nanosecond passes, the boundaries it reaches take effect, and the host port goes on with
what it holds (log 1). -/
def Dev.idle (d : Dev) : Dev := (d.countCycles d.tick).boundaries.remoteLapse.hostPump.pauseCheck

/-! ### The commands -/

/-- READ (R213, R286). -/
def execRead (node : Nat) (p : Packet) (s : State) : Host.Outcome State Fault Refusal :=
  onUnit (nodeOk node) (if node = cobNode then drsReadPacket p else readPacket node p) s
/-- READ_DATA (R213). -/
def execReadData (node : Nat) (p : Packet) (s : State) : Host.Outcome State Fault Refusal :=
  onUnit (nodeOk node) (if node = cobNode then cobAnswer true p else readDataPacket node p) s
/-- WRITE (R213, R286). -/
def execWrite (node : Nat) (p : Packet) (s : State) : Host.Outcome State Fault Refusal :=
  onUnit (nodeOk node) (if node = cobNode then drsWritePacket p else writePacket node p) s
/-- WRITE_ACK (R213). -/
def execWriteAck (node : Nat) (p : Packet) (s : State) : Host.Outcome State Fault Refusal :=
  onUnit (nodeOk node) (if node = cobNode then cobAnswer true p else plainAnswer 0 node { p with reason := 0 }) s
/-- ERROR (R233). -/
def execErrorRsp (node : Nat) (p : Packet) (s : State) : Host.Outcome State Fault Refusal :=
  onUnit (nodeOk node) (if node = cobNode then cobAnswer false p else plainAnswer 2 node p) s
/-- START_TICK (R37, R423). -/
def execStartTick (s : State) : Host.Outcome State Fault Refusal := effect (fun d => (startTick d).hostPump) s
/-- CMD_NOP (R416). -/
def execCmdNop (h : Hdr) (s : State) : Host.Outcome State Fault Refusal := effect (submit h.qp (.nop h)) s
/-- REG_READ (R417). -/
def execRegRead (h : Hdr) (offs : List Nat) (s : State) : Host.Outcome State Fault Refusal := effect (submit h.qp (.regRead h offs)) s
/-- REG_WRITE (R417). -/
def execRegWrite (h : Hdr) (es : List (Nat × Word)) (s : State) : Host.Outcome State Fault Refusal := effect (submit h.qp (.regWrite h es)) s
/-- WINDOW_OPEN (R413). -/
def execWindowOpen (h : Hdr) (base len access : Nat) (s : State) : Host.Outcome State Fault Refusal :=
  effect (submit h.qp (.windowOpen h base len access)) s
/-- WINDOW_CLOSE (R414). -/
def execWindowClose (h : Hdr) (rkey : Nat) (s : State) : Host.Outcome State Fault Refusal := effect (submit h.qp (.windowClose h rkey)) s
/-- IMAGE_LOAD (R421). -/
def execImageLoad (h : Hdr) (addr len regions variant : Nat) (s : State) : Host.Outcome State Fault Refusal :=
  effect (submit h.qp (.imageLoad h addr len regions variant)) s
/-- START (R423). -/
def execStartCmd (h : Hdr) (regions tick : Nat) (s : State) : Host.Outcome State Fault Refusal := effect (submit h.qp (.start h regions tick)) s
/-- ABORT (R424): a cancelled START lets its queue pair go on. -/
def execAbortCmd (h : Hdr) (regions : Nat) (s : State) : Host.Outcome State Fault Refusal :=
  effect (fun d => (submit h.qp (.abort h regions) d).hostPump) s
/-- TOPOLOGY (R418). -/
def execTopology (h : Hdr) (x : List Byte) (s : State) : Host.Outcome State Fault Refusal := effect (submit h.qp (.topology h x)) s
/-- ROUTING (R418). -/
def execRouting (h : Hdr) (mode epoch : Nat) (s : State) : Host.Outcome State Fault Refusal := effect (submit h.qp (.routing h mode epoch)) s
/-- FW_UPDATE (R428). -/
def execFwUpdate (h : Hdr) (addr : Nat) (span : FwSpan) (s : State) : Host.Outcome State Fault Refusal :=
  effect (submit h.qp (.fwUpdate h addr span.len span.written)) s
/-- IDENTITY (R430). -/
def execIdentity (h : Hdr) (s : State) : Host.Outcome State Fault Refusal := effect (submit h.qp (.identity h)) s
/-- ATTEST (R431). -/
def execAttest (h : Hdr) (nonce : List Byte) (s : State) : Host.Outcome State Fault Refusal := effect (submit h.qp (.attest h nonce)) s
/-- EVENTS (R419). -/
def execEvents (h : Hdr) (enable : Nat) (s : State) : Host.Outcome State Fault Refusal := effect (submit h.qp (.events h enable)) s
/-- ROM_LOAD (R429). -/
def execRomLoad (h : Hdr) (off : Nat) (last : Bool) (chunk : List Byte) (s : State) : Host.Outcome State Fault Refusal :=
  effect (submit h.qp (.romLoad h off last chunk)) s
/-- EVENT_RECORD_SEND (R419). -/
def execEventRecordSend (s : State) : Host.Outcome State Fault Refusal := effect eventSend s
/-- RDMA_WRITE (R414). -/
def execRdmaWrite (qp rkey addr : Nat) (data : List Byte) (s : State) : Host.Outcome State Fault Refusal :=
  effect (submit qp (.write qp rkey addr data)) s
/-- RDMA_READ (R414). -/
def execRdmaRead (qp rkey addr len : Nat) (s : State) : Host.Outcome State Fault Refusal := effect (submit qp (.read qp rkey addr len)) s
/-- CM_CONNECT_REQUEST (R410). -/
def execCmConnectRequest (qp : Nat) (s : State) : Host.Outcome State Fault Refusal := effect (connect qp) s
/-- ECN_MARKED_RECEIVE (R412). -/
def execEcnMarkedReceive (qp : Nat) (s : State) : Host.Outcome State Fault Refusal := effect (ecnMarked qp) s
/-- CNP_RECEIVE (R412). -/
def execCnpReceive (qp : Nat) (s : State) : Host.Outcome State Fault Refusal := effect (cnpIn qp) s
/-- RATE_RECOVERY (R412). -/
def execRateRecovery (qp : Nat) (s : State) : Host.Outcome State Fault Refusal := effect (rateUp qp) s
/-- HOST_LINK_DOWN (R409). -/
def execHostLinkDown (s : State) : Host.Outcome State Fault Refusal := effect linkDown s
/-- HOST_LINK_RETRAIN (R407). -/
def execHostLinkRetrain (lanes : Nat) (s : State) : Host.Outcome State Fault Refusal := effect (linkTrain lanes) s
/-- PTP_SYNC (R425). -/
def execPtpSync (offset : Int) (s : State) : Host.Outcome State Fault Refusal := effect (ptpOffset offset) s
/-- PTP_HOLDOVER (R425). -/
def execPtpHoldover (s : State) : Host.Outcome State Fault Refusal := effect ptpLost s

end Sys2Proof.Machine
end

