-- ==== Sys2Proof/Machine/Vector.lean ====
section
/-!
DEFINITION. Vector register instructions (03 R76–R78, R89; 04 R118): 16 lanes under p[PG], with stream operands and a stream
destination.
-/
namespace Sys2Proof.Machine

/-- The words slot n took. -/
def Iss.got (i : Iss) (n : Nat) : List Line := if n = 1 then i.got1 else i.got2
/-- Operand VA: a register, or the first word of the slot it names. -/
def vecA (i : Iss) : Line := if vAS i.w then (i.got (vVA i.w + 1)).headD 0 else i.v (vVA i.w)
/-- Operand VB: a register, or the next word of the slot it names (R76). -/
def vecB (i : Iss) : Line :=
  if vBS i.w then (i.got (vVB i.w + 1)).getD (b2n (vAS i.w && vVA i.w == vVB i.w)) 0 else i.v (vVB i.w)

/-- The 16 results, lane by lane. -/
def perLane (f : Nat → Lane) : List Lane := (List.range 16).map f

/-- The result goes to v[VD], lanes off in p[PG] unchanged, or as a word on the outbound stream of its slot, lanes off as
zero (R77, R89). `all` says that p[PG] is no mask. -/
def vecDest (i : Iss) (d : Dev) (all : Bool) (xs : List Lane) : Dev :=
  let m := i.k.log.preg (vPG i.w)
  let on := fun (j : Nat) => all || bit m j
  if vDS i.w then
    match i.k.log.bound (slotCtr i.w (vVD i.w + 1)) with
    | .outS q =>
      (d.useCredits i.c q 1).issueVR i [.send q (ofLanes (perLane fun j => if on j then xs.getD j 0 else 0))]
    | _ => d
  else
    let old := i.v (vVD i.w)
    d.issueVR i [.v (vVD i.w) (ofLanes (perLane fun j => if on j then xs.getD j 0 else lane old j))]

/-- The registers the operands name: VD, VA, VB, VC and PG, streams left out. -/
def vecUses (nsrc : Nat) (w : Word) : List Reg :=
  (if vDS w then [] else [Reg.v (vVD w)]) ++ (if nsrc ≥ 1 && !vAS w then [Reg.v (vVA w)] else []) ++
  (if nsrc ≥ 2 && !vBS w then [Reg.v (vVB w)] else []) ++ (if nsrc ≥ 3 then [Reg.v (vVC w)] else []) ++ [Reg.p (vPG w)]

/-- What every VEC instruction with destination v[VD] shares: `f` gives lane j of the result. -/
def opVec (code nsrc : Nat) (all : Bool) (f : Iss → Nat → Lane) : OpDef where
  code := code
  used := fun _ => [(37, 4)]
  isVec := true
  nsrc := nsrc
  uses := vecUses nsrc
  held := fun i => i.slow || i.k.log.vuFull
  run := fun i d => vecDest i d all (perLane (f i))

/-- A lane-wise operation on VA and VB, or on VA alone. -/
def opVV (code : Nat) (f : Lane → Lane → Lane) : OpDef :=
  opVec code 2 false fun i j => f (lane (vecA i) j) (lane (vecB i) j)
def opV1 (code : Nat) (f : Lane → Lane) : OpDef := opVec code 1 false fun i j => f (lane (vecA i) j)

def opVadd : OpDef := opVV 0x40 fadd
def opVsub : OpDef := opVV 0x41 fsub
def opVmul : OpDef := opVV 0x42 fmul
def opVfma : OpDef :=
  opVec 0x43 3 false fun i j => ffma (lane (vecA i) j) (lane (vecB i) j) (lane (i.v (vVC i.w)) j)
def opVmax : OpDef := opVV 0x44 fmax
def opVmin : OpDef := opVV 0x45 fmin
def opVabs : OpDef := opV1 0x46 fabs
def opVneg : OpDef := opV1 0x47 fneg
/-- `vsel` takes p[PG] as its selector. -/
def opVsel : OpDef :=
  opVec 0x49 2 true fun i j => if bit (i.k.log.preg (vPG i.w)) j then lane (vecA i) j else lane (vecB i) j
def opVbcast : OpDef :=
  { opVec 0x4A 0 false (fun i _ => (i.s (vSS i.w)).setWidth 32) with
      uses := fun w => .s (vSS w) :: vecUses 0 w }
def opVmov : OpDef := opV1 0x4C id
def opViadd : OpDef := opVV 0x4D (· + ·)

/-- `vcmp` writes p[VD bits [2:0]], 0 for a lane off in p[PG]. -/
def opVcmp : OpDef where
  code := 0x48
  used := fun _ => [(37, 4)]
  bad := fun i => decide (5 < vFN i.w) || vDS i.w
  isVec := true
  nsrc := 2
  uses := fun w => .p (vVD w % 8) :: (vecUses 2 w).filter fun r => r ≠ .v (vVD w) || (!vAS w && vVA w == vVD w) ||
    (!vBS w && vVB w == vVD w)
  held := fun i => i.slow || i.k.log.vuFull
  run := fun i d =>
    let m := i.k.log.preg (vPG i.w)
    let r := (List.range 16).foldl (fun a j =>
      a + b2n (bit m j && fcmp (vFN i.w) (lane (vecA i) j) (lane (vecB i) j)) * 2 ^ j) 0
    d.issueVR i [.p (vVD i.w % 8) (BitVec.ofNat 16 r)]

/-- `vext` writes lane LANE of VA into s[SS]. -/
def opVext : OpDef where
  code := 0x4B
  used := fun _ => [(37, 4)]
  bad := fun i => vDS i.w
  isVec := true
  nsrc := 1
  uses := fun w => .s (vSS w) :: (if vAS w then [] else [.v (vVA w)])
  held := fun i => i.slow || i.k.log.vuFull
  run := fun i d => d.issueVR i [.s (vSS i.w) ((lane (vecA i) (vLane i.w)).setWidth 64)]

/-- vadd (R118). -/
def execVadd (c : Nat) (s : State) : Host.Outcome State Fault Refusal := coreCmd opVadd c s
/-- vsub (R118). -/
def execVsub (c : Nat) (s : State) : Host.Outcome State Fault Refusal := coreCmd opVsub c s
/-- vmul (R118). -/
def execVmul (c : Nat) (s : State) : Host.Outcome State Fault Refusal := coreCmd opVmul c s
/-- vfma (R118). -/
def execVfma (c : Nat) (s : State) : Host.Outcome State Fault Refusal := coreCmd opVfma c s
/-- vmax (R118). -/
def execVmax (c : Nat) (s : State) : Host.Outcome State Fault Refusal := coreCmd opVmax c s
/-- vmin (R118). -/
def execVmin (c : Nat) (s : State) : Host.Outcome State Fault Refusal := coreCmd opVmin c s
/-- vabs (R118). -/
def execVabs (c : Nat) (s : State) : Host.Outcome State Fault Refusal := coreCmd opVabs c s
/-- vneg (R118). -/
def execVneg (c : Nat) (s : State) : Host.Outcome State Fault Refusal := coreCmd opVneg c s
/-- vcmp (R89). -/
def execVcmp (c : Nat) (s : State) : Host.Outcome State Fault Refusal := coreCmd opVcmp c s
/-- vsel (R89). -/
def execVsel (c : Nat) (s : State) : Host.Outcome State Fault Refusal := coreCmd opVsel c s
/-- vbcast (R79). -/
def execVbcast (c : Nat) (s : State) : Host.Outcome State Fault Refusal := coreCmd opVbcast c s
/-- vext (R79). -/
def execVext (c : Nat) (s : State) : Host.Outcome State Fault Refusal := coreCmd opVext c s
/-- vmov (R79). -/
def execVmov (c : Nat) (s : State) : Host.Outcome State Fault Refusal := coreCmd opVmov c s
/-- viadd (R79). -/
def execViadd (c : Nat) (s : State) : Host.Outcome State Fault Refusal := coreCmd opViadd c s

end Sys2Proof.Machine
end

