-- ==== Sys2Proof/Machine/Dispatch.lean ====
section
/-!
DEFINITION. What each command does: one arm per constructor of Instr, one direct call of its meaning.
-/
namespace Sys2Proof.Machine

def exec (i : Instr) (s : State) : Host.Outcome State Fault Refusal :=
  match i with
  | .nop c => Sys2Proof.Machine.execNop c s
  | .endProg c => Sys2Proof.Machine.execEndProg c s
  | .wait c => Sys2Proof.Machine.execWait c s
  | .br c => Sys2Proof.Machine.execBr c s
  | .jal c => Sys2Proof.Machine.execJal c s
  | .jr c => Sys2Proof.Machine.execJr c s
  | .loop c => Sys2Proof.Machine.execLoop c s
  | .rdlc c => Sys2Proof.Machine.execRdlc c s
  | .rdct c => Sys2Proof.Machine.execRdct c s
  | .add c => Sys2Proof.Machine.execAdd c s
  | .sub c => Sys2Proof.Machine.execSub c s
  | .mul c => Sys2Proof.Machine.execMul c s
  | .andS c => Sys2Proof.Machine.execAndS c s
  | .orS c => Sys2Proof.Machine.execOrS c s
  | .xorS c => Sys2Proof.Machine.execXorS c s
  | .shl c => Sys2Proof.Machine.execShl c s
  | .shr c => Sys2Proof.Machine.execShr c s
  | .sra c => Sys2Proof.Machine.execSra c s
  | .slt c => Sys2Proof.Machine.execSlt c s
  | .sltu c => Sys2Proof.Machine.execSltu c s
  | .minS c => Sys2Proof.Machine.execMinS c s
  | .maxS c => Sys2Proof.Machine.execMaxS c s
  | .rdsys c => Sys2Proof.Machine.execRdsys c s
  | .pmov c => Sys2Proof.Machine.execPmov c s
  | .prd c => Sys2Proof.Machine.execPrd c s
  | .addi c => Sys2Proof.Machine.execAddi c s
  | .andi c => Sys2Proof.Machine.execAndi c s
  | .ori c => Sys2Proof.Machine.execOri c s
  | .xori c => Sys2Proof.Machine.execXori c s
  | .shli c => Sys2Proof.Machine.execShli c s
  | .shri c => Sys2Proof.Machine.execShri c s
  | .srai c => Sys2Proof.Machine.execSrai c s
  | .slti c => Sys2Proof.Machine.execSlti c s
  | .li c => Sys2Proof.Machine.execLi c s
  | .lis c => Sys2Proof.Machine.execLis c s
  | .bgate c => Sys2Proof.Machine.execBgate c s
  | .bwake c => Sys2Proof.Machine.execBwake c s
  | .ld c => Sys2Proof.Machine.execLd c s
  | .lds c => Sys2Proof.Machine.execLds c s
  | .st c => Sys2Proof.Machine.execSt c s
  | .ldv c => Sys2Proof.Machine.execLdv c s
  | .stv c => Sys2Proof.Machine.execStv c s
  | .vadd c => Sys2Proof.Machine.execVadd c s
  | .vsub c => Sys2Proof.Machine.execVsub c s
  | .vmul c => Sys2Proof.Machine.execVmul c s
  | .vfma c => Sys2Proof.Machine.execVfma c s
  | .vmax c => Sys2Proof.Machine.execVmax c s
  | .vmin c => Sys2Proof.Machine.execVmin c s
  | .vabs c => Sys2Proof.Machine.execVabs c s
  | .vneg c => Sys2Proof.Machine.execVneg c s
  | .vcmp c => Sys2Proof.Machine.execVcmp c s
  | .vsel c => Sys2Proof.Machine.execVsel c s
  | .vbcast c => Sys2Proof.Machine.execVbcast c s
  | .vext c => Sys2Proof.Machine.execVext c s
  | .vmov c => Sys2Proof.Machine.execVmov c s
  | .viadd c => Sys2Proof.Machine.execViadd c s
  | .vsadd c => Sys2Proof.Machine.execVsadd c s
  | .vsmul c => Sys2Proof.Machine.execVsmul c s
  | .vsaxpy c => Sys2Proof.Machine.execVsaxpy c s
  | .vssum c => Sys2Proof.Machine.execVssum c s
  | .vsamax c => Sys2Proof.Machine.execVsamax c s
  | .vscvt c => Sys2Proof.Machine.execVscvt c s
  | .vsquant c => Sys2Proof.Machine.execVsquant c s
  | .vsdequant c => Sys2Proof.Machine.execVsdequant c s
  | .mout c => Sys2Proof.Machine.execMout c s
  | .mld c => Sys2Proof.Machine.execMld c s
  | .bfxexp c => Sys2Proof.Machine.execBfxexp c s
  | .bfxpack c => Sys2Proof.Machine.execBfxpack c s
  | .bfxunpack c => Sys2Proof.Machine.execBfxunpack c s
  | .mma c => Sys2Proof.Machine.execMma c s
  | .mmasp c => Sys2Proof.Machine.execMmasp c s
  | .mmag c => Sys2Proof.Machine.execMmag c s
  | .sbind c => Sys2Proof.Machine.execSbind c s
  | .srecv c => Sys2Proof.Machine.execSrecv c s
  | .ssend c => Sys2Proof.Machine.execSsend c s
  | .srecvv c => Sys2Proof.Machine.execSrecvv c s
  | .ssendv c => Sys2Proof.Machine.execSsendv c s
  | .seal c => Sys2Proof.Machine.execSeal c s
  | .msend c => Sys2Proof.Machine.execMsend c s
  | .mrecv c => Sys2Proof.Machine.execMrecv c s
  | .bar c => Sys2Proof.Machine.execBar c s
  | .fset c => Sys2Proof.Machine.execFset c s
  | .fwait c => Sys2Proof.Machine.execFwait c s
  | .sgate c => Sys2Proof.Machine.execSgate c s
  | .saudit c => Sys2Proof.Machine.execSaudit c s
  | .verdictPoll c => Sys2Proof.Machine.execVerdictPoll c s
  | .fwaitPoll c tag => Sys2Proof.Machine.execFwaitPoll c tag s
  | .vsCompletion c => Sys2Proof.Machine.execVsCompletion c s
  | .matrixCompletion c => Sys2Proof.Machine.execMatrixCompletion c s
  | .streamMoveEnd c => Sys2Proof.Machine.execStreamMoveEnd c s
  | .remoteAccessTimeout c tag => Sys2Proof.Machine.execRemoteAccessTimeout c tag s
  | .hangWatchdogExpiry c => Sys2Proof.Machine.execHangWatchdogExpiry c s
  | .imemLoadTimeout c => Sys2Proof.Machine.execImemLoadTimeout c s
  | .startTick => Sys2Proof.Machine.execStartTick s
  | .bankGateEffect c bank => Sys2Proof.Machine.execBankGateEffect c bank s
  | .bankWakeEnd c bank => Sys2Proof.Machine.execBankWakeEnd c bank s
  | .stitchWordArrival c link w => Sys2Proof.Machine.execStitchWordArrival c link w s
  | .stitchReplayRequest c link seq => Sys2Proof.Machine.execStitchReplayRequest c link seq s
  | .stitchCreditReturn c link stream count gen => Sys2Proof.Machine.execStitchCreditReturn c link stream count gen s
  | .stitchForward c q out => Sys2Proof.Machine.execStitchForward c q out s
  | .configSwitch c => Sys2Proof.Machine.execConfigSwitch c s
  | .coreSuspect c => Sys2Proof.Machine.execCoreSuspect c s
  | .probeLaunch c => Sys2Proof.Machine.execProbeLaunch c s
  | .probeDead c => Sys2Proof.Machine.execProbeDead c s
  | .probeArrival c link p => Sys2Proof.Machine.execProbeArrival c link p s
  | .spillOrder core q => Sys2Proof.Machine.execSpillOrder core q s
  | .spillMoveEnd c q => Sys2Proof.Machine.execSpillMoveEnd c q s
  | .spillDrain c q => Sys2Proof.Machine.execSpillDrain c q s
  | .epochTick => Sys2Proof.Machine.execEpochTick s
  | .oldWordCopyEnd => Sys2Proof.Machine.execOldWordCopyEnd s
  | .unitCatchUp kind unit => Sys2Proof.Machine.execUnitCatchUp kind unit s
  | .racePacketForward r out => Sys2Proof.Machine.execRacePacketForward r out s
  | .raceFlitArrival r port p parityOk => Sys2Proof.Machine.execRaceFlitArrival r port p parityOk s
  | .contribMerge r out => Sys2Proof.Machine.execContribMerge r out s
  | .mergedAnswer node p => Sys2Proof.Machine.execMergedAnswer node p s
  | .packetAged hold p => Sys2Proof.Machine.execPacketAged hold p s
  | .read node p => Sys2Proof.Machine.execRead node p s
  | .readData node p => Sys2Proof.Machine.execReadData node p s
  | .write node p => Sys2Proof.Machine.execWrite node p s
  | .writeAck node p => Sys2Proof.Machine.execWriteAck node p s
  | .message node p => Sys2Proof.Machine.execMessage node p s
  | .accept node p => Sys2Proof.Machine.execAccept node p s
  | .bounce node p => Sys2Proof.Machine.execBounce node p s
  | .busy node p => Sys2Proof.Machine.execBusy node p s
  | .busyResend gw txn => Sys2Proof.Machine.execBusyResend gw txn s
  | .errorRsp node p => Sys2Proof.Machine.execErrorRsp node p s
  | .contrib node p => Sys2Proof.Machine.execContrib node p s
  | .confDeadline gw entry => Sys2Proof.Machine.execConfDeadline gw entry s
  | .deliveryPostRetry gw entry core => Sys2Proof.Machine.execDeliveryPostRetry gw entry core s
  | .iload node p => Sys2Proof.Machine.execIload node p s
  | .barEnter node p => Sys2Proof.Machine.execBarEnter node p s
  | .barRelease node p => Sys2Proof.Machine.execBarRelease node p s
  | .flagWrite node p => Sys2Proof.Machine.execFlagWrite node p s
  | .flagRead node p => Sys2Proof.Machine.execFlagRead node p s
  | .resetNotice node p => Sys2Proof.Machine.execResetNotice node p s
  | .weltDescriptorStart e r => Sys2Proof.Machine.execWeltDescriptorStart e r s
  | .weltTailPoll e r => Sys2Proof.Machine.execWeltTailPoll e r s
  | .weltWaitPoll e r => Sys2Proof.Machine.execWeltWaitPoll e r s
  | .weltNop e r => Sys2Proof.Machine.execWeltNop e r s
  | .copy e r => Sys2Proof.Machine.execCopy e r s
  | .streamOut e r => Sys2Proof.Machine.execStreamOut e r s
  | .streamIn e r => Sys2Proof.Machine.execStreamIn e r s
  | .weltIload e r => Sys2Proof.Machine.execWeltIload e r s
  | .fill e r => Sys2Proof.Machine.execFill e r s
  | .storeZ e r => Sys2Proof.Machine.execStoreZ e r s
  | .digest e r => Sys2Proof.Machine.execDigest e r s
  | .shadowWrite e r => Sys2Proof.Machine.execShadowWrite e r s
  | .scaleRules e r => Sys2Proof.Machine.execScaleRules e r s
  | .flip e r => Sys2Proof.Machine.execFlip e r s
  | .anchor e r => Sys2Proof.Machine.execAnchor e r s
  | .weltDescriptorComplete e r => Sys2Proof.Machine.execWeltDescriptorComplete e r s
  | .weltRequestTimeout e r => Sys2Proof.Machine.execWeltRequestTimeout e r s
  | .scrubAccess u => Sys2Proof.Machine.execScrubAccess u s
  | .scrubLapEnd u => Sys2Proof.Machine.execScrubLapEnd u s
  | .memFillStart a k v => Sys2Proof.Machine.execMemFillStart a k v s
  | .memFillEnd k bad => Sys2Proof.Machine.execMemFillEnd k bad s
  | .remapWrite a u j v => Sys2Proof.Machine.execRemapWrite a u j v s
  | .remapCopyEnd u j => Sys2Proof.Machine.execRemapCopyEnd u j s
  | .flipMaskArm a u v => Sys2Proof.Machine.execFlipMaskArm a u v s
  | .flipMaskApply u block => Sys2Proof.Machine.execFlipMaskApply u block s
  | .fordFrameReceive p f => Sys2Proof.Machine.execFordFrameReceive p f s
  | .fordRetryTimeout p => Sys2Proof.Machine.execFordRetryTimeout p s
  | .fordPacketReceive p cls pk => Sys2Proof.Machine.execFordPacketReceive p cls pk s
  | .fordPortMerge p => Sys2Proof.Machine.execFordPortMerge p s
  | .fordDown p reason => Sys2Proof.Machine.execFordDown p reason s
  | .fordKeepaliveSend p => Sys2Proof.Machine.execFordKeepaliveSend p s
  | .fordKeepaliveLapse p => Sys2Proof.Machine.execFordKeepaliveLapse p s
  | .fordResetNotice p => Sys2Proof.Machine.execFordResetNotice p s
  | .timeReqSend p => Sys2Proof.Machine.execTimeReqSend p s
  | .timeReq p t1 exch => Sys2Proof.Machine.execTimeReq p t1 exch s
  | .timeRsp p t1 t2 t3 exch peerBound => Sys2Proof.Machine.execTimeRsp p t1 t2 t3 exch peerBound s
  | .ftHoldover => Sys2Proof.Machine.execFtHoldover s
  | .trainingPhaseEnd p lanes margins => Sys2Proof.Machine.execTrainingPhaseEnd p lanes margins s
  | .trainingPhaseOverrun p => Sys2Proof.Machine.execTrainingPhaseOverrun p s
  | .ident p j => Sys2Proof.Machine.execIdent p j s
  | .fordRetrain p => Sys2Proof.Machine.execFordRetrain p s
  | .acceptPeer a p => Sys2Proof.Machine.execAcceptPeer a p s
  | .stepArm a v => Sys2Proof.Machine.execStepArm a v s
  | .stepStart => Sys2Proof.Machine.execStepStart s
  | .stepSeal => Sys2Proof.Machine.execStepSeal s
  | .sealDeadline => Sys2Proof.Machine.execSealDeadline s
  | .sealArrival step count failing => Sys2Proof.Machine.execSealArrival step count failing s
  | .verdictArrival step commit => Sys2Proof.Machine.execVerdictArrival step commit s
  | .commitFlipsWritten => Sys2Proof.Machine.execCommitFlipsWritten s
  | .stepUndecided => Sys2Proof.Machine.execStepUndecided s
  | .commitSealed a => Sys2Proof.Machine.execCommitSealed a s
  | .failSealed a => Sys2Proof.Machine.execFailSealed a s
  | .expel a on => Sys2Proof.Machine.execExpel a on s
  | .stepReport => Sys2Proof.Machine.execStepReport s
  | .targetedTestStart kind unit => Sys2Proof.Machine.execTargetedTestStart kind unit s
  | .targetedTestVerdict kind unit pass found => Sys2Proof.Machine.execTargetedTestVerdict kind unit pass found s
  | .fence c => Sys2Proof.Machine.execFence c s
  | .stateMoveEnd core crcOk => Sys2Proof.Machine.execStateMoveEnd core crcOk s
  | .rotationSliceStart seg => Sys2Proof.Machine.execRotationSliceStart seg s
  | .sliceHandoff seg => Sys2Proof.Machine.execSliceHandoff seg s
  | .sliceVerdict c pass found => Sys2Proof.Machine.execSliceVerdict c pass found s
  | .sliceOverrun c => Sys2Proof.Machine.execSliceOverrun c s
  | .liveRowShift => Sys2Proof.Machine.execLiveRowShift s
  | .shiftDrainEnd => Sys2Proof.Machine.execShiftDrainEnd s
  | .shiftReserveTestEnd bad => Sys2Proof.Machine.execShiftReserveTestEnd bad s
  | .ledgerWrite stored => Sys2Proof.Machine.execLedgerWrite stored s
  | .healTest a v => Sys2Proof.Machine.execHealTest a v s
  | .healShift a => Sys2Proof.Machine.execHealShift a s
  | .retest a => Sys2Proof.Machine.execRetest a s
  | .mapWriteSetG a v => Sys2Proof.Machine.execMapWriteSetG a v s
  | .mapWriteSetV a v => Sys2Proof.Machine.execMapWriteSetV a v s
  | .mapWriteFlip a v => Sys2Proof.Machine.execMapWriteFlip a v s
  | .unitHang kind unit => Sys2Proof.Machine.execUnitHang kind unit s
  | .cobblerWatchdog => Sys2Proof.Machine.execCobblerWatchdog s
  | .hangCobKick a => Sys2Proof.Machine.execHangCobKick a s
  | .capture trigger domain index => Sys2Proof.Machine.execCapture trigger domain index s
  | .debugNodeTimeout kind node => Sys2Proof.Machine.execDebugNodeTimeout kind node s
  | .captureLimit => Sys2Proof.Machine.execCaptureLimit s
  | .captureDone stored => Sys2Proof.Machine.execCaptureDone stored s
  | .domainReset domain index => Sys2Proof.Machine.execDomainReset domain index s
  | .resetRecoveryOverrun domain index => Sys2Proof.Machine.execResetRecoveryOverrun domain index s
  | .hangCmdGo a v => Sys2Proof.Machine.execHangCmdGo a v s
  | .reinstate a => Sys2Proof.Machine.execReinstate a s
  | .crossingResetNotice x => Sys2Proof.Machine.execCrossingResetNotice x s
  | .crossingRelease x => Sys2Proof.Machine.execCrossingRelease x s
  | .wakeRequest kind unit => Sys2Proof.Machine.execWakeRequest kind unit s
  | .powerGood => Sys2Proof.Machine.execPowerGood s
  | .railsInRegulation => Sys2Proof.Machine.execRailsInRegulation s
  | .romBoot img => Sys2Proof.Machine.execRomBoot img s
  | .fillTestEnd bad => Sys2Proof.Machine.execFillTestEnd bad s
  | .trainEnd => Sys2Proof.Machine.execTrainEnd s
  | .topologyCheck => Sys2Proof.Machine.execTopologyCheck s
  | .bringupOverrun => Sys2Proof.Machine.execBringupOverrun s
  | .deviceIdWrite a v => Sys2Proof.Machine.execDeviceIdWrite a v s
  | .grantPeriod r => Sys2Proof.Machine.execGrantPeriod r s
  | .throttleStep k draw slow => Sys2Proof.Machine.execThrottleStep k draw slow s
  | .fastLimitTrip sample => Sys2Proof.Machine.execFastLimitTrip sample s
  | .fastLimitStage2 sample => Sys2Proof.Machine.execFastLimitStage2 sample s
  | .fastLimitStage3 draws => Sys2Proof.Machine.execFastLimitStage3 draws s
  | .weirOpReq a v => Sys2Proof.Machine.execWeirOpReq a v s
  | .avsReport k target slacks => Sys2Proof.Machine.execAvsReport k target slacks s
  | .eqAdapt port lane tap up => Sys2Proof.Machine.execEqAdapt port lane tap up s
  | .phyEyeAdjust k pc corrected up => Sys2Proof.Machine.execPhyEyeAdjust k pc corrected up s
  | .powerStageShutdown x => Sys2Proof.Machine.execPowerStageShutdown x s
  | .modEnDeassert => Sys2Proof.Machine.execModEnDeassert s
  | .coldResetPin ns => Sys2Proof.Machine.execColdResetPin ns s
  | .smbIdent => Sys2Proof.Machine.execSmbIdent s
  | .smbSerial => Sys2Proof.Machine.execSmbSerial s
  | .smbState => Sys2Proof.Machine.execSmbState s
  | .smbVin => Sys2Proof.Machine.execSmbVin s
  | .smbIin => Sys2Proof.Machine.execSmbIin s
  | .smbPin => Sys2Proof.Machine.execSmbPin s
  | .smbIinPeak => Sys2Proof.Machine.execSmbIinPeak s
  | .smbJunction => Sys2Proof.Machine.execSmbJunction s
  | .smbCoolant => Sys2Proof.Machine.execSmbCoolant s
  | .smbHbmMax => Sys2Proof.Machine.execSmbHbmMax s
  | .smbShutdown => Sys2Proof.Machine.execSmbShutdown s
  | .smbAlerts clear => Sys2Proof.Machine.execSmbAlerts clear s
  | .smbAlertResponse => Sys2Proof.Machine.execSmbAlertResponse s
  | .cmdNop h => Sys2Proof.Machine.execCmdNop h s
  | .regRead h offs => Sys2Proof.Machine.execRegRead h offs s
  | .regWrite h es => Sys2Proof.Machine.execRegWrite h es s
  | .windowOpen h base len access => Sys2Proof.Machine.execWindowOpen h base len access s
  | .windowClose h rkey => Sys2Proof.Machine.execWindowClose h rkey s
  | .imageLoad h addr len regions variant => Sys2Proof.Machine.execImageLoad h addr len regions variant s
  | .startCmd h regions tick => Sys2Proof.Machine.execStartCmd h regions tick s
  | .abortCmd h regions => Sys2Proof.Machine.execAbortCmd h regions s
  | .topology h d => Sys2Proof.Machine.execTopology h d s
  | .routing h mode epoch => Sys2Proof.Machine.execRouting h mode epoch s
  | .fwUpdate h addr span => Sys2Proof.Machine.execFwUpdate h addr span s
  | .identity h => Sys2Proof.Machine.execIdentity h s
  | .attest h nonce => Sys2Proof.Machine.execAttest h nonce s
  | .events h enable => Sys2Proof.Machine.execEvents h enable s
  | .romLoad h off last chunk => Sys2Proof.Machine.execRomLoad h off last chunk s
  | .eventRecordSend => Sys2Proof.Machine.execEventRecordSend s
  | .rdmaWrite qp rkey addr data => Sys2Proof.Machine.execRdmaWrite qp rkey addr data s
  | .rdmaRead qp rkey addr len => Sys2Proof.Machine.execRdmaRead qp rkey addr len s
  | .cmConnectRequest qp => Sys2Proof.Machine.execCmConnectRequest qp s
  | .ecnMarkedReceive qp => Sys2Proof.Machine.execEcnMarkedReceive qp s
  | .cnpReceive qp => Sys2Proof.Machine.execCnpReceive qp s
  | .rateRecovery qp => Sys2Proof.Machine.execRateRecovery qp s
  | .hostLinkDown => Sys2Proof.Machine.execHostLinkDown s
  | .hostLinkRetrain lanes => Sys2Proof.Machine.execHostLinkRetrain lanes s
  | .ptpSync offset => Sys2Proof.Machine.execPtpSync offset s
  | .ptpHoldover => Sys2Proof.Machine.execPtpHoldover s
  | .cksWrite j => Sys2Proof.Machine.execCksWrite j s
  | .cksRead j => Sys2Proof.Machine.execCksRead j s
  | .cksDelete j => Sys2Proof.Machine.execCksDelete j s
  | .cksStat j => Sys2Proof.Machine.execCksStat j s
  | .cksRequestComplete j => Sys2Proof.Machine.execCksRequestComplete j s
  | .cksMount dirOk weak => Sys2Proof.Machine.execCksMount dirOk weak s
  | .cksRefresh b => Sys2Proof.Machine.execCksRefresh b s
  | .wearLevelMove => Sys2Proof.Machine.execWearLevelMove s
  | .blockRetire b => Sys2Proof.Machine.execBlockRetire b s
  | .cksState => Sys2Proof.Machine.execCksState s
  | .cksRingStart => Sys2Proof.Machine.execCksRingStart s
  | .counterWindowOpen => Sys2Proof.Machine.execCounterWindowOpen s
  | .counterFreeze => Sys2Proof.Machine.execCounterFreeze s
  | .cntArm a v => Sys2Proof.Machine.execCntArm a v s
  | .cntClear a => Sys2Proof.Machine.execCntClear a s
  | .cntSelWrite a off v => Sys2Proof.Machine.execCntSelWrite a off v s
  | .errLatchedClear a c v => Sys2Proof.Machine.execErrLatchedClear a c v s
  | .memLatchedClear a k v => Sys2Proof.Machine.execMemLatchedClear a k v s
  | .coreBankGateWrite a c v => Sys2Proof.Machine.execCoreBankGateWrite a c v s
  | .stitchRouteWrite a c j v => Sys2Proof.Machine.execStitchRouteWrite a c j v s
  | .forceReconfigArm a v => Sys2Proof.Machine.execForceReconfigArm a v s
  | .raceReqArm a v => Sys2Proof.Machine.execRaceReqArm a v s
  | .numericsLevelReq a v => Sys2Proof.Machine.execNumericsLevelReq a v s
  | .weltRingStart a e r v => Sys2Proof.Machine.execWeltRingStart a e r v s
  | .registerWrite a off size v => Sys2Proof.Machine.execRegisterWrite a off size v s
  | .fordPortEnable a p v => Sys2Proof.Machine.execFordPortEnable a p v s
  | .memTrainingEnd k ok => Sys2Proof.Machine.execMemTrainingEnd k ok s
  | .fordFrameSend p => Sys2Proof.Machine.execFordFrameSend p s

end Sys2Proof.Machine
end

