-- ==== Sys2Proof/Machine/Pins.lean ====
section
/-!
DEFINITION. The module's connectors and sideband pins (17 R464, R466–R468): what each shows of the state.
-/
namespace Sys2Proof.Machine

/-- The lane blocks of a high-speed connector in order: Ford ports 0–19, and 20 for the host port (R466). -/
def h1Blocks : List Nat := [0, 1, 2, 6, 7, 8, 12, 13, 14, 18, 20]
def h2Blocks : List Nat := [3, 4, 5, 9, 10, 11, 15, 16, 17, 19]

/-- The connector, 1 or 2, and block of a port. -/
def laneBlock (p : Nat) : Option (Nat × Nat) :=
  if h1Blocks.contains p then some (1, h1Blocks.findIdx (· == p))
  else if h2Blocks.contains p then some (2, h2Blocks.findIdx (· == p)) else none

/-- The pairs on which lane i of a block transmits and receives. -/
def txPair (block i : Nat) : Nat := 16 * block + i + 1
def rxPair (block i : Nat) : Nat := 16 * block + i + 9

/-- The times in ms, counted from the start of the power stage, at which the steps of Table — Rail sequence stand complete (R464). -/
def railTimes : List Nat := [0, 8, 10, 14, 18, 27, 30, 34, 40]

/-- The 7-bit SMBus address (R468). -/
def smbAddress : Nat := 0x50 + Config.strap.toNat % 8

/-- SMB_ALERT# is low while any alert bit is set (R467, R470). -/
def Dev.smbAlertLow (d : Dev) : Bool := d.power.alerts ≠ 0
/-- PWR_OK, from the end of the rail sequence until power-down begins. -/
def Dev.pwrOkHigh (d : Dev) : Bool := d.power.pwrOk
/-- THERM_TRIP# is low after a shutdown for a temperature, until the next start. -/
def Dev.thermTripLow (d : Dev) : Bool := d.power.thermTrip

/-- STATUS_LED. -/
inductive Led where
  | off | on | flashing
deriving DecidableEq, Repr

/-- On in READY, flashing in DEGRADED_READY, off otherwise. -/
def Dev.statusLed (d : Dev) : Led :=
  if !d.power.good then .off
  else match d.fld Fld.COB_BRINGUP_STATE with
    | 5 => .on
    | 6 => .flashing
    | _ => .off

end Sys2Proof.Machine
end

