-- ==== Sys2Proof/WellFormed.lean ====
section
/-!
DEFINITION. Which commands name units the device has: core, router, gateway, controller, ring, port, node, link and stream
indices in range (R14, R17, R25).
-/
namespace Sys2Proof

def okCore (c : Nat) : Bool := decide (c < 14144)
def okLink (l : Nat) : Bool := decide (l < 4)
def okQueue (q : Nat) : Bool := decide (q < 32)
def okRouter (r : Nat) : Bool := decide (r < 104)
def okNode (n : Nat) : Bool := decide (n < 416)
def okMem (k : Nat) : Bool := decide (k < 20)
def okRing (r : Nat) : Bool := decide (r < 16)
def okPort (p : Nat) : Bool := decide (p < 20)
def okStore : Store → Bool
  | .mem k => okMem k
  | .bank c b => okCore c && decide (b < 8)
def okHold : Hold → Bool
  | .router r => okRouter r
  | .gateway r => okRouter r
  | .slot n => okNode n
  | .pool p => okPort p
/-- A segment of the map (R19): prow × 8 + column. -/
def okSeg (s : Nat) : Bool := decide (s < 832)
def okLogical (l : Nat) : Bool := decide (l < 12288)
/-- A port of a router's: local and slots (0–2), or toward a neighbour N, E, S, W (3–6) of the 13 × 8 mesh (R17, R207). -/
def okMeshPort (r port : Nat) : Bool :=
  okRouter r && (decide (port < 3) || (port == 3 && decide (8 ≤ r)) || (port == 4 && decide (r % 8 < 7)) ||
    (port == 5 && decide (r < 96)) || (port == 6 && decide (0 < r % 8)))
/-- The attachment slots that hold a unit (R26). -/
def slotNodes : List Nat :=
  [1, 5, 9, 13, 17, 21, 25, 29, 385, 389, 393, 397, 401, 405, 409, 413, 66, 130, 258, 322, 94, 158, 286, 350,
   33, 129, 257, 61, 157, 285, 65, 161, 289, 93, 189, 317, 97, 225, 321, 125, 253, 349, 193, 221, 194, 222, 381]
/-- A node with a unit (R25, R26): a gateway, or a filled slot. -/
def okUnit (n : Nat) : Bool := okNode n && (n % 4 == 0 || slotNodes.contains n)
/-- A remap entry of a store (R265): 256 of an HBM stack, 64 of an LPDDR controller, 4 of each bank of a core's 32. -/
def okRemap (u : Store) (i : Nat) : Bool :=
  okStore u && match u with
  | .mem k => decide (i < if k < 16 then 256 else 64)
  | .bank _ b => decide (i < 32) && i / 4 == b
/-- A 64-byte block of a store (R29, R51). -/
def okBlock (u : Store) (l : Nat) : Bool :=
  okStore u && match u with
  | .mem k => decide (l < if k < 16 then 48 * 2 ^ 24 else 2 ^ 31)
  | .bank _ _ => decide (l < 768)
/-- A reset domain and its index (R401, R403). -/
def okDomain (domain index : Nat) : Bool :=
  match domain with
  | 0 => okCore index
  | 1 => okRouter index
  | 3 | 4 => decide (index < 20)
  | n => decide (n < 8)
/-- An erase block of the Checkpoint Store (R454). -/
def okErase (b : Nat) : Bool := decide (b < 750000)
/-- The offset of a select register of the cluster or device counters (R444). -/
def okSelect (off : Nat) : Bool :=
  off % 16 == 0 && ((decide (0x0E000000 ≤ off) && decide (off < 0x0E000400)) ||
    (decide (0x02000000 ≤ off) && decide (off < 0x02680000) && decide (0xB000 ≤ off % 0x10000) && decide (off % 0x10000 < 0xB080)))

/-- A command that names only units the device has. -/
def Instr.wf : Instr → Bool
  | .nop c => okCore c
  | .endProg c => okCore c
  | .wait c => okCore c
  | .br c => okCore c
  | .jal c => okCore c
  | .jr c => okCore c
  | .loop c => okCore c
  | .rdlc c => okCore c
  | .rdct c => okCore c
  | .add c => okCore c
  | .sub c => okCore c
  | .mul c => okCore c
  | .andS c => okCore c
  | .orS c => okCore c
  | .xorS c => okCore c
  | .shl c => okCore c
  | .shr c => okCore c
  | .sra c => okCore c
  | .slt c => okCore c
  | .sltu c => okCore c
  | .minS c => okCore c
  | .maxS c => okCore c
  | .rdsys c => okCore c
  | .pmov c => okCore c
  | .prd c => okCore c
  | .addi c => okCore c
  | .andi c => okCore c
  | .ori c => okCore c
  | .xori c => okCore c
  | .shli c => okCore c
  | .shri c => okCore c
  | .srai c => okCore c
  | .slti c => okCore c
  | .li c => okCore c
  | .lis c => okCore c
  | .bgate c => okCore c
  | .bwake c => okCore c
  | .ld c => okCore c
  | .lds c => okCore c
  | .st c => okCore c
  | .ldv c => okCore c
  | .stv c => okCore c
  | .vadd c => okCore c
  | .vsub c => okCore c
  | .vmul c => okCore c
  | .vfma c => okCore c
  | .vmax c => okCore c
  | .vmin c => okCore c
  | .vabs c => okCore c
  | .vneg c => okCore c
  | .vcmp c => okCore c
  | .vsel c => okCore c
  | .vbcast c => okCore c
  | .vext c => okCore c
  | .vmov c => okCore c
  | .viadd c => okCore c
  | .vsadd c => okCore c
  | .vsmul c => okCore c
  | .vsaxpy c => okCore c
  | .vssum c => okCore c
  | .vsamax c => okCore c
  | .vscvt c => okCore c
  | .vsquant c => okCore c
  | .vsdequant c => okCore c
  | .mout c => okCore c
  | .mld c => okCore c
  | .bfxexp c => okCore c
  | .bfxpack c => okCore c
  | .bfxunpack c => okCore c
  | .mma c => okCore c
  | .mmasp c => okCore c
  | .mmag c => okCore c
  | .sbind c => okCore c
  | .srecv c => okCore c
  | .ssend c => okCore c
  | .srecvv c => okCore c
  | .ssendv c => okCore c
  | .seal c => okCore c
  | .msend c => okCore c
  | .mrecv c => okCore c
  | .bar c => okCore c
  | .fset c => okCore c
  | .fwait c => okCore c
  | .sgate c => okCore c
  | .saudit c => okCore c
  | .verdictPoll c => okCore c
  | .fwaitPoll c _ => okCore c
  | .vsCompletion c => okCore c
  | .matrixCompletion c => okCore c
  | .streamMoveEnd c => okCore c
  | .remoteAccessTimeout c _ => okCore c
  | .hangWatchdogExpiry c => okCore c
  | .imemLoadTimeout c => okCore c
  | .startTick => true
  | .bankGateEffect c b => okCore c && decide (b < 8)
  | .bankWakeEnd c b => okCore c && decide (b < 8)
  | .stitchWordArrival c link _ => okCore c && okLink link
  | .stitchReplayRequest c link _ => okCore c && okLink link
  | .stitchCreditReturn c link stream _ _ => okCore c && okLink link && decide (stream < 8)
  | .stitchForward c q out => okCore c && okQueue q && decide (1 ≤ out) && decide (out ≤ 4)
  | .configSwitch c => okCore c
  | .coreSuspect c => okCore c
  | .probeLaunch c => okCore c
  | .probeDead c => okCore c
  | .probeArrival c link _ => okCore c && okLink link
  | .spillOrder lid q => okLogical lid && okQueue q
  | .spillMoveEnd c q => okCore c && okQueue q
  | .spillDrain c q => okCore c && okQueue q
  | .epochTick => true
  | .oldWordCopyEnd => true
  | .unitCatchUp _ _ => true
  | .racePacketForward r out => okMeshPort r out
  | .raceFlitArrival r port _ _ => okMeshPort r port
  | .contribMerge r out => okMeshPort r out
  | .mergedAnswer node _ => okNode node
  | .packetAged hold _ => okHold hold
  | .read node _ => okUnit node
  | .readData node _ => okUnit node
  | .write node _ => okUnit node
  | .writeAck node _ => okUnit node
  | .message node _ => okNode node && node % 4 == 0
  | .accept node _ => okUnit node
  | .bounce node _ => okUnit node
  | .busy node _ => okUnit node
  | .busyResend gw _ => okRouter gw
  | .errorRsp node _ => okUnit node
  | .contrib node _ => okNode node && node % 4 == 0
  | .confDeadline gw entry => okRouter gw && decide (entry < 64)
  | .deliveryPostRetry gw entry _ => okRouter gw && decide (entry < 64)
  | .iload node _ => okNode node && node % 4 == 0
  | .barEnter node _ => okUnit node
  | .barRelease node _ => okUnit node
  | .flagWrite node _ => okUnit node
  | .flagRead node _ => okUnit node
  | .resetNotice node _ => okUnit node
  | .weltDescriptorStart e r => okMem e && okRing r
  | .weltTailPoll e r => okMem e && okRing r
  | .weltWaitPoll e r => okMem e && okRing r
  | .weltNop e r => okMem e && okRing r
  | .copy e r => okMem e && okRing r
  | .streamOut e r => okMem e && okRing r
  | .streamIn e r => okMem e && okRing r
  | .weltIload e r => okMem e && okRing r
  | .fill e r => okMem e && okRing r
  | .storeZ e r => okMem e && okRing r
  | .digest e r => okMem e && okRing r
  | .shadowWrite e r => okMem e && okRing r
  | .scaleRules e r => okMem e && okRing r
  | .flip e r => okMem e && okRing r
  | .anchor e r => okMem e && okRing r
  | .weltDescriptorComplete e r => okMem e && okRing r
  | .weltRequestTimeout e r => okMem e && okRing r
  | .scrubAccess u => okStore u
  | .scrubLapEnd u => okStore u
  | .memFillStart _ k _ => okMem k
  | .memFillEnd k _ => okMem k
  | .remapWrite _ u i _ => okRemap u i
  | .remapCopyEnd u i => okRemap u i
  | .flipMaskArm _ u _ => okStore u
  | .flipMaskApply u block => okBlock u block
  | .fordFrameReceive p _ => okPort p
  | .fordRetryTimeout p => okPort p
  | .fordPacketReceive p cls _ => okPort p && decide (cls < 2)
  | .fordPortMerge p => okPort p
  | .fordDown p _ => okPort p
  | .fordKeepaliveSend p => okPort p
  | .fordKeepaliveLapse p => okPort p
  | .fordResetNotice p => okPort p
  | .timeReqSend p => okPort p
  | .timeReq p _ _ => okPort p
  | .timeRsp p _ _ _ _ _ => okPort p
  | .ftHoldover => true
  | .trainingPhaseEnd p _ _ => okPort p
  | .trainingPhaseOverrun p => okPort p
  | .ident p _ => okPort p
  | .fordRetrain p => okPort p
  | .acceptPeer _ p => okPort p
  | .stepArm _ _ => true
  | .stepStart => true
  | .stepSeal => true
  | .sealDeadline => true
  | .sealArrival _ _ _ => true
  | .verdictArrival _ _ => true
  | .commitFlipsWritten => true
  | .stepUndecided => true
  | .commitSealed _ => true
  | .failSealed _ => true
  | .expel _ _ => true
  | .stepReport => true
  | .targetedTestStart _ _ => true
  | .targetedTestVerdict _ _ _ _ => true
  | .fence c => okCore c
  | .stateMoveEnd lid _ => okLogical lid
  | .rotationSliceStart seg => okSeg seg
  | .sliceHandoff seg => okSeg seg
  | .sliceVerdict c _ _ => okCore c
  | .sliceOverrun c => okCore c
  | .liveRowShift => true
  | .shiftDrainEnd => true
  | .shiftReserveTestEnd _ => true
  | .ledgerWrite _ => true
  | .healTest _ _ => true
  | .healShift _ => true
  | .retest _ => true
  | .mapWriteSetG _ _ => true
  | .mapWriteSetV _ _ => true
  | .mapWriteFlip _ _ => true
  | .unitHang _ _ => true
  | .cobblerWatchdog => true
  | .hangCobKick _ => true
  | .capture _ _ _ => true
  | .debugNodeTimeout _ _ => true
  | .captureLimit => true
  | .captureDone _ => true
  | .domainReset domain index => okDomain domain index
  | .resetRecoveryOverrun domain index => okDomain domain index
  | .hangCmdGo _ _ => true
  | .reinstate _ => true
  | .crossingResetNotice x => okNode x
  | .crossingRelease x => okNode x
  | .wakeRequest _ _ => true
  | .powerGood => true
  | .railsInRegulation => true
  | .romBoot _ => true
  | .fillTestEnd _ => true
  | .trainEnd => true
  | .topologyCheck => true
  | .bringupOverrun => true
  | .deviceIdWrite _ _ => true
  | .grantPeriod _ => true
  | .throttleStep k _ _ => decide (k < 124)
  | .fastLimitTrip _ => true
  | .fastLimitStage2 _ => true
  | .fastLimitStage3 _ => true
  | .weirOpReq _ _ => true
  | .avsReport k _ _ => okRouter k
  | .eqAdapt port lane _ _ => decide (port ≤ 20) && decide (lane < 8)
  | .phyEyeAdjust k pc _ _ => okMem k && decide (pc < 64)
  | .powerStageShutdown _ => true
  | .modEnDeassert => true
  | .coldResetPin _ => true
  | .smbIdent => true
  | .smbSerial => true
  | .smbState => true
  | .smbVin => true
  | .smbIin => true
  | .smbPin => true
  | .smbIinPeak => true
  | .smbJunction => true
  | .smbCoolant => true
  | .smbHbmMax => true
  | .smbShutdown => true
  | .smbAlerts _ => true
  | .smbAlertResponse => true
  | .cmdNop _ => true
  | .regRead _ _ => true
  | .regWrite _ _ => true
  | .windowOpen _ _ _ _ => true
  | .windowClose _ _ => true
  | .imageLoad _ _ _ _ _ => true
  | .startCmd _ _ _ => true
  | .abortCmd _ _ => true
  | .topology _ _ => true
  | .routing _ _ _ => true
  | .fwUpdate _ _ _ => true
  | .identity _ => true
  | .attest _ _ => true
  | .events _ _ => true
  | .romLoad _ _ _ _ => true
  | .eventRecordSend => true
  | .rdmaWrite _ _ _ _ => true
  | .rdmaRead _ _ _ _ => true
  | .cmConnectRequest _ => true
  | .ecnMarkedReceive _ => true
  | .cnpReceive _ => true
  | .rateRecovery _ => true
  | .hostLinkDown => true
  | .hostLinkRetrain _ => true
  | .ptpSync _ => true
  | .ptpHoldover => true
  | .cksWrite _ => true
  | .cksRead _ => true
  | .cksDelete _ => true
  | .cksStat _ => true
  | .cksRequestComplete _ => true
  | .cksMount _ _ => true
  | .cksRefresh b => okErase b
  | .wearLevelMove => true
  | .blockRetire b => okErase b
  | .cksState => true
  | .cksRingStart => true
  | .counterWindowOpen => true
  | .counterFreeze => true
  | .cntArm _ _ => true
  | .cntClear _ => true
  | .cntSelWrite _ off _ => okSelect off
  | .errLatchedClear _ c _ => okCore c
  | .memLatchedClear _ k _ => okMem k
  | .coreBankGateWrite _ c _ => okCore c
  | .stitchRouteWrite _ c i _ => okCore c && decide (i < 64)
  | .forceReconfigArm _ _ => true
  | .raceReqArm _ _ => true
  | .numericsLevelReq _ _ => true
  | .weltRingStart _ e r _ => okMem e && okRing r
  | .registerWrite _ _ _ _ => true
  | .fordPortEnable _ p _ => okPort p
  | .memTrainingEnd k _ => okMem k
  | .fordFrameSend p => okPort p

end Sys2Proof
end

