-- ==== Sys2Proof/Safety.lean ====
section
/-!
DEFINITION. What counts as a safe state and a safe outcome, and the terms in which claims are stated: a command that completes, an
instruction that issues, and what an instruction of one core leaves alone.
-/
namespace Sys2Proof.Machine

/-- The byte memory of the device lists rising addresses and no zero byte. -/
def Memory.wf (m : List Host.Cell) : Bool := NMap.wf (0 : Byte) m

/-- A step that goes on. -/
def safeStep (s : State) : Prop := ∃ t, step s = .next t

/-- `n` steps, as long as each goes on. -/
def stepsTo : Nat → State → State → Prop
  | 0, s, t => t = s
  | n + 1, s, t => ∃ u, step s = .next u ∧ stepsTo n u t

/-- The command answers a next state with the queue as it was and a block that satisfies `P`. -/
def Completes (i : Instr) (s : State) (P : Dev → Prop) : Prop :=
  ∃ t, exec i s = .next t ∧ t.pending = s.pending ∧ P t.dev

/-- The physical core `c` has an instruction at its pc that `o` describes, issues it in this core cycle as `i` (R40), and the words it
takes pass their parity check (R178). -/
def Issues (o : OpDef) (s : State) (c : Nat) (i : Iss) : Prop :=
  c < numCores ∧ o.verdict s.dev c = .go i ∧ o.badWord i = none

/-- A register that counts events, which any command may advance (15 R444). -/
def isCounter (off : Nat) : Bool :=
  (decide (0x0E000000 ≤ off) && decide (off < 0x0E000400)) ||
  (decide (0x02000000 ≤ off) && decide (off < 0x02680000) && decide (0xB000 ≤ off % 0x10000) && decide (off % 0x10000 < 0xB080))

/-- What an instruction that acts on its own core alone leaves as it was: every other core, memory, every register outside the
cores but the counters, and every other unit; a word taken from or sent on an edge link reaches the engine's edge streams. -/
structure CoreOnly (c : Nat) (d e : Dev) : Prop where
  cores   : ∀ j, j ≠ c → e.core j = d.core j
  mem     : e.mem = d.mem ∧ e.memErr = d.memErr ∧ e.memFold = d.memFold ∧ e.memReach = d.memReach
  regs    : ∀ off, isCounter off = false → e.reg off = d.reg off
  time    : e.now = d.now ∧ e.slew = d.slew ∧ e.phase = d.phase
  net     : e.gws = d.gws ∧ e.routers = d.routers ∧ e.ports = d.ports ∧ e.arrived = d.arrived ∧ e.sendq = d.sendq ∧ e.nextTxn = d.nextTxn
  engines : ∀ k, { e.memc k with edges := [] } = { d.memc k with edges := [] }
  control : e.map = d.map ∧ e.step = d.step ∧ e.heal = d.heal ∧ e.cob = d.cob
  around  : e.host = d.host ∧ e.cks = d.cks ∧ e.weir = d.weir ∧ e.power = d.power

/-- What an instruction leaves of its core but the scalar registers `ss`, the vector registers `vs` and the scratchpad bytes from `lo`
below `hi`: every other register, accumulator contents, tags, operations in flight, every other byte of the scratchpad, message queues,
instruction memory and bindings. -/
structure LogKeeps (ss vs : List Nat) (lo hi : Nat) (l m : LCore) : Prop where
  scalars : ∀ n, n ∉ ss → m.sreg n = l.sreg n
  vectors : ∀ n, n ∉ vs → m.vreg n = l.vreg n
  preds   : m.p = l.p
  tiles   : ∀ n, (m.tile n).elems = (l.tile n).elems ∧ (m.tile n).isInt = (l.tile n).isInt ∧ (m.tile n).sat = (l.tile n).sat
  flight  : m.vu = l.vu ∧ m.mu = l.mu ∧ m.ops = l.ops ∧ m.moves = l.moves ∧ m.ctPend = l.ctPend ∧ m.ctStat = l.ctStat
  spad    : ∀ a, ¬ (lo ≤ a ∧ a < hi) → NMap.get 0 m.spad a = NMap.get 0 l.spad a
  memory  : m.imem = l.imem ∧ m.mq = l.mq ∧ m.sc = l.sc

/-- The pc, loop counters and active loops after an instruction that ends at `last` or branches to `t` (R81, R82). -/
def Goes (l m : LCore) (last : Nat) (t : Option Nat) : Prop :=
  m.pc = (l.advance last t).pc ∧ m.lc = (l.advance last t).lc ∧ m.loops = (l.advance last t).loops

/-- An instruction of opcode `code` that issues, writes `val` into the scalar register in bits [37:33] of its word, goes on to the next
instruction and leaves everything else of its core and of the block. -/
def WritesScalar (mk : Nat → Instr) (o : OpDef) (code : Nat) (val : State → Iss → Word) : Prop :=
  ∀ (s : State) (c : Nat) (i : Iss), Issues o s c i → opcodeOf i.w = code ∧
    Completes (mk c) s fun e =>
      (e.core c).log.sreg (rD i.w) = val s i ∧ CoreOnly c s.dev e ∧ (e.core c).log.state = .running ∧
      LogKeeps [rD i.w] [] 0 0 (s.dev.core c).log (e.core c).log ∧ Goes (s.dev.core c).log (e.core c).log i.pc none

/-- An instruction of opcode `code` that issues, writes no register, and goes on where `last` and `target` say. -/
def GoesOn (mk : Nat → Instr) (o : OpDef) (code : Nat) (last : Iss → Nat) (target : Iss → Option Nat) : Prop :=
  ∀ (s : State) (c : Nat) (i : Iss), Issues o s c i → opcodeOf i.w = code ∧
    Completes (mk c) s fun e =>
      CoreOnly c s.dev e ∧ (e.core c).log.state = .running ∧
      LogKeeps [] [] 0 0 (s.dev.core c).log (e.core c).log ∧ Goes (s.dev.core c).log (e.core c).log (last i) (target i)

/-- A core whose scratchpad holds no codeword in error, each one encoded with its own address and reached by it, and whose banks have no
flip armed. -/
def CleanSpad (k : Core) : Prop :=
  (∀ w, NMap.get [] k.sil.errs w = [] ∧ NMap.get none k.sil.fold w = none ∧ NMap.get 0 k.sil.reach w = 0) ∧
  k.fld Fld.CORE_SPAD_FLIP_ARM_ARM = 0

/-- The effective address of a MEM instruction: s[SA] + OFF, OFF in bits [18:0] sign-extended (R85). -/
def effAddr (i : Iss) : Nat := (i.s (rA i.w) + BitVec.ofInt 64 (signed 19 (bits i.w 18 0))).toNat
/-- The bytes a MEM instruction moves: 2 to the SIZE in bits [27:25]. -/
def accessBytes (i : Iss) : Nat := 2 ^ bits i.w 27 25

/-- A node has nothing to send, fewer than 4 of its packets wait in its router, and the input queue of its channel there has room for n
more flits (R208, R215). -/
def CanSend (d : Dev) (node vc n : Nat) : Prop :=
  d.toSend node 0 = [] ∧ d.toSend node 1 = [] ∧ d.waiting node < 4 ∧ d.queued (node / 4) (localPort node) vc + n ≤ 18
/-- A device that packets of this one reach: itself, or one toward which it has a port (R285). -/
def Reaches (d : Dev) (dev : Nat) : Prop := dev = d.devId ∨ ∃ x, d.nextDir dev = some x ∧ d.dirPorts x.1 ≠ []

/-- The gateway of a core is ready to send a request of its own core at once: nothing of its cluster waits or is out, its router's local
queues are empty, the service mode carries every request. -/
def GatewayFree (d : Dev) (c : Nat) : Prop :=
  (∀ x ∈ d.clusterOps (routerOf c), x.2.todo = [] ∧ x.2.out = [] ∧ x.2.busy = []) ∧
  NMap.get [] (d.router (routerOf c)).q 0 = [] ∧ NMap.get [] (d.router (routerOf c)).q 1 = [] ∧
  NMap.get [] (d.router (routerOf c)).fly 0 = [] ∧ NMap.get [] (d.router (routerOf c)).fly 1 = [] ∧
  d.toSend (4 * routerOf c) 0 = [] ∧ d.toSend (4 * routerOf c) 1 = [] ∧ d.fld Fld.COB_RACE_STATUS_SERVICE ≠ 0

/-- The request that core c's gateway has put alone into its router's queue of requests. -/
def Sent (s : State) (c : Nat) (e : Dev) (t : PType) (P : Packet → Prop) : Prop :=
  ∃ q, NMap.get [] (e.router (routerOf c)).q 0 = [q] ∧ q.p.ptype = t ∧ q.p.srcCore = s.dev.lid c ∧ q.p.src = 4 * routerOf c ∧
    q.p.epoch = s.dev.epoch % 4 ∧ P q.p

/-- Operand VA of a VEC instruction: v[VA], or the first word taken from the slot it names (R76, R78). -/
def laneA (i : Iss) (j : Nat) : Lane :=
  lane (if bit i.w 32 then (if bits i.w 31 28 = 0 then i.got1 else i.got2).headD 0 else i.v (bits i.w 31 28)) j
/-- Operand VB: v[VB], or the next word taken from the slot it names: the second one where VA names the same slot. -/
def laneB (i : Iss) (j : Nat) : Lane :=
  lane (if bit i.w 27 then (if bits i.w 26 23 = 0 then i.got1 else i.got2).getD
    (if bit i.w 32 ∧ bits i.w 31 28 = bits i.w 26 23 then 1 else 0) 0 else i.v (bits i.w 26 23)) j
/-- Lane j is on in p[PG]; p0 has every lane on. -/
def laneOn (i : Iss) (j : Nat) : Bool := bits i.w 18 16 == 0 || bit (NMap.get 0 i.k.log.p (bits i.w 18 16)) j

/-- A VEC instruction of opcode `code` with destination v[VD] (R41, R77, R89): `f` gives its lanes, `all` says that p[PG] is no mask.
With an empty vector unit v[VD] takes the lanes that are on, the others keep their value; on an outbound stream the lanes that are off
are zero, and one credit is taken; behind another instruction of the unit the result waits there. -/
def WritesLanes (mk : Nat → Instr) (o : OpDef) (code : Nat) (all : Bool) (f : Iss → Nat → Lane) : Prop :=
  ∀ (s : State) (c : Nat) (i : Iss), Issues o s c i → opcodeOf i.w = code ∧
    let l := (s.dev.core c).log
    let vd := bits i.w 36 33
    let res := fun (off : Nat → Lane) (j : Nat) => if all || laneOn i j then f i j else off j
    (bit i.w 37 = false → l.vu = [] → Completes (mk c) s fun e =>
      (∀ j, j < 16 → lane ((e.core c).log.vreg vd) j = res (lane (l.vreg vd)) j) ∧
      CoreOnly c s.dev e ∧ LogKeeps [] [vd] 0 0 l (e.core c).log ∧ Goes l (e.core c).log i.pc none) ∧
    (bit i.w 37 = false → l.vu ≠ [] → Completes (mk c) s fun e =>
      (∃ u x, (e.core c).log.vu = l.vu ++ [u] ∧ u.tag = none ∧ u.wr = [.v vd x] ∧
        ∀ j, j < 16 → lane x j = res (lane (l.vreg vd)) j) ∧
      CoreOnly c s.dev e ∧ (∀ n, (e.core c).log.vreg n = l.vreg n) ∧ Goes l (e.core c).log i.pc none) ∧
    (bit i.w 37 = true → ∀ q, l.bound (slotCtr i.w (vd + 1)) = .outS q → Completes (mk c) s fun e =>
      ((e.core c).log.outQ q).credits = (l.outQ q).credits - 1 ∧
      (l.vu = [] → s.dev.edgeOf c (q / 8) = none →
        ∃ dest w, Out.word c (q / 8) dest w ∈ e.out ∧ w.kind = 0 ∧ w.stream = q % 8 ∧ w.gen = (l.outQ q).gen ∧
          w.epoch = s.dev.epoch % 4 ∧ StitchWord.dataOk w = true ∧ ∀ j, j < 16 → lane w.data j = res (fun _ => 0) j) ∧
      CoreOnly c s.dev e ∧ (∀ n, (e.core c).log.vreg n = l.vreg n) ∧ Goes l (e.core c).log i.pc none)

/-- A binary32 word that is finite, NaN, or an infinity. -/
def fpFinite (x : Lane) : Bool := bits x 30 23 != 255
def fpNaN (x : Lane) : Bool := bits x 30 23 == 255 && bits x 22 0 != 0
/-- The value of a finite binary32 word in units of 2^−149, the smallest subnormal. -/
def fpInt (x : Lane) : Int :=
  let m : Int := if bits x 30 23 = 0 then bits x 22 0 else ((2 ^ 23 + bits x 22 0) * 2 ^ (bits x 30 23 - 1) : Nat)
  if bit x 31 then -m else m
/-- `r` is the exact value S × 2^−(149 + k), rounded once to nearest even with overflow to infinity: from (2^25 − 1) × 2^103 on it is an
infinity of its sign, else no finite word is nearer, and of two equally near ones `r` has the even code. -/
def RoundedTo (k : Nat) (S : Int) (r : Lane) : Prop :=
  if ((2 ^ 25 - 1) * 2 ^ (252 + k) : Nat) ≤ S.natAbs then r = if S < 0 then 0xFF800000 else 0x7F800000
  else fpFinite r = true ∧ ∀ y : Lane, fpFinite y = true →
    (fpInt r * 2 ^ k - S).natAbs ≤ (fpInt y * 2 ^ k - S).natAbs ∧
    ((fpInt r * 2 ^ k - S).natAbs = (fpInt y * 2 ^ k - S).natAbs → fpInt y ≠ fpInt r → bit r 0 = false)

/-- An instruction of opcode `code` of class VS or M that issues: it takes a place in its unit with its word, pc, tag, operand values and
the step number, its tag was not pending and becomes pending, and no other register of the core changes (R41, R43). -/
def TakesPlace (mk : Nat → Instr) (o : OpDef) (code : Nat) (unit : LCore → List UOp) : Prop :=
  ∀ (s : State) (c : Nat) (i : Iss), Issues o s c i → opcodeOf i.w = code ∧
    let l := (s.dev.core c).log
    l.ctPend.testBit (bits i.w 17 13) = false ∧ (unit l).length < 2 ∧
    Completes (mk c) s fun e =>
      (∃ u, unit (e.core c).log = unit l ++ [u] ∧ u.w = i.w ∧ u.pc = i.pc ∧ u.tag = some (bits i.w 17 13) ∧ u.step = s.dev.stepNo) ∧
      (e.core c).log.ctPend.testBit (bits i.w 17 13) = true ∧ CoreOnly c s.dev e ∧
      (∀ n, (e.core c).log.sreg n = l.sreg n) ∧ (e.core c).log.v = l.v ∧ (e.core c).log.p = l.p ∧ (e.core c).log.spad = l.spad ∧
      (∀ n, ((e.core c).log.tile n).elems = (l.tile n).elems) ∧ Goes l (e.core c).log i.pc none

/-- The instruction at the head of the vector unit of core c, with its tag, and the scratchpad without errors or armed flips. -/
def AtVector (s : State) (c : Nat) (u : UOp) (t : Nat) : Prop :=
  c < numCores ∧ (∃ us, (s.dev.core c).log.vu = u :: us) ∧ u.tag = some t ∧ t < 32 ∧ CleanSpad (s.dev.core c)


/-- The FP32 word at scratchpad offset a, and n of them. -/
def spadWord (l : LCore) (a : Nat) : Lane := BitVec.ofNat 32 (ofBytes (getBytes l.spad a 4))
def spadWords (l : LCore) (a n : Nat) : List Lane := (List.range n).map fun j => spadWord l (a + 4 * j)

/-- What stays of the core and of the other cores once an instruction of a unit has run (R43): its tag is clear with `ok`, the units, the
other tags and every register are as they were but the scalar registers `ss`, the tiles `ts` and the scratchpad bytes from `lo` below
`hi`. -/
structure UnitRan (c : Nat) (i : Iss) (ss ts : List Nat) (lo hi : Nat) (d e : Dev) : Prop where
  tag     : (e.core c).log.ctPend.testBit (bits i.w 17 13) = false ∧ (e.core c).log.tagStatus (bits i.w 17 13) = 0
  tags    : ∀ t, t < 32 → (e.core c).log.ctPend.testBit t = (d.core c).log.ctPend.testBit t
  units   : (e.core c).log.vu = (d.core c).log.vu ∧ (e.core c).log.mu = (d.core c).log.mu
  running : (e.core c).log.state = .running
  scalars : ∀ n, n ∉ ss → (e.core c).log.sreg n = (d.core c).log.sreg n
  vectors : (e.core c).log.v = (d.core c).log.v ∧ (e.core c).log.p = (d.core c).log.p
  tiles   : ∀ n, n ∉ ts → ((e.core c).log.tile n).elems = ((d.core c).log.tile n).elems ∧
    ((e.core c).log.tile n).isInt = ((d.core c).log.tile n).isInt ∧ ((e.core c).log.tile n).sat = ((d.core c).log.tile n).sat
  spad    : ∀ a, ¬ (lo ≤ a ∧ a < hi) → NMap.get 0 (e.core c).log.spad a = NMap.get 0 (d.core c).log.spad a
  others  : (∀ j, j ≠ c → e.core j = d.core j) ∧ e.mem = d.mem ∧ e.routers = d.routers ∧ e.step = d.step
  goes    : Goes (d.core c).log (e.core c).log i.pc none

/-- An instruction of opcode `code` that issues into an empty unit over a scratchpad without errors, its operands meeting `pre`: it takes
the unit with its tag pending, and when its occupancy ends at once (`fin`) it has had its effect `post` (R41, R43). -/
def Runs (mk fin : Nat → Instr) (o : OpDef) (code : Nat) (unit : LCore → List UOp) (pre : State → Nat → Iss → Prop)
    (post : State → Nat → Iss → Dev → Prop) : Prop :=
  ∀ (s : State) (c : Nat) (i : Iss), Issues o s c i → unit (s.dev.core c).log = [] → CleanSpad (s.dev.core c) → pre s c i →
    opcodeOf i.w = code ∧ ∃ t, exec (mk c) s = .next t ∧ t.pending = s.pending ∧
      (t.dev.core c).log.ctPend.testBit (bits i.w 17 13) = true ∧ Completes (fin c) t (post s c i)
/-- The values of the scalar registers that the fields D, A, B and N of a VMS word, and SX, name. -/
def regD (i : Iss) : Nat := (i.s (bits i.w 37 33)).toNat
def regA (i : Iss) : Nat := (i.s (bits i.w 32 28)).toNat
def regB (i : Iss) : Nat := (i.s (bits i.w 27 23)).toNat
def regN (i : Iss) : Nat := (i.s (bits i.w 22 18)).toNat
def regX (i : Iss) : Word := i.s (bits i.w 4 0)

/-- The words an instruction of core c put on a link, oldest first. -/
def wordsOn (e : Dev) (c link : Nat) : List StitchWord :=
  e.out.filterMap fun o => match o with | .word c' l _ w => if c' = c ∧ l = link then some w else none | _ => none

/-- The core instructions, part by part. -/
def coreOps1 : List ((Nat → Instr) × OpDef) :=
  [(.nop, opNop), (.endProg, opEnd), (.wait, opWait), (.br, opBr), (.jal, opJal), (.jr, opJr),
   (.loop, opLoop), (.rdlc, opRdlc), (.rdct, opRdct), (.add, opAdd), (.sub, opSub), (.mul, opMul),
   (.andS, opAndS), (.orS, opOrS), (.xorS, opXorS), (.shl, opShl), (.shr, opShr), (.sra, opSra),
   (.slt, opSlt), (.sltu, opSltu), (.minS, opMinS), (.maxS, opMaxS), (.rdsys, opRdsys), (.pmov, opPmov),
   (.prd, opPrd), (.addi, opAddi), (.andi, opAndi), (.ori, opOri), (.xori, opXori), (.shli, opShli)]
def coreOps2 : List ((Nat → Instr) × OpDef) :=
  [(.shri, opShri), (.srai, opSrai), (.slti, opSlti), (.li, opLi), (.lis, opLis), (.bgate, opBgate),
   (.bwake, opBwake), (.ld, opLd), (.lds, opLds), (.st, opSt), (.ldv, opLdv), (.stv, opStv),
   (.vadd, opVadd), (.vsub, opVsub), (.vmul, opVmul), (.vfma, opVfma), (.vmax, opVmax), (.vmin, opVmin),
   (.vabs, opVabs), (.vneg, opVneg), (.vcmp, opVcmp), (.vsel, opVsel), (.vbcast, opVbcast), (.vext, opVext),
   (.vmov, opVmov), (.viadd, opViadd), (.vsadd, opVsadd), (.vsmul, opVsmul), (.vsaxpy, opVsaxpy), (.vssum, opVssum)]
def coreOps3 : List ((Nat → Instr) × OpDef) :=
  [(.vsamax, opVsamax), (.vscvt, opVscvt), (.vsquant, opVsquant), (.vsdequant, opVsdequant), (.mout, opMout), (.mld, opMld),
   (.bfxexp, opBfxexp), (.bfxpack, opBfxpack), (.bfxunpack, opBfxunpack), (.mma, opMma), (.mmasp, opMmasp), (.mmag, opMmag),
   (.sbind, opSbind), (.srecv, opSrecv), (.ssend, opSsend), (.srecvv, opSrecvv), (.ssendv, opSsendv), (.seal, opSeal),
   (.msend, opMsend), (.mrecv, opMrecv), (.bar, opBar), (.fset, opFset), (.fwait, opFwait), (.sgate, opSgate),
   (.saudit, opSaudit)]
/-- Every core instruction with what its opcode adds to the issue sequence. -/
def coreOps : List ((Nat → Instr) × OpDef) := coreOps1 ++ coreOps2 ++ coreOps3

/-- Every part of a core but the issue bookkeeping of a cycle without issue. -/
def SameButStall (k m : Core) : Prop :=
  m.log = k.log ∧ { m.sil with stall := 0, block := 0, blocked := false } = { k.sil with stall := 0, block := 0, blocked := false }

/-! ### Packets, memory and requests -/

/-- A packet of the current epoch or the one before, which the unit at its node acts on (R218). -/
def Current (d : Dev) (p : Packet) : Prop := (d.epoch + 4 - p.epoch % 4) % 4 ≤ 1

/-- The unit at `node` can answer p with n bytes at once. -/
def CanAnswer (d : Dev) (node : Nat) (p : Packet) (n : Nat) : Prop :=
  CanSend d node 1 (1 + (n + 127) / 128) ∧ Reaches d p.srcDev
/-- The unit at `node` sends one answer to p: the last packet of its queue of responses in its router, to p's sender with p's
transaction, tag and core (R211, R213). -/
def Answered (d e : Dev) (node : Nat) (p : Packet) (t : PType) (reason : Nat) (data : List Byte) : Prop :=
  ∃ q : Packet, NMap.get [] (e.router (node / 4)).q (2 * localPort node + 1) =
      NMap.get [] (d.router (node / 4)).q (2 * localPort node + 1) ++ [{ p := q, at_ := d.t }] ∧
    q.ptype = t ∧ q.dstDev = p.srcDev ∧ (p.srcDev = d.devId → q.dst = p.src) ∧ q.dstCore = p.srcCore ∧ q.txn = p.txn ∧
    q.tag = p.tag ∧ q.reason = reason ∧ q.payload = data ∧ q.epoch = d.epoch % 4

/-- Nothing of a cluster's operations waits to be injected. -/
def AllSent (d : Dev) (r : Nat) : Prop := ∀ x ∈ d.clusterOps r, x.2.todo = []

/-- The byte of HBM or LPDDR an address names. -/
def keyAt (d : Dev) (a : Nat) : Option Nat := match d.locate a with | .mem k l => some (memKey k l) | _ => none
/-- n bytes of HBM or LPDDR. -/
def memBytes (d : Dev) (a n : Nat) : List Byte :=
  (List.range n).map fun i => match keyAt d (a + i) with | some x => NMap.get 0 d.mem x | none => 0
/-- n bytes of HBM or LPDDR in one range, their controllers up, with no error of a cell, an address or a stack, no remap copy or test of
a block running and no flip armed. -/
def MemReady (d : Dev) (a n : Nat) : Prop :=
  rangeOk a n = true ∧ 0 < n ∧ ∀ i, i < n → ∃ k l, d.locate (a + i) = .mem k l ∧ d.memState k = 3 ∧ d.remapBusy k l = false ∧
    d.blockTest k (l / 64) = false ∧ NMap.get [] d.memErr (memKey k l / 64) = [] ∧ NMap.get none d.memFold (memKey k l / 64) = none ∧
    NMap.get 0 d.memReach (memKey k l / 64) = 0 ∧ (d.memc k).dram = [] ∧ d.flag (Fld.HBM_FLIP_CTRL_ARM.at (memBase k)) = false
/-- Exactly the bytes from `a` on become `bs`, and every other byte stays. -/
def MemHolds (d e : Dev) (a : Nat) (bs : List Byte) : Prop :=
  memBytes e a bs.length = bs ∧ ∀ x, (∀ i, i < bs.length → keyAt d (a + i) ≠ some x) → NMap.get 0 e.mem x = NMap.get 0 d.mem x

/-- No host command or RDMA operation waits on a queue pair. -/
def HostQuiet (d : Dev) : Prop := ∀ x ∈ d.host.qps, ∀ q, x.2 = some q → q.cmds = []
/-- The last event of the log. -/
def Logged (d e : Dev) (code kind unit : Nat) : Prop :=
  ∃ v, e.cob.log = d.cob.log ++ [v] ∧ v.code = code ∧ v.kind = kind ∧ v.unit = unit ∧ v.time = d.t

/-! ### Welt descriptors and shards -/

/-- The oldest started descriptor of ring r of engine k whose operation `op` has not run; no other has its ring, index and time. -/
def Oldest (d : Dev) (k r op : Nat) (x : Desc) : Prop :=
  ((d.memc k).descs.find? fun u => u.ring == r && !u.ran && dOp u.bytes == op) = some x ∧
  ∀ u ∈ (d.memc k).descs, u.ring = x.ring → u.index = x.index → u.at_ = x.at_ → u = x
/-- Descriptor x of engine k becomes z; the others stay. -/
def Becomes (d e : Dev) (k : Nat) (x z : Desc) : Prop := (e.memc k).descs = (d.memc k).descs.map fun u => if u = x then z else u
/-- Two ranges of HBM and LPDDR that share no byte. -/
def Apart (d : Dev) (a n b m : Nat) : Prop := ∀ i j, i < n → j < m → keyAt d (a + i) ≠ keyAt d (b + j)
/-- The shard whose descriptor stands at `a`, with its active table's header, none without a table (R325). -/
def ShardAt (d : Dev) (a : Nat) (h : Shard) (hd : List Byte) : Prop :=
  a % 64 = 0 ∧ MemReady d a 64 ∧ h = { at_ := a, bytes := memBytes d a 64 } ∧ h.bad = false ∧
  (h.tab h.active = 0 ∧ hd = [] ∨ h.tab h.active ≠ 0 ∧ MemReady d (h.tab h.active) 64 ∧ hd = memBytes d (h.tab h.active) 64 ∧
    dField hd 8 4 = h.rows ∧ dField hd 12 4 = h.cols)
/-- The next completion entry of engine k: its address, in memory that can be written. -/
def cqAddr (d : Dev) (k : Nat) : Nat :=
  32 * d.fld (Fld.HBM_WELT_CQ_BASE_BASE.at (memBase k)) +
    32 * (d.fld (Fld.HBM_WELT_CQ_PTR_WRITE.at (memBase k)) % 2 ^ d.fld (Fld.HBM_WELT_CQ_BASE_SIZE_LOG2.at (memBase k)))
/-- A completion entry of ring r with a status and reason is written and the write pointer advanced (R257). -/
def EntryWritten (d e : Dev) (k r status reason : Nat) : Prop :=
  e.fld (Fld.HBM_WELT_CQ_PTR_WRITE.at (memBase k)) = (d.fld (Fld.HBM_WELT_CQ_PTR_WRITE.at (memBase k)) + 1) % 2 ^ 16 ∧
  memBytes e (cqAddr d k) 3 = [BitVec.ofNat 8 r, BitVec.ofNat 8 status, BitVec.ofNat 8 reason]

/-! ### Commands that change nothing, register writes, requests of this device -/

/-- The command completes and leaves the block as it is. -/
def Stays (i : Instr) (s : State) : Prop := Completes i s fun e => e = { s.dev with out := [] }
/-- The write is refused and changes nothing. -/
def Refuses (i : Instr) (s : State) : Prop := Completes i s fun e => e = { s.dev with out := [.refused] }
/-- The write is taken, and leaves a block that satisfies `P`. -/
def Takes (i : Instr) (s : State) (P : Dev → Prop) : Prop :=
  Completes i s fun e => Out.accepted ∈ e.out ∧ Out.refused ∉ e.out ∧ P e
/-- An event record of a code, unit kind and unit, of this moment, stands in the log. -/
def Recorded (d e : Dev) (code kind unit : Nat) : Prop :=
  ∃ v ∈ e.cob.log, v.code = code ∧ v.kind = kind ∧ v.unit = unit ∧ v.time = d.t
/-- A request of Cobbler is the last one in its router's queue. -/
def CobSent (d e : Dev) (P : Packet → Prop) : Prop :=
  ∃ q, NMap.get [] (e.router 55).q 4 = NMap.get [] (d.router 55).q 4 ++ [q] ∧ q.p.src = cobNode ∧ P q.p
/-- A count that saturates at its field's largest value. -/
def Counts (d e : Dev) (f : Fld) (n : Nat) : Prop := e.fld f = min (d.fld f + n) f.max
/-- A reset of a domain waits for its turn. -/
def Awaits (e : Dev) (domain index : Nat) : Prop := ∃ t, (domain, index, t) ∈ e.cob.waiting

end Sys2Proof.Machine
end

