-- ==== Sys2Proof/Certificates/Slice0/Obligations.lean ====
section
/-!
DEFINITION. What the model claims of the block, family by family, in the terms of Sys2Proof/Safety.lean.
-/
open Sys2Proof Sys2Proof.Machine

/-! ### Scalar and control instructions -/

/-- R80: each scalar instruction writes the wrapped 64-bit result of its operands into s[SD]; shifts use the low 6 bits of their
shift operand; comparisons write 1 or 0; `min` and `max` compare as signed; `addi`, `slti` and `li` sign-extend the 28-bit IMM,
`andi`, `ori`, `xori` and `lis` zero-extend it. -/
def Obligations.ScalarArithmetic : Prop :=
  (
  let a := fun (i : Iss) => i.s (rA i.w)
  let b := fun (i : Iss) => i.s (rB i.w)
  WritesScalar .add opAdd 0x10 (fun _ i => a i + b i) ∧
  WritesScalar .sub opSub 0x11 (fun _ i => a i - b i) ∧
  WritesScalar .mul opMul 0x12 (fun _ i => BitVec.ofNat 64 ((a i).toNat * (b i).toNat)) ∧
  WritesScalar .andS opAndS 0x13 (fun _ i => a i &&& b i) ∧
  WritesScalar .orS opOrS 0x14 (fun _ i => a i ||| b i) ∧
  WritesScalar .xorS opXorS 0x15 (fun _ i => a i ^^^ b i) ∧
  WritesScalar .shl opShl 0x16 (fun _ i => a i <<< ((b i).toNat % 64)) ∧
  WritesScalar .shr opShr 0x17 (fun _ i => a i >>> ((b i).toNat % 64)) ∧
  WritesScalar .sra opSra 0x18 (fun _ i => (a i).sshiftRight ((b i).toNat % 64)) ∧
  WritesScalar .slt opSlt 0x19 (fun _ i => if (a i).toInt < (b i).toInt then 1 else 0) ∧
  WritesScalar .sltu opSltu 0x1A (fun _ i => if (a i).toNat < (b i).toNat then 1 else 0) ∧
  WritesScalar .minS opMinS 0x1B (fun _ i => if (b i).toInt < (a i).toInt then b i else a i) ∧
  WritesScalar .maxS opMaxS 0x1C (fun _ i => if (a i).toInt < (b i).toInt then b i else a i)) ∧
  (
  let a := fun (i : Iss) => i.s (rA i.w)
  let sx := fun (i : Iss) => (BitVec.ofNat 28 (bits i.w 27 0)).signExtend 64
  let zx := fun (i : Iss) => BitVec.ofNat 64 (bits i.w 27 0)
  WritesScalar .addi opAddi 0x20 (fun _ i => a i + sx i) ∧
  WritesScalar .andi opAndi 0x21 (fun _ i => a i &&& zx i) ∧
  WritesScalar .ori opOri 0x22 (fun _ i => a i ||| zx i) ∧
  WritesScalar .xori opXori 0x23 (fun _ i => a i ^^^ zx i) ∧
  WritesScalar .shli opShli 0x24 (fun _ i => a i <<< (bits i.w 27 0 % 64)) ∧
  WritesScalar .shri opShri 0x25 (fun _ i => a i >>> (bits i.w 27 0 % 64)) ∧
  WritesScalar .srai opSrai 0x26 (fun _ i => (a i).sshiftRight (bits i.w 27 0 % 64)) ∧
  WritesScalar .slti opSlti 0x27 (fun _ i => if (a i).toInt < (sx i).toInt then 1 else 0) ∧
  WritesScalar .li opLi 0x28 (fun _ i => sx i) ∧
  WritesScalar .lis opLis 0x29 (fun _ i => (i.s (rD i.w) <<< 28) ||| zx i))

/-- R34, R79, R82, R83: the instructions that read a loop counter, a tag's status, a system value or a predicate register into
s[SD], and `pmov`, which writes bits [15:0] of s[SA] into p[PD]: p0 discards the write and reads FFFFh. -/
def Obligations.ScalarReadsAndPredicates : Prop :=
  (
  WritesScalar .rdlc opRdlc 0x07 (fun s i => BitVec.ofNat 64 ((s.dev.core i.c).log.loopCtr (bits i.w 1 0))) ∧
  WritesScalar .rdct opRdct 0x08 (fun s i => BitVec.ofNat 64 ((s.dev.core i.c).log.tagStatus (bits i.w 4 0))) ∧
  WritesScalar .prd opPrd 0x1F (fun s i =>
    ((if bits i.w 27 25 = 0 then 0xFFFF else NMap.get 0 (s.dev.core i.c).log.p (bits i.w 27 25)) : BitVec 16).setWidth 64) ∧
  WritesScalar .rdsys opRdsys 0x1D (fun s i =>
    match bits i.w 7 0 with
    | 0 => BitVec.ofNat 64 (s.dev.lid i.c)
    | 1 => BitVec.ofNat 64 (bits (s.dev.reg 0x18) 13 0)
    | 2 => BitVec.ofNat 64 s.dev.step.inForce
    | 3 => s.dev.now
    | 4 => BitVec.ofNat 64 s.dev.epoch
    | _ => BitVec.ofNat 64 ((s.dev.core i.c).fld Fld.CORE_PROG_REGION_REGION))) ∧
  (
  ∀ (s : State) (c : Nat) (i : Iss), Issues opPmov s c i → opcodeOf i.w = 0x1E ∧
    Completes (.pmov c) s fun e =>
      (∀ n, (e.core c).log.preg n =
        if n = 0 then 0xFFFF else if n = bits i.w 37 35 then (i.s (rA i.w)).setWidth 16 else (s.dev.core c).log.preg n) ∧
      CoreOnly c s.dev e ∧ (∀ n, (e.core c).log.sreg n = (s.dev.core c).log.sreg n) ∧ (e.core c).log.v = (s.dev.core c).log.v ∧
      (e.core c).log.spad = (s.dev.core c).log.spad ∧ Goes (s.dev.core c).log (e.core c).log i.pc none)

/-- R79, R43, R81: `nop` and `wait` go on to the next instruction; `br` goes to TARGET when its comparison holds and else to the
next instruction; `jr` goes to bits [11:0] of s[SA]. None writes a register. R45, R36: `end` issues with no tag pending and empty
units, and its core is DONE with its registers as they were. -/
def Obligations.ControlFlowAndEnd : Prop :=
  (
  let a := fun (i : Iss) => i.s (rD i.w)
  let b := fun (i : Iss) => i.s (rA i.w)
  GoesOn .nop opNop 0x00 (fun i => i.pc) (fun _ => none) ∧
  GoesOn .wait opWait 0x02 (fun i => i.pc) (fun _ => none) ∧
  (∀ (s : State) (c : Nat) (i : Iss), Issues opWait s c i → ∀ t, t < 32 → bit i.w t = true →
    (s.dev.core c).log.ctPend.testBit t = false) ∧
  GoesOn .br opBr 0x03 (fun i => i.pc) (fun i =>
    if (match bits i.w 27 25 with
      | 0 => decide (a i = b i)
      | 1 => decide (a i ≠ b i)
      | 2 => decide ((a i).toInt < (b i).toInt)
      | 3 => decide ((b i).toInt ≤ (a i).toInt)
      | 4 => decide ((a i).toNat < (b i).toNat)
      | 5 => decide ((b i).toNat ≤ (a i).toNat)
      | _ => true) then some (bits i.w 11 0) else none) ∧
  GoesOn .jr opJr 0x05 (fun i => i.pc) (fun i => some (bits (b i) 11 0))) ∧
  (
  ∀ (s : State) (c : Nat) (i : Iss), Issues opEnd s c i →
    (opcodeOf i.w = 0x01 ∧ (s.dev.core c).log.vu = [] ∧ (s.dev.core c).log.mu = [] ∧
      ∀ t, t < 32 → (s.dev.core c).log.ctPend.testBit t = false) ∧
    Completes (.endProg c) s fun e =>
      (e.core c).log.state = .done ∧ CoreOnly c s.dev e ∧ LogKeeps [] [] 0 0 (s.dev.core c).log (e.core c).log)

/-- R81, R82: `jal` writes pc + 1 and goes to TARGET; `loop` sets its counter to COUNT, or to bits [19:0] of s[SA] under CS, and
runs its body from pc + 1, or with count 0 goes on as after TARGET. At the end of a body with lc at n + 1 the core decreases it and
repeats the body while it is not 0, and ends the loop at 0. -/
def Obligations.JumpAndLoops : Prop :=
  (
  (∀ (s : State) (c : Nat) (i : Iss), Issues opJal s c i → opcodeOf i.w = 0x04 ∧
    Completes (.jal c) s fun e =>
      (e.core c).log.sreg (rD i.w) = BitVec.ofNat 64 (i.pc + 1) ∧ CoreOnly c s.dev e ∧
      LogKeeps [rD i.w] [] 0 0 (s.dev.core c).log (e.core c).log ∧
      Goes (s.dev.core c).log (e.core c).log i.pc (some (bits i.w 11 0))) ∧
  (∀ (s : State) (c : Nat) (i : Iss), Issues opLoop s c i → opcodeOf i.w = 0x06 ∧
    let n := if bit i.w 35 then bits (i.s (bits i.w 34 30)) 19 0 else bits i.w 34 15
    Completes (.loop c) s fun e =>
      CoreOnly c s.dev e ∧ LogKeeps [] [] 0 0 (s.dev.core c).log (e.core c).log ∧
      (n ≠ 0 → (e.core c).log.loopCtr (bits i.w 37 36) = n ∧ i.pc < bits i.w 11 0 ∧ (e.core c).log.pc = i.pc + 1 ∧
        (e.core c).log.loops =
          { k := bits i.w 37 36, start := i.pc + 1, stop := bits i.w 11 0 } :: (s.dev.core c).log.loops) ∧
      (n = 0 → Goes ((s.dev.core c).log.setLC (bits i.w 37 36) 0) (e.core c).log (bits i.w 11 0) none))) ∧
  (
  ∀ (l : LCore) (x : Loop) (ls : List Loop) (n : Nat), l.loops = x :: ls → l.loopCtr x.k = n + 1 → n < 2 ^ 20 - 1 →
    (0 < n → (l.advance x.stop none).pc = x.start ∧ (l.advance x.stop none).loops = l.loops ∧
      (l.advance x.stop none).loopCtr x.k = n) ∧
    (n = 0 → ls = [] → (l.advance x.stop none).pc = x.stop + 1 ∧ (l.advance x.stop none).loops = [] ∧
      (l.advance x.stop none).loopCtr x.k = 0) ∧
    (∀ t, x.start ≤ t → t ≤ x.stop → (l.advance x.stop (some t)).pc = t ∧ (l.advance x.stop (some t)).loops = l.loops ∧
      (l.advance x.stop (some t)).lc = l.lc))

/-- R84, R61, R62: `bgate` sets and `bwake` clears the GATE bits its MASK names, bit 7 aside; a wake takes one bank at a time, the
lowest first. R61, R62: a gate takes effect by losing the bank's contents and its power; a wake ends with the bank powered, reading
as zeros without errors unless a flip of it is armed (R266); no other bank changes. -/
def Obligations.BankGates : Prop :=
  (
  let gate := fun (k : Core) => k.fld Fld.CORE_BANK_GATE_GATE
  let wakes := fun (k : Core) (n : Option Nat) => ∀ b, n = some b → b < 8 ∧ (gate k).testBit b = false ∧
    k.sil.powered.testBit b = false ∧ ∀ a, a < b → (gate k).testBit a = true ∨ k.sil.powered.testBit a = true
  (∀ (s : State) (c : Nat) (i : Iss), Issues opBgate s c i → opcodeOf i.w = 0x2A ∧
    Completes (.bgate c) s fun e =>
      (∀ b, b < 8 → (gate (e.core c)).testBit b =
        (decide (b < 7) && ((gate (s.dev.core c)).testBit b || bit i.w b))) ∧
      CoreOnly c s.dev e ∧ LogKeeps [] [] 0 0 (s.dev.core c).log (e.core c).log ∧ Goes (s.dev.core c).log (e.core c).log i.pc none) ∧
  (∀ (s : State) (c : Nat) (i : Iss), Issues opBwake s c i → opcodeOf i.w = 0x2B ∧ (s.dev.core c).sil.waking = none ∧
    Completes (.bwake c) s fun e =>
      (∀ b, b < 8 → (gate (e.core c)).testBit b =
        (decide (b < 7) && ((gate (s.dev.core c)).testBit b && !bit i.w b))) ∧
      wakes (e.core c) (e.core c).sil.waking ∧
      CoreOnly c s.dev e ∧ LogKeeps [] [] 0 0 (s.dev.core c).log (e.core c).log ∧ Goes (s.dev.core c).log (e.core c).log i.pc none)) ∧
  (
  ∀ (s : State) (c b : Nat), c < numCores → b < 8 →
    let k := s.dev.core c
    let lost := fun (e : Dev) => (∀ a, bankOf a = b → NMap.get 0 (e.core c).log.spad a = 0) ∧
      (∀ a, bankOf a ≠ b → NMap.get 0 (e.core c).log.spad a = NMap.get 0 k.log.spad a) ∧
      (∀ w, bankOf (64 * w) = b → NMap.get [] (e.core c).sil.errs w = [] ∧ NMap.get none (e.core c).sil.fold w = none) ∧
      CoreOnly c s.dev e ∧ (∀ n, (e.core c).log.sreg n = k.log.sreg n)
    ((k.fld Fld.CORE_BANK_GATE_GATE).testBit b = true → k.sil.powered.testBit b = true →
      Completes (.bankGateEffect c b) s fun e => lost e ∧ (e.core c).sil.powered.testBit b = false) ∧
    (((k.fld Fld.CORE_BANK_GATE_GATE).testBit b = false ∨ k.sil.powered.testBit b = false) →
      Completes (.bankGateEffect c b) s fun e => e.core c = k) ∧
    (k.sil.waking = some b → (k.fld Fld.CORE_SPAD_FLIP_ARM_ARM).testBit b = false → Completes (.bankWakeEnd c b) s fun e =>
      lost e ∧ (e.core c).sil.powered.testBit b = true) ∧
    (k.sil.waking = some b → (k.fld Fld.CORE_SPAD_FLIP_ARM_ARM).testBit b = true → NMap.get 0 k.sil.reach (768 * b) = 0 →
      Completes (.bankWakeEnd c b) s fun e => (e.core c).sil.powered.testBit b = true ∧
        (∀ a, bankOf a = b → NMap.get 0 (e.core c).log.spad a = 0) ∧
        NMap.get [] (e.core c).sil.errs (768 * b) = addErr [] (flipSlots (k.reg (0x640 + 8 * b))) ∧
        ((e.core c).fld Fld.CORE_SPAD_FLIP_ARM_ARM).testBit b = false ∧ ((e.core c).fld Fld.CORE_SPAD_FLIP_ARM_APPLIED).testBit b = true) ∧
    (k.sil.waking ≠ some b → Completes (.bankWakeEnd c b) s fun e => e.core c = k))

/-! ### Loads and stores -/

/-- R85, R86: a load from the own scratchpad takes its SIZE bytes, lowest first, at s[SA] + OFF: `ld` extends them with zeros, `lds`
with the sign, `ldv` fills lanes 0 to SIZE / 4 − 1 of v[D] and leaves the others; a store writes the low SIZE bytes of s[D] or v[D]
there and no other byte; the address is a multiple of the size. -/
def Obligations.LocalLoadsAndStores : Prop :=
  (
  ∀ (s : State) (c : Nat) (i : Iss) (b : Nat), decodeEa (s.dev.lid c) (effAddr i) = .own b → CleanSpad (s.dev.core c) →
    let l := (s.dev.core c).log
    let n := accessBytes i
    let x := ofBytes (getBytes l.spad b n)
    let leaves := fun (ss vs : List Nat) (e : Dev) => CoreOnly c s.dev e ∧ LogKeeps ss vs 0 0 l (e.core c).log ∧
      Goes l (e.core c).log i.pc none ∧ effAddr i % n = 0 ∧ b + n ≤ 0x60000
    (Issues opLd s c i → opcodeOf i.w = 0x30 ∧ n ≤ 8 ∧
      Completes (.ld c) s fun e => (e.core c).log.sreg (rD i.w) = BitVec.ofNat 64 x ∧ leaves [rD i.w] [] e) ∧
    (Issues opLds s c i → opcodeOf i.w = 0x31 ∧ n ≤ 8 ∧
      Completes (.lds c) s fun e =>
        (e.core c).log.sreg (rD i.w) = (BitVec.ofNat (8 * n) x).signExtend 64 ∧ leaves [rD i.w] [] e) ∧
    (Issues opLdv s c i → opcodeOf i.w = 0x33 ∧ 16 ≤ n ∧ n ≤ 64 ∧
      Completes (.ldv c) s fun e =>
        (∀ j, j < 16 → lane ((e.core c).log.vreg (rD i.w)) j =
          if j < n / 4 then BitVec.ofNat 32 (ofBytes (getBytes l.spad (b + 4 * j) 4)) else lane (l.vreg (rD i.w)) j) ∧
        leaves [] [rD i.w] e)) ∧
  (
  ∀ (s : State) (c : Nat) (i : Iss) (b : Nat), decodeEa (s.dev.lid c) (effAddr i) = .own b → CleanSpad (s.dev.core c) →
    let l := (s.dev.core c).log
    let n := accessBytes i
    let leaves := fun (e : Dev) => CoreOnly c s.dev e ∧ LogKeeps [] [] b (b + n) l (e.core c).log ∧
      Goes l (e.core c).log i.pc none ∧ effAddr i % n = 0 ∧ b + n ≤ 0x60000
    (Issues opSt s c i → opcodeOf i.w = 0x32 ∧ n ≤ 8 ∧
      Completes (.st c) s fun e =>
        (∀ j, j < n → NMap.get 0 (e.core c).log.spad (b + j) = (l.sreg (rD i.w)).extractLsb' (8 * j) 8) ∧ leaves e) ∧
    (Issues opStv s c i → opcodeOf i.w = 0x34 ∧ 16 ≤ n ∧ n ≤ 64 ∧
      Completes (.stv c) s fun e =>
        (∀ j, j < n → NMap.get 0 (e.core c).log.spad (b + j) = (l.vreg (rD i.w)).extractLsb' (8 * j) 8) ∧ leaves e))

/-- R85, R60, R43: a MEM instruction with another core's window is a tagged remote access: with RT = 1 its tag becomes pending and
its gateway, when free, sends READ with the address and size, or WRITE with the bytes of the data register at issue, to the core
that holds the window; no register of the core changes and it goes on. -/
def Obligations.RemoteAccessIsTagged : Prop :=
  ∀ (s : State) (c : Nat) (i : Iss) (id b : Nat), decodeEa (s.dev.lid c) (effAddr i) = .remote id b → GatewayFree s.dev c →
    (s.dev.hostOf id).isSome = true →
    let l := (s.dev.core c).log
    let n := accessBytes i
    let sends := fun (t : PType) (aux : Nat) (data : List Byte) (e : Dev) =>
      Sent s c e t (fun p => p.addr = effAddr i ∧ p.dstCore = id ∧ p.aux = aux ∧ p.payload = data) ∧
      (e.core c).log.ctPend.testBit (bits i.w 23 19) = true ∧ (∀ r, (e.core c).log.sreg r = l.sreg r) ∧
      (e.core c).log.v = l.v ∧ (e.core c).log.spad = l.spad ∧ e.mem = s.dev.mem ∧ Goes l (e.core c).log i.pc none ∧
      bit i.w 24 = true ∧ l.ctPend.testBit (bits i.w 23 19) = false
    (Issues opLd s c i → Completes (.ld c) s (sends .read n [])) ∧
    (Issues opLds s c i → Completes (.lds c) s (sends .read n [])) ∧
    (Issues opLdv s c i → Completes (.ldv c) s (sends .read n [])) ∧
    (Issues opSt s c i → Completes (.st c) s (sends .write 0 ((leBytes 8 (l.sreg (rD i.w)).toNat).take n))) ∧
    (Issues opStv s c i → Completes (.stv c) s (sends .write 0 ((lineBytes (l.vreg (rD i.w))).take n)))

/-! ### Vector register instructions -/

/-- R79, R89, R118: the lanes of the instructions that move, select, add integers, and change signs. -/
def Obligations.VectorMovesAndSigns : Prop :=
  let nan := fun (x : Lane) => bits x 30 23 == 255 && bits x 22 0 ≠ 0
  WritesLanes .vmov opVmov 0x4C false laneA ∧
  WritesLanes .viadd opViadd 0x4D false (fun i j => laneA i j + laneB i j) ∧
  WritesLanes .vbcast opVbcast 0x4A false (fun i _ => (i.s (bits i.w 15 11)).setWidth 32) ∧
  WritesLanes .vsel opVsel 0x49 true (fun i j => if laneOn i j then laneA i j else laneB i j) ∧
  WritesLanes .vabs opVabs 0x46 false (fun i j => if nan (laneA i j) then 0x7FC00000 else laneA i j &&& 0x7FFFFFFF) ∧
  WritesLanes .vneg opVneg 0x47 false (fun i j => if nan (laneA i j) then 0x7FC00000 else laneA i j ^^^ 0x80000000)

/-- R118: the lanes of the FP32 instructions; FloatRoundingAndExtremes say what their results are. -/
def Obligations.VectorFloatLanes : Prop :=
  WritesLanes .vadd opVadd 0x40 false (fun i j => fadd (laneA i j) (laneB i j)) ∧
  WritesLanes .vsub opVsub 0x41 false (fun i j => fsub (laneA i j) (laneB i j)) ∧
  WritesLanes .vmul opVmul 0x42 false (fun i j => fmul (laneA i j) (laneB i j)) ∧
  WritesLanes .vfma opVfma 0x43 false (fun i j => ffma (laneA i j) (laneB i j) (lane (i.v (bits i.w 22 19)) j)) ∧
  WritesLanes .vmax opVmax 0x44 false (fun i j => fmax (laneA i j) (laneB i j)) ∧
  WritesLanes .vmin opVmin 0x45 false (fun i j => fmin (laneA i j) (laneB i j))

/-- R111, R118: the sum, difference, product and fused product-sum of finite FP32 words is the exact result rounded once to nearest
even, subnormals kept, with overflow to infinity; the sign of a zero result is that of IEEE 754. R112, R118: a NaN operand gives the
canonical NaN, whatever its payload; `vmax` and `vmin` order −0 below +0 and return an operand; a comparison with a NaN is false,
except ne. -/
def Obligations.FloatRoundingAndExtremes : Prop :=
  (
  ∀ a b c : Lane, fpFinite a = true → fpFinite b = true → fpFinite c = true →
    RoundedTo 0 (fpInt a + fpInt b) (fadd a b) ∧
    RoundedTo 0 (fpInt a - fpInt b) (fsub a b) ∧
    RoundedTo 149 (fpInt a * fpInt b) (fmul a b) ∧
    RoundedTo 149 (fpInt a * fpInt b + fpInt c * 2 ^ 149) (ffma a b c) ∧
    (fpInt a * fpInt b = 0 → bit (fmul a b) 31 = (bit a 31 != bit b 31)) ∧
    (fpInt a + fpInt b = 0 → bit (fadd a b) 31 = (bit a 31 && bit b 31))) ∧
  (
  ∀ a b c : Lane,
    (fpNaN a = true ∨ fpNaN b = true → fadd a b = 0x7FC00000 ∧ fsub a b = 0x7FC00000 ∧ fmul a b = 0x7FC00000 ∧
      ffma a b c = 0x7FC00000 ∧ fmax a b = 0x7FC00000 ∧ fmin a b = 0x7FC00000 ∧ (∀ n, n < 6 → fcmp n a b = (n == 1))) ∧
    (fpFinite a = true → fpFinite b = true →
      let below := fpInt a < fpInt b ∨ (fpInt a = 0 ∧ fpInt b = 0 ∧ bit a 31 = true ∧ bit b 31 = false)
      (below → fmax a b = b ∧ fmin a b = a ∧ fmax b a = b ∧ fmin b a = a) ∧
      fcmp 0 a b = decide (fpInt a = fpInt b) ∧ fcmp 1 a b = decide (fpInt a ≠ fpInt b) ∧
      fcmp 2 a b = decide (fpInt a < fpInt b) ∧ fcmp 3 a b = decide (fpInt a ≤ fpInt b) ∧
      fcmp 4 a b = decide (fpInt b < fpInt a) ∧ fcmp 5 a b = decide (fpInt b ≤ fpInt a)))

/-- R89, R79: with an empty unit `vcmp` writes p[VD bits [2:0]], 0 for a lane off in p[PG], and `vext` writes one lane of VA into
s[SS], zero-extended; neither has a stream destination. -/
def Obligations.VectorToScalarAndPredicate : Prop :=
  (∀ (s : State) (c : Nat) (i : Iss), Issues opVcmp s c i → (s.dev.core c).log.vu = [] →
    opcodeOf i.w = 0x48 ∧ bit i.w 37 = false ∧ bits i.w 10 8 ≤ 5 ∧
    let l := (s.dev.core c).log
    Completes (.vcmp c) s fun e =>
      (∀ j, j < 16 → bits i.w 36 33 % 8 ≠ 0 →
        bit ((e.core c).log.preg (bits i.w 36 33 % 8)) j = (laneOn i j && fcmp (bits i.w 10 8) (laneA i j) (laneB i j))) ∧
      (∀ n, n ≠ bits i.w 36 33 % 8 → (e.core c).log.preg n = l.preg n) ∧ (e.core c).log.preg 0 = 0xFFFF ∧
      (∀ n, (e.core c).log.sreg n = l.sreg n) ∧ (∀ n, (e.core c).log.vreg n = l.vreg n) ∧
      CoreOnly c s.dev e ∧ Goes l (e.core c).log i.pc none) ∧
  (∀ (s : State) (c : Nat) (i : Iss), Issues opVext s c i → (s.dev.core c).log.vu = [] →
    opcodeOf i.w = 0x4B ∧ bit i.w 37 = false ∧
    let l := (s.dev.core c).log
    Completes (.vext c) s fun e =>
      (e.core c).log.sreg (bits i.w 15 11) = (laneA i (bits i.w 7 4)).setWidth 64 ∧
      CoreOnly c s.dev e ∧ LogKeeps [bits i.w 15 11] [] 0 0 l (e.core c).log ∧ Goes l (e.core c).log i.pc none)

/-! ### Instructions that take a place in a unit -/

/-- R41, R43: the scratchpad vector instructions and the matrix instructions issue into their unit, which holds one executing and
one queued instruction. R92, R98–R100, R118, R119, R305–R307: each of the vector ones, issued into an empty unit, has run when its
occupancy ends: the elementwise ones, the conversions and the block fixed point ones write their results over the destination and no
other byte, `vssum` and `vsamax` write s[SD]; a block of exponent FFh without its flag unpacks to values the spec leaves open (log 3). -/
def Obligations.UnitInstructionsTakePlace : Prop :=
  TakesPlace .vsadd opVsadd 0x50 LCore.vu ∧ TakesPlace .vsmul opVsmul 0x51 LCore.vu ∧ TakesPlace .vsaxpy opVsaxpy 0x52 LCore.vu ∧
  TakesPlace .vssum opVssum 0x53 LCore.vu ∧ TakesPlace .vsamax opVsamax 0x54 LCore.vu ∧ TakesPlace .vscvt opVscvt 0x55 LCore.vu ∧
  TakesPlace .vsquant opVsquant 0x56 LCore.vu ∧ TakesPlace .vsdequant opVsdequant 0x57 LCore.vu ∧
  TakesPlace .mout opMout 0x58 LCore.vu ∧ TakesPlace .mld opMld 0x59 LCore.vu ∧ TakesPlace .bfxexp opBfxexp 0x5C LCore.vu ∧
  TakesPlace .bfxpack opBfxpack 0x5D LCore.vu ∧ TakesPlace .bfxunpack opBfxunpack 0x5E LCore.vu ∧
  TakesPlace .sgate opSgate 0x80 LCore.vu ∧ TakesPlace .saudit opSaudit 0x81 LCore.vu ∧
  TakesPlace .mma opMma 0x60 LCore.mu ∧ TakesPlace .mmasp opMmasp 0x61 LCore.mu ∧ TakesPlace .mmag opMmag 0x62 LCore.mu ∧
  (
  let any := fun (_ : State) (_ : Nat) (_ : Iss) => True
  let maps := fun (f : Iss → Lane → Lane → Lane) (s : State) (c : Nat) (i : Iss) (e : Dev) =>
    ∀ a b d, ownRange (s.dev.lid c) (regA i) (4 * regN i) = some a → ownRange (s.dev.lid c) (regB i) (4 * regN i) = some b →
      ownRange (s.dev.lid c) (regD i) (4 * regN i) = some d → UnitRan c i [] [] d (d + 4 * regN i) s.dev e ∧ CoreOnly c s.dev e ∧
      ∀ j, j < regN i → spadWord (e.core c).log (d + 4 * j) =
        f i (spadWord (s.dev.core c).log (a + 4 * j)) (spadWord (s.dev.core c).log (b + 4 * j))
  let reduces := fun (f : List Lane → Lane) (s : State) (c : Nat) (i : Iss) (e : Dev) =>
    ∀ a, ownRange (s.dev.lid c) (regA i) (4 * regN i) = some a →
      UnitRan c i [bits i.w 37 33] [] 0 0 s.dev e ∧ CoreOnly c s.dev e ∧
      (e.core c).log.sreg (bits i.w 37 33) = if regN i = 0 then (s.dev.core c).log.sreg (bits i.w 37 33)
        else (f (spadWords (s.dev.core c).log a (regN i))).setWidth 64
  let writes := fun (src len : Iss → Nat) (val : State → Nat → Iss → Nat → List Byte) (s : State) (c : Nat) (i : Iss) (e : Dev) =>
    ∀ a d, ownRange (s.dev.lid c) (regA i) (src i) = some a → ownRange (s.dev.lid c) (regD i) (len i) = some d →
      UnitRan c i [] [] d (d + len i) s.dev e ∧ CoreOnly c s.dev e ∧ getBytes (e.core c).log.spad d (len i) = val s c i a
  let low := fun (i : Iss) => bits i.w 12 5 % 8
  let high := fun (i : Iss) => bits i.w 12 5 / 8 % 8
  let block := fun (i : Iss) => if bit i.w 5 then 256 else 384
  let words := fun (i : Iss) => 4 * regN i
  Runs .vsadd .vsCompletion opVsadd 0x50 LCore.vu any (maps fun _ => fadd) ∧
  Runs .vsmul .vsCompletion opVsmul 0x51 LCore.vu any (maps fun _ => fmul) ∧
  Runs .vsaxpy .vsCompletion opVsaxpy 0x52 LCore.vu any (maps fun i x y => ffma x ((regX i).setWidth 32) y) ∧
  Runs .vssum .vsCompletion opVssum 0x53 LCore.vu any (reduces vecSum) ∧
  Runs .vsamax .vsCompletion opVsamax 0x54 LCore.vu any (reduces vecAmax) ∧
  Runs .vscvt .vsCompletion opVscvt 0x55 LCore.vu any (writes (fun i => packedLen (low i) (regN i)) (fun i => packedLen (high i) (regN i))
    fun s c i a => packEls (high i) ((List.range (regN i)).map fun j =>
      let v := decodeEl (low i) (unpackEl (low i) (getBytes (s.dev.core c).log.spad a (packedLen (low i) (regN i))) j)
      if bit i.w 11 = true ∧ s.dev.fld Fld.COB_NUMERICS_LEVEL_APPLIED_LEVEL = 1 then
        encodeStoch (high i) (s.dev.draw s.dev.stepNo 1 (bits (regX i) 11 0) (s.dev.lid c) 0 j) v
      else encodeEl (high i) v)) ∧
  Runs .vsquant .vsCompletion opVsquant 0x56 LCore.vu any (writes words (fun i => scaledLen (low i) (regN i)) fun s c i a =>
    quantBlocks (low i) (signed 8 (regX i).toNat) ((List.range (regN i / 32)).map fun b =>
      (spadWords (s.dev.core c).log (a + 128 * b) 32).map f32)) ∧
  Runs .vsdequant .vsCompletion opVsdequant 0x57 LCore.vu any (writes (fun i => scaledLen (low i) (regN i)) words fun s c i a =>
    let bs := getBytes (s.dev.core c).log.spad a (scaledLen (low i) (regN i))
    lanesBytes ((List.range (regN i)).map fun j =>
      toF32 (scaledVal (low i) (unpackEl (low i) bs j) (byteAt bs (packedLen (low i) (regN i) + j / 32)) (signed 8 (regX i).toNat)))) ∧
  Runs .bfxexp .vsCompletion opBfxexp 0x5C LCore.vu any (writes words (fun i => regN i / 64) fun s c i a =>
    (List.range (regN i / 64)).map fun b => BitVec.ofNat 8
      ((spadWords (s.dev.core c).log (a + 256 * b) 64).foldl (fun m x => max m (bits x 30 23)) 0)) ∧
  Runs .bfxpack .vsCompletion opBfxpack 0x5D LCore.vu any (fun s c i e =>
    ∀ x, ownRange (s.dev.lid c) (regB i) (regN i / 64) = some x → writes words (fun i => regN i / 64 * block i) (fun s c i a =>
      (List.range (regN i / 64)).flatMap fun b => bfxBlock i.w (NMap.get 0 (s.dev.core c).log.spad (x + b)).toNat
        (spadWords (s.dev.core c).log (a + 256 * b) 64)) s c i e) ∧
  Runs .bfxunpack .vsCompletion opBfxunpack 0x5E LCore.vu any (fun s c i e =>
    ∀ a x d, ownRange (s.dev.lid c) (regA i) (regN i / 64 * block i) = some a → ownRange (s.dev.lid c) (regB i) (regN i / 64) = some x →
      ownRange (s.dev.lid c) (regD i) (4 * regN i) = some d → UnitRan c i [] [] d (d + 4 * regN i) s.dev e ∧ CoreOnly c s.dev e ∧
      ∀ b j, b < regN i / 64 → j < 64 →
        let bs := getBytes (s.dev.core c).log.spad (a + block i * b) (block i)
        let z := if bit i.w 5 then 3 else 5
        let ex := (NMap.get 0 (s.dev.core c).log.spad (x + b)).toNat
        let v := signed (8 * z) (ofBytes (slice bs (z * j) z))
        (byteAt bs (64 * z + 1) % 2 = 1 → spadWord (e.core c).log (d + 256 * b + 4 * j) = 0) ∧
        (byteAt bs (64 * z + 1) % 2 = 0 → ex ≠ 0xFF → spadWord (e.core c).log (d + 256 * b + 4 * j) =
          toF32 (.fin (decide (v < 0)) v.natAbs ((ex : Int) - if bit i.w 5 then 135 else 151)))))

/-- R43, R118, R119: the completion of an elementwise instruction writes its results over scratchpad words and no other byte, that
of `vssum` and `vsamax` writes s[SD]; the tag clears with `ok`. R119: `vssum` adds the elements of each residue class of their index
modulo 16 in ascending order from +0.0, then the 16 lane sums in a fixed tree of neighbouring pairs. -/
def Obligations.VectorScratchpadSums : Prop :=
  (
  ∀ (s : State) (c : Nat) (u : UOp) (t a b d : Nat), AtVector s c u t → u.n ≠ 0 →
    ownRange (s.dev.lid c) u.a.toNat (4 * u.n.toNat) = some a →
    let l := (s.dev.core c).log
    let n := u.n.toNat
    let done := fun (e : Dev) => (e.core c).log.ctPend.testBit t = false ∧ (e.core c).log.tagStatus t = 0 ∧ e.mem = s.dev.mem ∧
      (e.core c).log.vu.length < l.vu.length ∧ (∀ j, j ≠ c → e.core j = s.dev.core j)
    let maps := fun (f : Lane → Lane → Lane) => ownRange (s.dev.lid c) u.b.toNat (4 * n) = some b →
      ownRange (s.dev.lid c) u.d.toNat (4 * n) = some d →
      Completes (.vsCompletion c) s fun e =>
        (∀ j, j < n → spadWord (e.core c).log (d + 4 * j) = f (spadWord l (a + 4 * j)) (spadWord l (b + 4 * j))) ∧
        (∀ x, ¬ (d ≤ x ∧ x < d + 4 * n) → NMap.get 0 (e.core c).log.spad x = NMap.get 0 l.spad x) ∧ done e
    let reduces := fun (f : List Lane → Lane) =>
      Completes (.vsCompletion c) s fun e =>
        (e.core c).log.sreg (rD u.w) = (f ((List.range n).map fun j => spadWord l (a + 4 * j))).setWidth 64 ∧
        (e.core c).log.spad = l.spad ∧ done e
    (opcodeOf u.w = 0x50 → maps fadd) ∧ (opcodeOf u.w = 0x51 → maps fmul) ∧
    (opcodeOf u.w = 0x52 → maps fun x y => ffma x (u.x.setWidth 32) y) ∧
    (opcodeOf u.w = 0x53 → reduces vecSum) ∧ (opcodeOf u.w = 0x54 → reduces vecAmax)) ∧
  (
  ∀ xs : List Lane,
    let s := fun (l : Nat) => ((List.range ((xs.length + 15 - l) / 16)).map fun j => xs.getD (16 * j + l) 0).foldl fadd 0
    let q := fun (l : Nat) => fadd (fadd (s l) (s (l + 1))) (fadd (s (l + 2)) (s (l + 3)))
    vecSum xs = fadd (fadd (q 0) (q 4)) (fadd (q 8) (q 12)))

/-- R97, R43: `mld` writes 512 row-major FP32 words into a cleared tile; `mout` writes the tile's 512 elements in the format FN names, FP32
as they stand, and clears the tile when FN[3] is set. R94–R97, R120–R122, R155–R158: a matrix instruction of at most 128 products per
element adds their sum to each element of its tile, from zero when Z is set: the exact INT8 sum saturated at the 32-bit range, another
format's rounded once; B is dense, decompressed from tiles that pass their checks, or gathered from the listed columns; its tag clears
with `ok` where its region stops on no condition of the tile. -/
def Obligations.TilesAndInt8Product : Prop :=
  (
  ∀ (s : State) (c : Nat) (u : UOp) (t a : Nat), AtVector s c u t →
    let l := (s.dev.core c).log
    let n := rA u.w % 4
    (opcodeOf u.w = 0x59 → ownRange (s.dev.lid c) u.b.toNat 2048 = some a → Completes (.vsCompletion c) s fun e =>
      (∀ i, i < 512 → ((e.core c).log.tile n).at i = spadWord l (a + 4 * i)) ∧ ((e.core c).log.tile n).isInt = false ∧
      ((e.core c).log.tile n).sat = false ∧ (∀ m, m ≠ n → (e.core c).log.tile m = l.tile m) ∧ (e.core c).log.spad = l.spad ∧
      (e.core c).log.ctPend.testBit t = false ∧ (e.core c).log.tagStatus t = 0) ∧
    (opcodeOf u.w = 0x58 → fnLo u.w = 0 → ownRange (s.dev.lid c) u.d.toNat 2048 = some a → Completes (.vsCompletion c) s fun e =>
      (∀ i, i < 512 → spadWord (e.core c).log (a + 4 * i) = (l.tile n).at i) ∧
      (∀ x, ¬ (a ≤ x ∧ x < a + 2048) → NMap.get 0 (e.core c).log.spad x = NMap.get 0 l.spad x) ∧
      (bit u.w 8 = true → (∀ i, ((e.core c).log.tile n).at i = 0) ∧ ((e.core c).log.tile n).isInt = false) ∧
      (bit u.w 8 = false → (e.core c).log.tile n = l.tile n) ∧ (∀ m, m ≠ n → (e.core c).log.tile m = l.tile m) ∧
      (e.core c).log.ctPend.testBit t = false ∧ (e.core c).log.tagStatus t = 0)) ∧
  (
  ∀ (s : State) (c : Nat) (u : UOp) (t a b : Nat),
    c < numCores → (∃ us, (s.dev.core c).log.mu = u :: us) → u.tag = some t → t < 32 → CleanSpad (s.dev.core c) →
    opcodeOf u.w = 0x60 → bits u.w 20 18 = 5 → u.n.toNat % 32 = 0 → 32 ≤ u.n.toNat → u.n.toNat ≤ 128 →
    ownRange (s.dev.lid c) u.a.toNat (u.n.toNat / 32 * 512) = some a →
    ownRange (s.dev.lid c) u.b.toNat (u.n.toNat / 32 * 1024) = some b →
    let l := (s.dev.core c).log
    let n := bits u.w 22 21
    let at8 := fun (x : Nat) => (NMap.get 0 l.spad x : Byte).toInt
    let start := fun (i : Nat) => if bit u.w 12 then 0 else ((l.tile n).at i).toInt
    Completes (.matrixCompletion c) s fun e =>
      (∀ r k, r < 16 → k < 32 → (((e.core c).log.tile n).at (32 * r + k)).toInt =
        max (-(2 ^ 31)) (min (2 ^ 31 - 1) (start (32 * r + k) +
          ((List.range u.n.toNat).map fun j =>
            at8 (a + j / 32 * 512 + 32 * r + j % 32) * at8 (b + j / 32 * 1024 + 32 * k + j % 32)).foldl (· + ·) 0))) ∧
      ((e.core c).log.tile n).isInt = true ∧ (e.core c).log.ctPend.testBit t = false ∧
      (e.core c).log.mu.length < l.mu.length ∧ (e.core c).log.spad = l.spad) ∧
  (
  let any := fun (_ : State) (_ : Nat) (_ : Iss) => True
  let fn := fun (i : Iss) => bits i.w 12 5 % 8
  let tile := fun (i : Iss) => bits i.w 32 28 % 4
  Runs .mld .vsCompletion opMld 0x59 LCore.vu any (fun s c i e => ∀ b, ownRange (s.dev.lid c) (regB i) 2048 = some b →
    UnitRan c i [] [tile i] 0 0 s.dev e ∧ CoreOnly c s.dev e ∧ ((e.core c).log.tile (tile i)).isInt = false ∧
    ∀ j, j < 512 → ((e.core c).log.tile (tile i)).at j = spadWord (s.dev.core c).log (b + 4 * j)) ∧
  Runs .mout .vsCompletion opMout 0x58 LCore.vu any (fun s c i e => ∀ d, ownRange (s.dev.lid c) (regD i) (moutLen (fn i)) = some d →
    let t := (s.dev.core c).log.tile (tile i)
    let x := signed 8 (regX i).toNat
    UnitRan c i [] (if bit i.w 8 then [tile i] else []) d (d + moutLen (fn i)) s.dev e ∧ CoreOnly c s.dev e ∧
    (bit i.w 8 = true → ∀ j, ((e.core c).log.tile (tile i)).at j = 0) ∧
    (fn i = 0 → ∀ j, j < 512 → spadWord (e.core c).log (d + 4 * j) = t.at j) ∧
    (fn i = 1 ∨ fn i = 2 ∨ fn i = 6 → getBytes (e.core c).log.spad d (moutLen (fn i)) =
      packEls (fn i) ((List.range 512).map fun j => encodeEl (fn i) ((t.val j).scale (-x)))) ∧
    (3 ≤ fn i → fn i ≤ 5 → getBytes (e.core c).log.spad d (moutLen (fn i)) =
      quantBlocks (fn i) x ((List.range 16).map fun r => (List.range 32).map fun k => t.val (32 * r + k))))) ∧
  (
  let fmt := fun (i : Iss) => bits i.w 20 18
  let tile := fun (i : Iss) => bits i.w 22 21
  let adr := fun (i : Iss) (n : Nat) => (i.s n).toNat
  let k := fun (i : Iss) => adr i (bits i.w 27 23)
  let at8 := fun (l : LCore) (x : Nat) => (NMap.get 0 l.spad x : Byte).toInt
  let calm := fun (s : State) (c : Nat) =>
    bits (s.dev.reg (0x480 + 8 * (s.dev.core c).fld Fld.CORE_PROG_REGION_REGION)) 10 8 = 0
  -- the tile after one group of products with B element (j, col) as `b` gives it
  let result := fun (b : Nat → Nat → FV) (s : State) (c : Nat) (i : Iss) (e : Dev) =>
    let l := (s.dev.core c).log
    let old := fun (x : Nat) => if bit i.w 12 then (0 : Lane) else (l.tile (tile i)).at x
    UnitRan c i [] [tile i] 0 0 s.dev e ∧ ((e.core c).log.tile (tile i)).isInt = decide (fmt i = 5) ∧
    ∀ a, ownRange (s.dev.lid c) (adr i (bits i.w 37 33)) (k i / 32 * aBlock (fmtA (fmt i))) = some a → k i ≤ 128 →
      ∀ r col, r < 16 → col < 32 →
        (fmt i = 5 → (((e.core c).log.tile (tile i)).at (32 * r + col)).toInt =
          max (-(2 ^ 31)) (min (2 ^ 31 - 1) ((old (32 * r + col)).toInt +
            ((List.range (k i)).map fun j => at8 l (a + j / 32 * 512 + 32 * r + j % 32) * (b j col).at 0).foldl (· + ·) 0))) ∧
        (fmt i ≠ 5 → bit i.w 11 = false → ((e.core c).log.tile (tile i)).at (32 * r + col) =
          groupAdd none (old (32 * r + col)) (groupSum ((List.range (k i)).map fun j =>
            (aElem (fmtA (fmt i)) (getBytes l.spad (a + j / 32 * aBlock (fmtA (fmt i))) (aBlock (fmtA (fmt i)))) r (j % 32)).mul (b j col))))
  Runs .mma .matrixCompletion opMma 0x60 LCore.mu (fun s c _ => calm s c) (fun s c i e =>
    let f := fmtB (fmt i)
    ∀ b, ownRange (s.dev.lid c) (adr i (bits i.w 32 28)) (k i / 32 * bTile f) = some b →
      result (fun j col => bElem f (getBytes (s.dev.core c).log.spad (b + j / 32 * bTile f) (bTile f)) (j % 32) col) s c i e) ∧
  (∀ (md : Nat → Word) (y : Nat → Nat),
    Runs .mmasp .matrixCompletion opMmasp 0x61 LCore.mu (fun s c i => calm s c ∧
      ∃ m, ownRange (s.dev.lid c) (adr i (bits i.w 10 6)) (k i / 32 * 8) = some m ∧ ∀ j, j < k i / 32 →
        md j = BitVec.ofNat 64 (ofBytes (getBytes (s.dev.core c).log.spad (m + 8 * j) 8)) ∧ mdBad (fmt i) (md j) = false ∧
        ownRange (s.dev.lid c) (adr i (bits i.w 32 28) + ((List.range j).map fun x => mdSize (md x)).foldl (· + ·) 0) (mdSize (md j)) =
          some (y j) ∧ (s.dev.core c).anyBank (y j) (mdSize (md j)) 1 = false ∧ y j + mdSize (md j) ≤ (s.dev.core c).spillBase ∧
        tileBad (fmtB (fmt i)) (md j) (getBytes (s.dev.core c).log.spad (y j) (mdSize (md j))) = false)
      (fun s c i => result (fun j col => tileElem (fmtB (fmt i)) (md (j / 32))
        (getBytes (s.dev.core c).log.spad (y (j / 32)) (mdSize (md (j / 32)))) (j % 32) col) s c i)) ∧
  (∀ (list : Nat → Nat) (y z : Nat → Nat → Nat),
    let scaled := fun (i : Iss) => 3 ≤ fmtB (fmt i) ∧ fmtB (fmt i) ≤ 5
    Runs .mmag .matrixCompletion opMmag 0x62 LCore.mu (fun s c i => calm s c ∧
      ∃ m, ownRange (s.dev.lid c) (adr i (bits i.w 10 6)) 64 = some m ∧ ∀ col, col < 32 →
        list col = ofBytes (getBytes (s.dev.core c).log.spad (m + 2 * col) 2) ∧ (list col ≠ 0xFFFF → ∀ j, j < k i / 32 →
          let f := fmtB (fmt i)
          let at_ := adr i (bits i.w 32 28) + list col / 32 * (k i / 32) * bTile f + j * bTile f
          let reads := fun (a n x : Nat) => ownRange (s.dev.lid c) a n = some x ∧ (s.dev.core c).anyBank x n 1 = false ∧
            x + n ≤ (s.dev.core c).spillBase
          reads (at_ + list col % 32 * packedLen f 32) (packedLen f 32) (y col j) ∧
          (scaled i → reads (at_ + packedLen f 1024 + list col % 32) 1 (z col j))))
      (fun s c i => result (fun j col => if list col = 0xFFFF then .fin false 0 0
        else
          let f := fmtB (fmt i)
          let l := (s.dev.core c).log
          elemVal f (getBytes l.spad (y col (j / 32)) (packedLen f 32) ++ getBytes l.spad (z col (j / 32)) 1) (j % 32)
            (packedLen f 32)) s c i)))

/-! ### Streams -/

/-- R101: `sbind` binds sc[SC] to the inbound or outbound stream, to the message queue, or to nothing, as SRC says; no other counter
changes, and no other counter holds the source. R102: `srecv` puts the first k = KM1 + 1 words its counter counts into the
scratchpad at s[SA], 64 bytes each, and `srecvv` into v[SA bits [3:0]] onward; nothing else of the scratchpad and no other register
changes. R102, R103, R186: `ssend` and `ssendv` put k data words on the link of their outbound stream, one credit each, tagged with
the stream's generation; `seal` puts a seal on every stream of its mask that has a credit and none waiting, which then advances its
generation, lets the others wait, and clears its tag once none waits. -/
def Obligations.StreamInstructions : Prop :=
  (
  ∀ (s : State) (c : Nat) (i : Iss), Issues opSbind s c i → opcodeOf i.w = 0x70 ∧
    let l := (s.dev.core c).log
    let x := bits i.w 26 20
    let src := if x / 32 = 0 then Bind.inS (x % 32) else if x / 32 = 1 then .outS (x % 32)
      else if x / 32 = 2 then .mq (x % 32) else .unbound
    Completes (.sbind c) s fun e =>
      (∀ n, (e.core c).log.bound n = if n = bits i.w 32 30 then src else l.bound n) ∧
      (src ≠ .unbound → ∀ n, n < 8 → n ≠ bits i.w 32 30 → l.bound n ≠ src) ∧
      CoreOnly c s.dev e ∧ (∀ n, (e.core c).log.sreg n = l.sreg n) ∧ (e.core c).log.v = l.v ∧ (e.core c).log.spad = l.spad ∧
      Goes l (e.core c).log i.pc none) ∧
  (
  (
  ∀ (s : State) (c : Nat) (i : Iss) (q : Nat), (s.dev.core c).log.bound (bits i.w 32 30) = .inS q → CleanSpad (s.dev.core c) →
    let l := (s.dev.core c).log
    let k := bits i.w 29 27 + 1
    let ws := ((s.dev.core c).headWords q k).map StitchWord.data
    (Issues opSrecv s c i → opcodeOf i.w = 0x71 ∧ ws.length = k ∧ (i.s (rD i.w)).toNat % 64 = 0 ∧
      ∃ b, ownRange (s.dev.lid c) (i.s (rD i.w)).toNat (64 * k) = some b ∧ Completes (.srecv c) s fun e =>
        (∀ j x, j < k → x < 64 → NMap.get 0 (e.core c).log.spad (b + 64 * j + x) = lineByte (ws.getD j 0) x) ∧
        (∀ x, ¬ (b ≤ x ∧ x < b + 64 * k) → NMap.get 0 (e.core c).log.spad x = NMap.get 0 l.spad x) ∧
        CoreOnly c s.dev e ∧ (∀ n, (e.core c).log.sreg n = l.sreg n) ∧ (e.core c).log.v = l.v ∧ Goes l (e.core c).log i.pc none) ∧
    (Issues opSrecvv s c i → opcodeOf i.w = 0x73 ∧ ws.length = k ∧ rD i.w % 16 + k ≤ 16 ∧ Completes (.srecvv c) s fun e =>
        (∀ j, j < k → (e.core c).log.vreg (rD i.w % 16 + j) = ws.getD j 0) ∧
        (∀ n, ¬ (rD i.w % 16 ≤ n ∧ n < rD i.w % 16 + k) → (e.core c).log.vreg n = l.vreg n) ∧
        CoreOnly c s.dev e ∧ (∀ n, (e.core c).log.sreg n = l.sreg n) ∧ (e.core c).log.spad = l.spad ∧ Goes l (e.core c).log i.pc none)) ∧
  (
  ∀ (s : State) (c : Nat) (i : Iss), CleanSpad (s.dev.core c) →
    let l := (s.dev.core c).log
    let k := bits i.w 29 27 + 1
    let sends := fun (q : Nat) (data : Nat → Line) (e : Dev) =>
      ((e.core c).log.outQ q).credits = (l.outQ q).credits - k ∧ k ≤ (l.outQ q).credits ∧
      (s.dev.edgeOf c (q / 8) = none → (wordsOn e c (q / 8)).length = k ∧ ∀ j w, (wordsOn e c (q / 8))[j]? = some w →
        w.data = data j ∧ w.kind = 0 ∧ w.stream = q % 8 ∧ w.gen = (l.outQ q).gen ∧ w.epoch = s.dev.epoch % 4) ∧
      CoreOnly c s.dev e ∧ (∀ n, (e.core c).log.sreg n = l.sreg n) ∧ (e.core c).log.v = l.v ∧ (e.core c).log.spad = l.spad ∧
      Goes l (e.core c).log i.pc none
    (∀ q, l.bound (bits i.w 32 30) = .outS q → Issues opSsend s c i → opcodeOf i.w = 0x72 ∧
      ∃ b, ownRange (s.dev.lid c) (i.s (rD i.w)).toNat (64 * k) = some b ∧
        Completes (.ssend c) s (sends q fun j => lineOf (getBytes l.spad (b + 64 * j) 64))) ∧
    (∀ q, l.bound (bits i.w 32 30) = .outS q → Issues opSsendv s c i → opcodeOf i.w = 0x74 ∧
      Completes (.ssendv c) s (sends q fun j => l.vreg (rD i.w % 16 + j))) ∧
    (Issues opSeal s c i → opcodeOf i.w = 0x75 ∧
      let t := bits i.w 19 15
      let free := fun (q : Nat) => (l.outQ q).wait = [] ∧ 0 < (l.outQ q).credits
      l.ctPend.testBit t = false ∧ Completes (.seal c) s fun e =>
        (∀ q, q < 32 → bit (i.s (bits i.w 14 10)) q = true → free q →
          ((e.core c).log.outQ q).credits = (l.outQ q).credits - 1 ∧ ((e.core c).log.outQ q).gen = ((l.outQ q).gen + 1) % 4 ∧
          (s.dev.edgeOf c (q / 8) = none → ∃ w ∈ wordsOn e c (q / 8), w.kind = 1 ∧ w.stream = q % 8 ∧ w.gen = (l.outQ q).gen)) ∧
        (∀ q, q < 32 → bit (i.s (bits i.w 14 10)) q = true → ¬ free q →
          ((e.core c).log.outQ q).wait = (l.outQ q).wait ++ [t] ∧ ((e.core c).log.outQ q).credits = (l.outQ q).credits) ∧
        (∀ q, q < 32 → bit (i.s (bits i.w 14 10)) q = false → (e.core c).log.outQ q = l.outQ q) ∧
        ((e.core c).log.ctPend.testBit t = true ↔ ∃ q, q < 32 ∧ t ∈ ((e.core c).log.outQ q).wait) ∧
        CoreOnly c s.dev e ∧ (∀ n, (e.core c).log.sreg n = l.sreg n) ∧ Goes l (e.core c).log i.pc none)))

/-! ### Messages, barriers, flags -/

/-- R104, R105, R226, R227: with a free gateway, `msend` of a plain message to one hosted core of this device sends MESSAGE with its
TAG and its 32 descriptor bytes; a contribution of at least one unit waits in its gateway unit by unit; a descriptor that fails the
gateway's checks completes with `error`, and the core stops (R44). R106: with an empty vector unit `mrecv` takes the entry at the
head of the queue its counter is bound to into v[VD]. -/
def Obligations.MessageInstructions : Prop :=
  (
  ∀ (s : State) (c : Nat) (i : Iss) (b : Nat), Issues opMsend s c i → CleanSpad (s.dev.core c) →
    ownRange (s.dev.lid c) (i.s (rA i.w)).toNat 32 = some b →
    let l := (s.dev.core c).log
    let x := i.s (rD i.w)
    let desc := getBytes l.spad b 32
    let t := bits i.w 15 11
    opcodeOf i.w = 0x78 ∧ bits x 63 30 = 0 ∧ l.ctPend.testBit t = false ∧
    (descOk s.dev (s.dev.lid c) x desc = false → Completes (.msend c) s fun e =>
      (e.core c).log.tagStatus t = 2 ∧ (e.core c).log.ctPend.testBit t = false ∧ (e.core c).log.state = .faulted) ∧
    (descOk s.dev (s.dev.lid c) x desc = true → GatewayFree s.dev c → bits x 29 28 = 0 → byteAt desc 13 = 0 →
      (s.dev.hostOf (bits x 13 0)).isSome = true → Completes (.msend c) s fun e =>
        Sent s c e .message (fun p => p.dstCore = bits x 13 0 ∧ p.tag = bits i.w 27 16 ∧ p.payload = desc ∧ p.mc = 0) ∧
        (e.core c).log.ctPend.testBit t = true ∧ (e.core c).log.state = .running ∧ (e.core c).log.spad = l.spad ∧
        (∀ n, (e.core c).log.sreg n = l.sreg n) ∧ e.mem = s.dev.mem ∧ Goes l (e.core c).log i.pc none) ∧
    (descOk s.dev (s.dev.lid c) x desc = true → GatewayFree s.dev c → bits x 29 28 = 2 → l.ops = [] →
      unitSize (byteAt desc 12) ≤ ofBytes (slice desc 8 4) → (s.dev.hostOf (bits x 13 0)).isSome = true → Completes (.msend c) s fun e =>
        (∃ o, (e.core c).log.op t = some o ∧ o.kind = .conf ∧ 0 < o.out.length ∧
          o.todo.length + o.out.length = ofBytes (slice desc 8 4) / unitSize (byteAt desc 12)) ∧
        (e.core c).log.ctPend.testBit t = true ∧ (e.core c).log.spad = l.spad ∧ e.mem = s.dev.mem ∧ Goes l (e.core c).log i.pc none)) ∧
  (
  ∀ (s : State) (c : Nat) (i : Iss), Issues opMrecv s c i → (s.dev.core c).log.vu = [] → opcodeOf i.w = 0x79 ∧
    let l := (s.dev.core c).log
    ∃ m x rest, l.bound (bits i.w 10 8) = .mq m ∧ l.mqueue m = x :: rest ∧ Completes (.mrecv c) s fun e =>
      (e.core c).log.vreg (bits i.w 7 4) = x ∧ (e.core c).log.mqueue m = rest ∧
      (∀ n, n ≠ m → (e.core c).log.mqueue n = l.mqueue n) ∧ (∀ n, n ≠ bits i.w 7 4 → (e.core c).log.vreg n = l.vreg n) ∧
      (∀ n, (e.core c).log.sreg n = l.sreg n) ∧ CoreOnly c s.dev e ∧ Goes l (e.core c).log i.pc none)

/-- R107, R236: with a free gateway `fset` sends FLAG_WRITE with s[SB] and `fwait` FLAG_READ, to the hosted core and flag index that
s[SA] names, and the tag becomes pending; a later poll of a waiting `fwait` reads the flag again. R235: `bar` is counted at the
gateway of its cluster; the last local member sends BAR_ENTER to the root; a barrier whose entry is not valid completes with
`error`, and the core stops. R171: a waiting `sgate` whose verdict has not come reads the verdict flag of its layer again; one whose
verdict has come, or whose read is out, does not. R108, R109, R165, R166: an `sgate` of a layer without an entry, or whose ordinal is below LAG, writes the record of
its scores under its threshold; a `saudit` of a layer without an entry, or in which it is no owner, makes the audited neurons active
that miss (of each group, where the entry is not strict), and empties the list; as owner it writes the verdict to its flag. -/
def Obligations.FlagAndBarrierInstructions : Prop :=
  (
  (∀ (s : State) (c : Nat) (i : Iss), GatewayFree s.dev c →
    let l := (s.dev.core c).log
    let x := i.s (rD i.w)
    (s.dev.hostOf (bits x 13 0)).isSome = true →
    let sends := fun (t : PType) (data : List Byte) (e : Dev) =>
      Sent s c e t (fun p => p.dstCore = bits x 13 0 ∧ p.aux = bits x 21 16 ∧ p.payload = data) ∧
      (e.core c).log.ctPend.testBit (bits i.w 15 11) = true ∧ l.ctPend.testBit (bits i.w 15 11) = false ∧
      (∀ n, (e.core c).log.sreg n = l.sreg n) ∧ (e.core c).log.spad = l.spad ∧ e.mem = s.dev.mem ∧ Goes l (e.core c).log i.pc none
    (Issues opFset s c i → opcodeOf i.w = 0x7B ∧ Completes (.fset c) s (sends .flagWrite (leBytes 8 (i.s (rA i.w)).toNat))) ∧
    (Issues opFwait s c i → opcodeOf i.w = 0x7C ∧ Completes (.fwait c) s (sends .flagRead []))) ∧
  (∀ (s : State) (c t : Nat) (o : Op) (id f : Nat) (v : Word), c < numCores → GatewayFree s.dev c →
    (s.dev.core c).log.op t = some o → o.kind = .flagWait id f v → o.tag = t → (s.dev.hostOf id).isSome = true →
    Completes (.fwaitPoll c t) s fun e =>
      Sent s c e .flagRead (fun p => p.dstCore = id ∧ p.aux = f) ∧ (e.core c).log.spad = (s.dev.core c).log.spad ∧
      (e.core c).log.ctPend = (s.dev.core c).log.ctPend ∧ e.mem = s.dev.mem)) ∧
  (
  ∀ (s : State) (c : Nat) (i : Iss), Issues opBar s c i → opcodeOf i.w = 0x7A ∧
    let b := bits (i.s (rD i.w)) 7 0
    let r := routerOf c
    let x := (s.dev.gw r).bar b
    let t := bits i.w 15 11
    (x.valid = false → Completes (.bar c) s fun e =>
      (e.core c).log.tagStatus t = 2 ∧ (e.core c).log.state = .faulted ∧ (e.gw r).bar b = x) ∧
    (x.valid = true → Completes (.bar c) s fun e =>
      ((e.gw r).bar b).entered = x.entered + 1 ∧ (e.core c).log.ctPend.testBit t = true ∧ (e.core c).log.state = .running ∧
      (∀ n, (e.core c).log.sreg n = (s.dev.core c).log.sreg n) ∧ e.mem = s.dev.mem ∧
      Goes (s.dev.core c).log (e.core c).log i.pc none ∧
      (x.entered + 1 ≠ x.members → e.routers = s.dev.routers) ∧
      (x.entered + 1 = x.members → CanSend s.dev (4 * r) 0 1 → ∃ q : QPkt,
        NMap.get [] (e.router r).q 0 = NMap.get [] (s.dev.router r).q 0 ++ [q] ∧ q.p.ptype = .barEnter ∧ q.p.dst = s.dev.gwNode x.root ∧ q.p.aux = b))) ∧
  (
  ∀ (s : State) (c t n : Nat) (u : UOp) (us : List UOp),
    let k := s.dev.core c
    let id := k.fld (slu Fld.CORE_SLU_VERDICT_CORE n)
    let lag := k.fld (slu Fld.CORE_SLU_CFG_LAG n)
    let come := u.b.toNat < lag ∨ ∃ v, k.log.verdict = some v ∧ bits v 63 48 = u.step % 2 ^ 16 ∧ u.b.toNat - lag + 1 ≤ bits v 23 0
    c < numCores → k.log.vu = u :: us → opcodeOf u.w = 0x80 → u.tag = some t → u.n ≠ 0 → k.layer (sxLayer u.x) = some n →
    (come ∨ (k.log.op t).isSome = true → Stays (.verdictPoll c) s) ∧
    (¬ come → k.log.op t = none → GatewayFree s.dev c → (s.dev.hostOf id).isSome = true → Completes (.verdictPoll c) s fun e =>
      Sent s c e .flagRead (fun p => p.dstCore = id ∧ p.aux = k.fld (slu Fld.CORE_SLU_VERDICT_FLAG n)) ∧
      (e.core c).log.spad = k.log.spad ∧ (e.core c).log.vu = k.log.vu ∧ e.mem = s.dev.mem)) ∧
  (
  let entry := fun (s : State) (c : Nat) (i : Iss) => (s.dev.core c).layer (bits (regX i) 47 32)
  Runs .sgate .vsCompletion opSgate 0x80 LCore.vu (fun s c i => ∀ n, entry s c i = some n →
      (s.dev.core c).ordinal n s.dev.stepNo < (s.dev.core c).fld (slu Fld.CORE_SLU_CFG_LAG n)) (fun s c i e =>
    ∀ a d, ownRange (s.dev.lid c) (regA i) (4 * regN i) = some a → ownRange (s.dev.lid c) (regD i) (recordMax (regN i)) = some d →
      let g := gateRecord (s.dev.reg 0x400) (regX i) s.dev.stepNo (regN i) (spadWords (s.dev.core c).log a (regN i)) false
      UnitRan c i [] [] d (d + recordMax (regN i)) s.dev e ∧ CoreOnly c s.dev e ∧
      (regN i = 0 → (e.core c).log.spad = (s.dev.core c).log.spad) ∧
      (regN i ≠ 0 → getBytes (e.core c).log.spad d (64 + regN i / 4 + 2 * g.list.length) = g.bytes (countOn g.active) g.list.length ∧
        ∀ n, entry s c i = some n → (e.core c).fld (slu Fld.CORE_SLU_PROGRESS_ORDINAL n) =
          (s.dev.core c).ordinal n s.dev.stepNo + 1)) ∧
  (∀ record : Nat,
    let l := fun (s : State) (c : Nat) => (s.dev.core c).log
    let u32 := fun (s : State) (c o : Nat) => ofBytes (getBytes (l s c).spad (record + o) 4)
    let mask := fun (spad : NMap Byte) (o j : Nat) => (NMap.get 0 spad (record + o + j / 8) : Byte).toNat.testBit (j % 8)
    let fits := fun (s : State) (c : Nat) (i : Iss) => ownRange (s.dev.lid c) (regA i) (recordMax (regN i)) = some record ∧
      regN i ≠ 0 ∧ regN i % 32 = 0 ∧ u32 s c 8 ≤ regN i ∧ u32 s c 8 % 32 = 0 ∧ recordMax (regN i) ≤ 2 ^ 19
    let plain := fun (s : State) (c : Nat) (i : Iss) => ∀ n, entry s c i = some n →
      (s.dev.core c).flag (slu Fld.CORE_SLU_CFG_ROLE n) = false ∧ (s.dev.core c).flag (slu Fld.CORE_SLU_CFG_STRICT n) = false
    Runs .saudit .vsCompletion opSaudit 0x81 LCore.vu (fun s c i => fits s c i ∧ plain s c i) (fun s c i e =>
      let n := regN i
      let list := (List.range (u32 s c 8)).map fun j => ofBytes (getBytes (l s c).spad (record + 64 + n / 4 + 2 * j) 2)
      let missed := fun (v j : Nat) => mask (l s c).spad (64 + n / 8) j = true ∧ ∃ p row, list.findIdx? (· == j) = some p ∧ row < 16 ∧
        exceeds (spadWord (l s c) (v + 4 * (512 * (p / 32) + 32 * row + p % 32))) ((regX i).setWidth 32) = true
      ∀ v, ownRange (s.dev.lid c) (regB i) (u32 s c 8 / 32 * 2048) = some v →
        UnitRan c i [] [] record (record + 64 + n / 4) s.dev e ∧ CoreOnly c s.dev e ∧
        (∀ j, j < n → (mask (e.core c).log.spad 64 j = true ↔ mask (l s c).spad 64 j = true ∨ missed v j) ∧
          mask (e.core c).log.spad (64 + n / 8) j = mask (l s c).spad (64 + n / 8) j) ∧
        ofBytes (getBytes (e.core c).log.spad (record + 8) 4) = 0 ∧
        ofBytes (getBytes (e.core c).log.spad (record + 4) 4) = ((List.range n).filter (mask (l s c).spad (64 + n / 8))).length ∧
        (∀ o, o < 4 → NMap.get 0 (e.core c).log.spad (record + o) = NMap.get 0 (l s c).spad (record + o))) ∧
    ∀ (s : State) (c : Nat) (i : Iss) (n : Nat), Issues opSaudit s c i → (l s c).vu = [] → CleanSpad (s.dev.core c) → fits s c i →
      GatewayFree s.dev c → entry s c i = some n → (s.dev.core c).flag (slu Fld.CORE_SLU_CFG_ROLE n) = true →
      (s.dev.hostOf ((s.dev.core c).fld (slu Fld.CORE_SLU_VERDICT_CORE n))).isSome = true →
      ∃ t, exec (.saudit c) s = .next t ∧ Completes (.vsCompletion c) t fun e =>
        Sent s c e .flagWrite (fun p => p.dstCore = (s.dev.core c).fld (slu Fld.CORE_SLU_VERDICT_CORE n) ∧
          p.aux = (s.dev.core c).fld (slu Fld.CORE_SLU_VERDICT_FLAG n)) ∧
        (e.core c).log.ctPend.testBit (bits i.w 17 13) = true ∧ (e.core c).log.s = (l s c).s ∧ e.mem = s.dev.mem))

/-! ### Issue -/

/-- R40: an instruction that issues stands at the pc of a RUNNING core, its stream counters hold the required counts (a), no tag it
names is pending (b), no register it uses is the destination of an instruction in flight (c), and its unit accepts it (d). R40,
R477: an attempt that must wait changes nothing but the core's stall count, which grows by one, and BLOCK, which names the first
failing condition: 1 for (a), 2 (5 for `wait`) for (b), 3 for (c), 4 for (d). -/
def Obligations.IssueOrWait : Prop :=
  (
  ∀ x ∈ coreOps, ∀ (s : State) (c : Nat) (i : Iss), Issues x.2 s c i →
    let k := s.dev.core c
    i.w = NMap.get 0 k.log.imem k.log.pc ∧ i.pc = k.log.pc ∧ k.log.pc ≤ 4095 ∧ opcodeOf i.w = x.2.code ∧ k.log.state = .running ∧
    (∀ y ∈ x.2.conds i.w, y.2 ≤ k.counter y.1) ∧ (∀ t ∈ x.2.tags i.w, k.log.ctPend.testBit t = false) ∧
    (∀ r ∈ x.2.uses i.w, r ∉ k.log.inFlight) ∧ x.2.held i = false) ∧
  (
  ∀ x ∈ coreOps, ∀ (s : State) (c b : Nat), c < numCores → x.2.verdict s.dev c = .wait b →
    let k := s.dev.core c
    let w := NMap.get 0 k.log.imem k.log.pc
    let short := ∃ y ∈ x.2.conds w, k.counter y.1 < y.2
    let pend := ∃ t ∈ x.2.tags w, k.log.ctPend.testBit t = true
    (b = 1 ↔ short) ∧ (b = 2 ∨ b = 5 ↔ ¬ short ∧ pend) ∧ b ≤ 5 ∧
    Completes (x.1 c) s fun e =>
      CoreOnly c s.dev e ∧ SameButStall k (e.core c) ∧ (e.core c).sil.block = b ∧
      (e.core c).sil.stall = min (k.sil.stall + 1) 0xFFFFFFFF)

/-- R50, R70, R71, R74: an instruction with errors does not issue: the core stops as FAULTED at its pc, and a record that is clear
takes the lowest error code, the pc and the time. A command is one attempt to issue, and its errors stop the core together (the
model's reading, log 4). -/
def Obligations.ErrorsStopTheCore : Prop :=
  ∀ x ∈ coreOps, ∀ (s : State) (c pc : Nat) (e₁ : Nat × Nat) (es : List (Nat × Nat)), c < numCores →
    x.2.verdict s.dev c = .stop pc (e₁ :: es) →
    (∀ y ∈ es, e₁.1 < y.1) ∧ pc = min (s.dev.core c).log.pc 4095 ∧
    Completes (x.1 c) s fun e =>
      (e.core c).log.state = .faulted ∧ (e.core c).log.pc = pc ∧ (e.core c).log.spad = (s.dev.core c).log.spad ∧
      (∀ n, (e.core c).log.sreg n = (s.dev.core c).log.sreg n) ∧ e.mem = s.dev.mem ∧
      ((s.dev.core c).flag Fld.CORE_ERR_STATUS_LATCHED = false →
        (e.core c).flag Fld.CORE_ERR_STATUS_LATCHED = true ∧ (e.core c).fld Fld.CORE_ERR_REC0_CODE = e₁.1 % 256 ∧
        (e.core c).fld Fld.CORE_ERR_REC0_PC = pc ∧ (e.core c).reg 0x48 = s.dev.now)

/-! ### A core outside its program -/

/-- R388, R68, R87: the watchdog of a RUNNING core takes it to HUNG and counts an expiry; a LOADING core without words for 1 ms goes
back to EMPTY with IMEM_LOAD_CHECK; the oldest stream move ends. R60, R44: a remote load or store not answered in time completes
with `timeout`, and its core stops. -/
def Obligations.CoreTimersAndTimeouts : Prop :=
  (
  ∀ (s : State) (c : Nat), c < numCores →
    (s.dev.coreState c = .running → Completes (.hangWatchdogExpiry c) s fun e =>
      (e.core c).log.state = .hung ∧ (e.core c).log.s = (s.dev.core c).log.s ∧ e.mem = s.dev.mem ∧
      (s.dev.inProgress = false → e.fld Fld.HANG_STATUS_WD_EXPIRIES =
        min (s.dev.fld Fld.HANG_STATUS_WD_EXPIRIES + 1) Fld.HANG_STATUS_WD_EXPIRIES.max)) ∧
    (s.dev.coreState c ≠ .running → Completes (.hangWatchdogExpiry c) s fun e => e.core c = s.dev.core c ∧ e.regs = s.dev.regs) ∧
    ((s.dev.core c).log.state = .loading → Completes (.imemLoadTimeout c) s fun e =>
      (e.core c).log.state = .empty ∧ (e.core c).log.load = none ∧
      ((s.dev.core c).flag Fld.CORE_ERR_STATUS_LATCHED = false → (e.core c).fld Fld.CORE_ERR_REC0_CODE = 8)) ∧
    ((s.dev.core c).log.state ≠ .loading → Completes (.imemLoadTimeout c) s fun e => e.core c = s.dev.core c) ∧
    Completes (.streamMoveEnd c) s fun e =>
      (e.core c).log.moves = (s.dev.core c).log.moves.drop 1 ∧ CoreOnly c s.dev e ∧ e.regs = s.dev.regs ∧
      (e.core c).log.spad = (s.dev.core c).log.spad) ∧
  (
  ∀ (s : State) (c t : Nat) (o : Op), c < numCores → t < 32 → (s.dev.core c).log.op t = some o →
    (o.kind = .store ∨ ∃ n isV sx size, o.kind = .load n isV sx size) → (s.dev.core c).log.state = .running →
    Completes (.remoteAccessTimeout c t) s fun e =>
      (e.core c).log.tagStatus t = 3 ∧ (e.core c).log.ctPend.testBit t = false ∧ (e.core c).log.op t = none ∧
      (e.core c).log.state = .faulted ∧ (e.core c).log.s = (s.dev.core c).log.s ∧ e.mem = s.dev.mem)

/-! ### Stitch network -/

/-- R175, R176, R177, R187, R198: a word that passes its checks is accepted by its generation into the queue or the segment, or
counted and its credit returned; one that fails is asked for again and waited for, and the failure of a third replay stops the core
and closes the link; none comes while the links stop or where the map of its epoch joins the core to no neighbour (R24, R204). R176, R184, R103: a replay request resends the kept words of the link from its SEQ in order; a credit return of
the stream's generation, or of the one before, adds its count and lets the seals that wait go while credits last, and any other is
ignored, as is each while the links stop. -/
def Obligations.StitchWords : Prop :=
  (
  ∀ (s : State) (c link : Nat) (w : StitchWord), c < numCores → link < 4 →
    let k := s.dev.core c
    let q := 8 * link + w.stream
    let x := k.log.inQ q
    let fails := NMap.get 0 k.sil.fails link
    (s.dev.linksStopped c = true ∨ (s.dev.mapAt w.epoch).hasLink c link = false → Stays (.stitchWordArrival c link w) s) ∧
    (s.dev.linksStopped c = false → (s.dev.mapAt w.epoch).hasLink c link = true → CleanSpad k →
    k.sil.dead.testBit link = false → (∀ n, NMap.get none k.sil.awaits link = some n → n = w.seq) →
    (StitchWord.dataOk w = true → StitchWord.ctlOk w = true → w.kind ≤ 1 → w.gen = x.agen % 4 → bit (k.route w.gen q) 63 = true →
      Completes (.stitchWordArrival c link w) s fun e =>
        ((e.core c).log.inQ q).agen = (if w.kind = 1 then (w.gen + 1) % 4 else w.gen) ∧
        (x.seg = [] → x.q.length < 8 → x.spill = false → ((e.core c).log.inQ q).q = x.q ++ [{ w := w }] ∧ ((e.core c).log.inQ q).seg = []) ∧
        (x.seg ≠ [] ∨ 8 ≤ x.q.length ∨ x.spill = true → ((e.core c).log.inQ q).q = x.q ∧ ((e.core c).log.inQ q).seg = x.seg ++ [{ w := w }]) ∧
        CoreOnly c s.dev e ∧ (e.core c).log.spad = k.log.spad ∧ NMap.get 0 (e.core c).sil.fails link = 0) ∧
    (StitchWord.dataOk w = true → StitchWord.ctlOk w = true → w.kind ≤ 1 → w.gen ≠ x.agen % 4 → w.gen ≠ (x.agen % 4 + 1) % 4 →
      Completes (.stitchWordArrival c link w) s fun e =>
        (e.core c).log.inQ q = x ∧ (e.core c).fld Fld.CORE_STITCH_DISCARD_STALE =
          min (k.fld Fld.CORE_STITCH_DISCARD_STALE + 1) Fld.CORE_STITCH_DISCARD_STALE.max ∧
        (s.dev.edgeOf c (q / 8) = none → Out.credit c (q / 8) (q % 8) 1 w.gen ∈ e.out)) ∧
    ((StitchWord.dataOk w && StitchWord.ctlOk w) = false → fails < 3 → Completes (.stitchWordArrival c link w) s fun e =>
      (e.core c).log = k.log ∧ NMap.get none (e.core c).sil.awaits link = some w.seq ∧
      NMap.get 0 (e.core c).sil.fails link = fails + 1 ∧ (s.dev.edgeOf c link = none → Out.replay c link w.seq ∈ e.out)) ∧
    ((StitchWord.dataOk w && StitchWord.ctlOk w) = false → 3 ≤ fails → k.log.state = .running →
      Completes (.stitchWordArrival c link w) s fun e =>
        (e.core c).log.state = .faulted ∧ (e.core c).sil.dead.testBit link = true ∧ (e.core c).log.inq = k.log.inq))) ∧
  (
  ∀ (s : State) (c link : Nat), c < numCores → link < 4 →
    (∀ seq, Completes (.stitchReplayRequest c link seq) s fun e =>
      wordsOn e c link = (NMap.get [] (s.dev.core c).sil.tx link).dropWhile (fun w => w.seq ≠ seq) ∧
      e.cores = s.dev.cores ∧ e.regs = s.dev.regs) ∧
    (∀ stream count gen, stream < 8 →
      let q := 8 * link + stream
      let o := (s.dev.core c).log.outQ q
      (s.dev.linksStopped c = true → Stays (.stitchCreditReturn c link stream count gen) s) ∧
      (s.dev.linksStopped c = false → gen = o.gen % 4 ∨ (gen + 1) % 4 = o.gen % 4 → Completes (.stitchCreditReturn c link stream count gen) s fun e =>
          ((e.core c).log.outQ q).credits = o.credits + count - o.wait.length ∧
          ((e.core c).log.outQ q).wait = o.wait.drop (o.credits + count) ∧
          (o.wait = [] → ((e.core c).log.outQ q).gen = o.gen) ∧
          (∀ j, j ≠ q → (e.core c).log.outQ j = (s.dev.core c).log.outQ j) ∧ (∀ j, j ≠ c → e.core j = s.dev.core j) ∧
          e.mem = s.dev.mem) ∧
      (gen ≠ o.gen % 4 → (gen + 1) % 4 ≠ o.gen % 4 → Completes (.stitchCreditReturn c link stream count gen) s fun e =>
          e.cores = s.dev.cores ∧ e.regs = s.dev.regs)))

/-- R181, R186: a link output takes the word at the head of a queue that its entry sends there, when its stream holds a credit:
DATA, PAR and GEN stay the word's own and the outbound stream's generation follows it; without a credit nothing moves. R189: when
every inbound stream with LOCAL in a valid entry of the running bank has the seal of its generation at its head, the core takes the
seals and CFG_GEN advances by one; while one has not, nothing changes. -/
def Obligations.StitchForwardingAndSwitch : Prop :=
  (
  ∀ (s : State) (c q out : Nat) (x : SWord) (rest : List SWord), c < numCores → q < 32 → 1 ≤ out → out ≤ 4 →
    let k := s.dev.core c
    let ent := k.route x.w.gen q
    let oq := 8 * (out - 1) + bits ent 54 52
    (k.log.inQ q).q = x :: rest → x.taken.testBit out = false → bit ent 63 = true → (bits ent 59 55).testBit out = true →
    k.sil.dead.testBit (q / 8) = false → s.dev.coreHeld c = false →
    (0 < (k.log.outQ oq).credits → Completes (.stitchForward c q out) s fun e =>
      ((e.core c).log.outQ oq).credits = (k.log.outQ oq).credits - 1 ∧
      ((e.core c).log.outQ oq).gen = (if x.w.kind = 1 then (x.w.gen + 1) % 4 else x.w.gen) ∧
      (s.dev.edgeOf c (out - 1) = none → ∃ w, wordsOn e c (out - 1) = [w] ∧ w.data = x.w.data ∧ w.par = x.w.par ∧
        w.gen = x.w.gen ∧ w.kind = x.w.kind ∧ w.stream = bits ent 54 52 ∧ w.epoch = s.dev.epoch % 4) ∧
      CoreOnly c s.dev e ∧ (e.core c).log.spad = k.log.spad ∧ (e.core c).log.s = k.log.s) ∧
    ((k.log.outQ oq).credits = 0 → Completes (.stitchForward c q out) s fun e => e.cores = s.dev.cores ∧ wordsOn e c (out - 1) = [])) ∧
  (
  ∀ (s : State) (c : Nat), c < numCores →
    let k := s.dev.core c
    let isLocal := fun (q : Nat) => bit (k.route k.gen q) 63 = true ∧ bit (k.route k.gen q) 55 = true
    let sealed := fun (q : Nat) => ∃ x rest, (k.log.inQ q).q = x :: rest ∧ x.w.kind = 1 ∧ x.w.gen = k.gen % 4 ∧ x.taken.testBit 0 = false
    ((∃ q, q < 32 ∧ isLocal q) → (∀ q, q < 32 → isLocal q → sealed q) → Completes (.configSwitch c) s fun e =>
      (e.core c).fld Fld.CORE_STITCH_GEN_CFG_GEN = (k.gen + 1) % (Fld.CORE_STITCH_GEN_CFG_GEN.max + 1) ∧ CoreOnly c s.dev e ∧
      (∀ q, q < 32 → ¬ isLocal q → (e.core c).log.inQ q = k.log.inQ q) ∧ (e.core c).log.s = k.log.s) ∧
    ((∃ q, q < 32 ∧ isLocal q ∧ ¬ sealed q) → Completes (.configSwitch c) s fun e => e.cores = s.dev.cores))

/-! ### Eddy watch -/

/-- R191, R192: a core that has waited on its firing condition for THRESHOLD cycles is reported once to its watcher; the watcher
launches its probe with the next serial, one copy for each unmet counter; a probe is dead once STALL_RUN has grown by a further
THRESHOLD. R193, R195: a probe beyond the hop limit dies; one that travels upstream through a router which drives its stream goes on
along the driving inbound stream; one that travels downstream takes up the first full queue and goes on through the blocked outputs;
one that comes back to its initiator with the outstanding serial and no recorded queue raises an event and ends the outstanding
probe. R194: while the links of a router stop it holds up to 4 probes, and a further one dies. -/
def Obligations.EddySuspectsAndProbePaths : Prop :=
  (
  ∀ (s : State) (c : Nat), c < numCores →
    let k := s.dev.core c
    let r := routerOf c
    let waits := s.dev.coreState c = .running ∧ k.sil.blocked = true ∧ k.sil.block = 1 ∧ k.fld Fld.CORE_EDDY_CFG_THRESHOLD ≤ k.sil.stall
    (waits → Completes (.coreSuspect c) s fun e => c ∈ (e.gw r).probes ∧ e.cores = s.dev.cores) ∧
    (¬ waits → Completes (.coreSuspect c) s fun e => e.gws = s.dev.gws ∧ e.cores = s.dev.cores) ∧
    (waits → c ∈ (s.dev.gw r).probes → k.flag Fld.CORE_EDDY_STATUS_PROBE_OUT = false →
      0 < s.dev.fld (Fld.CLU_EDDY_CFG_HOP_LIMIT.at (cluBase r)) → Completes (.probeLaunch c) s fun e =>
      (e.core c).flag Fld.CORE_EDDY_STATUS_PROBE_OUT = true ∧ (e.core c).log.probe = some k.sil.stall ∧ c ∉ (e.gw r).probes ∧
      (e.core c).fld Fld.CORE_EDDY_STATUS_SERIAL = (k.fld Fld.CORE_EDDY_STATUS_SERIAL + 1) % 16 ∧
      e.out = k.waitEdges.map fun x => Out.probe c x.1
        { init := s.dev.lid c, serial := (k.fld Fld.CORE_EDDY_STATUS_SERIAL + 1) % 16, up := x.2.2, stream := x.2.1 }) ∧
    (∀ n, k.log.probe = some n → n + k.fld Fld.CORE_EDDY_CFG_THRESHOLD ≤ k.sil.stall → Completes (.probeDead c) s fun e =>
      (e.core c).log.probe = none ∧ (e.core c).flag Fld.CORE_EDDY_STATUS_PROBE_OUT = false ∧ (waits → c ∈ (e.gw r).probes)) ∧
    (∀ n, k.log.probe = some n → k.sil.stall < n + k.fld Fld.CORE_EDDY_CFG_THRESHOLD → Completes (.probeDead c) s fun e =>
      e.cores = s.dev.cores ∧ e.gws = s.dev.gws)) ∧
  (
  ∀ (s : State) (c link : Nat) (p : Probe), c < numCores → link < 4 →
    let k := s.dev.core c
    let limit := s.dev.fld (Fld.CLU_EDDY_CFG_HOP_LIMIT.at (cluBase (routerOf c)))
    (s.dev.linksStopped c = true → k.sil.lane.length < 4 → Completes (.probeArrival c link p) s fun e =>
      (e.core c).sil.lane = k.sil.lane ++ [(link, p)] ∧ (e.core c).log = k.log ∧ e.out = []) ∧
    (s.dev.linksStopped c = true → 4 ≤ k.sil.lane.length → Stays (.probeArrival c link p) s) ∧
    (s.dev.linksStopped c = false → k.sil.lane = [] →
    (limit ≤ p.hops + 1 → Completes (.probeArrival c link p) s fun e => e.out = []) ∧
    (∀ q, p.hops + 1 < limit → p.up = true → k.driver (8 * link + p.stream) = some q → Completes (.probeArrival c link p) s fun e =>
      Out.probe c (q / 8) { p with hops := p.hops + 1, stream := q % 8, up := true } ∈ e.out ∧ ∀ j, e.core j = s.dev.core j) ∧
    (p.hops + 1 < limit → p.up = false →
      let q := 8 * link + p.stream
      let p' := { p with hops := p.hops + 1,
                         rec? := if p.rec? = none ∧ 8 ≤ (k.log.inQ q).q.length then some (s.dev.lid c, link, p.stream) else p.rec? }
      Completes (.probeArrival c link p) s fun e =>
        ∀ o ∈ k.blockedOuts q, Out.probe c (o - 1) { p' with stream := bits (k.headEntry q).1 54 52, up := false } ∈ e.out) ∧
    (p.up = true → k.driver (8 * link + p.stream) = none → p.init = s.dev.lid c → p.rec? = none →
      k.flag Fld.CORE_EDDY_STATUS_PROBE_OUT = true → k.fld Fld.CORE_EDDY_STATUS_SERIAL = p.serial →
      Completes (.probeArrival c link p) s fun e =>
        (e.core c).flag Fld.CORE_EDDY_STATUS_PROBE_OUT = false ∧ (e.core c).log.probe = none ∧
        ∃ v : Event, e.cob.log = s.dev.cob.log ++ [v] ∧ v.code = 0x102 ∧ v.unit = c ∧ v.time = s.dev.t)))

/-- R196, R197, R198, R199: a spill order that stands with the watcher is taken up: one for a full queue reserves ring slots and marks
the queue, one for a queue with room is counted as cancelled, and one the ring has no room for hangs the core; where none stands nothing
happens; the end of a move puts the queue's words before the segment
and grows the allowance; the drain moves the segment's head word into a queue with room. -/
def Obligations.EddySpills : Prop :=
  ∀ (s : State) (c q : Nat), c < numCores → q < 32 →
    let k := s.dev.core c
    let x := k.log.inQ q
    let b := cluBase (routerOf c)
    let order := fun (lid : Nat) (y : Nat × QPkt) => y.1 = 4 * routerOf c ∧ y.2.p.ptype = .spillOrder ∧ y.2.p.dstCore = lid ∧ y.2.p.aux = q
    let stands := fun (lid : Nat) => lid < numLogical ∧ s.dev.hostOf lid = some c ∧ ∃ y ∈ s.dev.arrived, order lid y
    (∀ lid, lid < numLogical → s.dev.hostOf lid = some c → (∀ y ∈ s.dev.arrived, ¬ order lid y) → Stays (.spillOrder lid q) s) ∧
    (∀ lid, stands lid → x.q.length < 8 → Completes (.spillOrder lid q) s fun e =>
      (∀ y ∈ e.arrived, ¬ order lid y) ∧ e.fld (Fld.CLU_EDDY_LOG0_CANCELLED.at b) = min (s.dev.fld (Fld.CLU_EDDY_LOG0_CANCELLED.at b) + 1) Fld.CLU_EDDY_LOG0_CANCELLED.max ∧
      e.cores = s.dev.cores) ∧
    (∀ lid, stands lid → 8 ≤ x.q.length → x.spill = false →
      s.dev.flag (Fld.CLU_EDDY_CFG_SPILL_EN.at b) = true →
      let k' := k.setInQ q { x with spill := true, spillAt := s.dev.t }
      k'.reserved ≤ 32 * k.fld Fld.CORE_SPILL_CFG_SIZE → Completes (.spillOrder lid q) s fun e =>
        ((e.core c).log.inQ q).spill = true ∧ ((e.core c).log.inQ q).q = x.q ∧
        e.fld (Fld.CLU_EDDY_LOG0_LINK.at b) = q / 8 ∧ e.fld (Fld.CLU_EDDY_LOG0_STREAM.at b) = q % 8) ∧
    (∀ lid, stands lid → 8 ≤ x.q.length → x.spill = false →
      s.dev.flag (Fld.CLU_EDDY_CFG_SPILL_EN.at b) = true → s.dev.coreState c = .running →
      32 * k.fld Fld.CORE_SPILL_CFG_SIZE < (k.setInQ q { x with spill := true, spillAt := s.dev.t }).reserved →
      Completes (.spillOrder lid q) s fun e => (e.core c).log.state = .hung ∧ (e.core c).log.inQ q = x) ∧
    (x.spill = true → Completes (.spillMoveEnd c q) s fun e =>
      ((e.core c).log.inQ q).q = [] ∧ ((e.core c).log.inQ q).seg.map SWord.w = (x.q ++ x.seg).map SWord.w ∧ ((e.core c).log.inQ q).spill = false ∧
      ((e.core c).log.inQ q).allow = x.allow + x.q.length ∧
      e.step.spills = s.dev.step.spills ++ [(s.dev.lid c, q, x.q.length, x.allow + x.q.length, x.spillAt)]) ∧
    (x.spill = false → Completes (.spillMoveEnd c q) s fun e => e.cores = s.dev.cores) ∧
    (∀ w rest, x.seg = w :: rest → w.errs = [] → x.q.length < 8 → x.spill = false → Completes (.spillDrain c q) s fun e =>
      ((e.core c).log.inQ q).q = x.q ++ [w] ∧ ((e.core c).log.inQ q).seg = rest ∧ CoreOnly c s.dev e) ∧
    (x.seg = [] → Completes (.spillDrain c q) s fun e => e.core c = k)

/-! ### Time, epochs, starts -/

/-- R360, R363, R204, R206: the changes scheduled for an epoch apply at its tick and the routers report it; a unit that missed
changes applies them when it catches up; the copy of held words ends in the forced reconfiguration. -/
def Obligations.EpochChanges : Prop :=
  ∀ s : State,
    let d := s.dev
    let n := d.epochCount
    let race := d.flag Fld.COB_RACE_REQ_ARM
    let force := d.flag Fld.COB_STITCH_FORCE_ARM
    let ticks := d.fld Fld.FT_EPOCH_COUNT < n ∧ d.flag Fld.WEIR_OP_REQ_ARM = false ∧ d.cob.readyAt = none
    let unmoved := d.map.flip = none
    (n ≤ d.fld Fld.FT_EPOCH_COUNT → Completes .epochTick s fun e => e = { d with out := [] }) ∧
    (ticks → unmoved → race = false → force = false → d.cob.level = false → Completes .epochTick s fun e =>
      e.fld Fld.FT_EPOCH_COUNT = n % 2 ^ 48 ∧ e.epoch = n % 2 ^ 16 ∧
      e.fld Fld.FT_EPOCH_START_TICK = (d.fld Fld.FT_EPOCH_BASE_T0 + n * (1000 * d.fld Fld.FT_EPOCH_CFG_PERIOD)) % 2 ^ 64 ∧
      e.cores = d.cores ∧ e.mem = d.mem ∧ e.map = d.map ∧ e.routers = d.routers ∧
      ∀ r, r < numRouters → d.lagging 4 r = false → (4, r) ∉ d.missing →
        e.fld (Fld.RACE_CTRL_APPLIED_EPOCH.at (raceBase r)) = n % 2 ^ 16) ∧
    (ticks → unmoved → race = false → force = false → d.cob.level = true → d.fld Fld.COB_NUMERICS_LEVEL_REQ_EPOCH = n % 2 ^ 16 →
      Completes .epochTick s fun e =>
        e.fld Fld.COB_NUMERICS_LEVEL_APPLIED_LEVEL = d.fld Fld.COB_NUMERICS_LEVEL_REQ_LEVEL ∧
        e.fld Fld.COB_NUMERICS_LEVEL_APPLIED_EPOCH = n % 2 ^ 16 ∧ e.cob.level = false ∧ e.cores = d.cores) ∧
    (ticks → unmoved → force = false → d.cob.level = false → race = true → d.fld Fld.COB_RACE_REQ_REQ_EPOCH = n % 2 ^ 16 →
      d.heal.shift = none → Completes .epochTick s fun e =>
        e.fld Fld.COB_RACE_STATUS_SERVICE = (if d.fld Fld.COB_BRINGUP_STATE = 5 ∨ d.fld Fld.COB_BRINGUP_STATE = 6 then
          d.fld Fld.COB_RACE_REQ_REQ_SERVICE else 0) ∧
        e.fld Fld.COB_RACE_STATUS_ROUTING = d.fld Fld.COB_RACE_REQ_REQ_ROUTING ∧
        e.fld Fld.COB_RACE_STATUS_APPLIED_EPOCH = n % 2 ^ 16 ∧ e.flag Fld.COB_RACE_REQ_ARM = false ∧
        e.fld Fld.COB_RACE_STATUS_ACTIVE_BANK = (if d.flag Fld.COB_RACE_REQ_FLIP then
          1 - d.fld Fld.COB_RACE_STATUS_ACTIVE_BANK else d.fld Fld.COB_RACE_STATUS_ACTIVE_BANK) ∧ e.cores = d.cores) ∧
    (ticks → race = false → force = false → d.cob.level = false → d.map.flip = some (n % 2 ^ 16) → d.heal.shift = none →
      (∀ m, m = d.map.cur ∨ m = d.map.shadow → m.v ≤ 12 ∧ ∀ i, NMap.get 16 m.gaps i ≤ 16) →
      Completes .epochTick s fun e =>
        e.map.active = !d.map.active ∧ e.map.flip = none ∧ e.map.cur = d.map.shadow ∧ e.map.unhosted = d.map.unhosted ∧
        ∀ l, l < numLogical → l ∉ d.map.unhosted → l ∉ d.map.noMove →
          (e.core (d.map.shadow.toPhys l)).log = (d.core (d.map.cur.toPhys l)).log) ∧
    (d.cob.copying = true → d.cob.mergeLost = false → Completes .oldWordCopyEnd s fun e =>
      e.cob.copying = false ∧ e.flag Fld.COB_STITCH_FORCE_ARM = false ∧ e.fld Fld.COB_STITCH_FORCE_APPLIED_EPOCH = d.epoch ∧
      (∃ x bs, e.cob.capture = some x ∧ x.copied = some bs) ∧
      ∀ c, c < numCores → (d.lidOf c).isSome = true → d.lagging 1 c = false →
        (e.core c).gen = ((d.core c).gen + 2) % 2 ^ 16 ∧
        (∀ q, q < 32 → ((e.core c).log.inQ q).q = [] ∧ ((e.core c).log.inQ q).seg = [] ∧ ((e.core c).log.outQ q).credits = 8 ∧
          (NMap.wf ({} : OutQ) (d.core c).log.outq = true → ((e.core c).log.outQ q).gen = (((d.core c).log.outQ q).gen + 2) % 4)) ∧
        ((d.core c).log.state = .running ∨ (d.core c).log.state = .done → (e.core c).log.state = .loaded)) ∧
    (d.cob.copying = false → Completes .oldWordCopyEnd s fun e => e = { d with out := [] }) ∧
    (∀ r, r < numRouters → d.lagging 4 r = true → (4, r) ∉ d.missing → Completes (.unitCatchUp 4 r) s fun e =>
      e.lagging 4 r = false ∧ e.fld (Fld.RACE_CTRL_APPLIED_EPOCH.at (raceBase r)) = d.epoch ∧
      e.fld (Fld.RACE_CTRL_ACTIVE_BANK.at (raceBase r)) = d.fld Fld.COB_RACE_STATUS_ACTIVE_BANK ∧ e.cores = d.cores) ∧
    (∀ kind unit, d.lagging kind unit = false → Completes (.unitCatchUp kind unit) s fun e => e = { d with out := [] })

/-- R37, R137, R423: at its tick a pending START takes every core of the placement from LOADED to RUNNING and answers status 0, or,
when one of them is not LOADED, changes no core; before its tick nothing happens. -/
def Obligations.StartTick : Prop :=
  ∀ (s : State) (tick mask qp seq : Nat), s.dev.cob.start = some (tick, mask, qp, seq) → HostQuiet s.dev →
    let d := s.dev
    let lids := d.placement mask
    let answer := fun (st detail : Nat) (e : Dev) => ∀ x, d.qp qp = some x →
      e.out = [.resp { qp, seq, op := 0x8031, status := st, detail, time := d.t, body := [] }]
    (d.t < tick → Completes .startTick s fun e => e = { d with out := [] }) ∧
    (tick ≤ d.t → d.unscaledRegion mask = none → (∀ l ∈ lids, ∃ c, d.hostOf l = some c ∧ d.coreState c = .loaded) →
      Completes .startTick s fun e =>
        (∀ l ∈ lids, ∀ c, d.hostOf l = some c → (e.core c).log.state = .running) ∧
        (∀ c, (∀ l ∈ lids, d.hostOf l ≠ some c) → e.core c = d.core c) ∧
        (∀ c, (e.core c).log.pc = (d.core c).log.pc ∧ (e.core c).log.s = (d.core c).log.s ∧
          (e.core c).log.spad = (d.core c).log.spad) ∧
        e.cob.start = none ∧ answer 0 0 e) ∧
    (∀ l, tick ≤ d.t → d.unscaledRegion mask = none → lids.head? = some l →
      (∀ c, d.hostOf l = some c → d.coreState c ≠ .loaded) → Completes .startTick s fun e =>
        e.cores = d.cores ∧ e.cob.start = none ∧ answer 6 l e) ∧
    (∀ r, tick ≤ d.t → d.unscaledRegion mask = some r → Completes .startTick s fun e =>
      e.cores = d.cores ∧ e.cob.start = none ∧ answer 7 r e)

/-! ### The Race -/

/-- R208–R211, R217, R218, R222–R224, R390: a good flit packet of the epoch joins its channel's queue, a bad one is counted and
dropped, a request two epochs behind is counted and answered ERROR; an uncorrected packet is asked for again and a third failure in a
row holds the link; an output serves the packet that is older than every other of its channel and than what may leave of the other
channel, to its link as far as the credits go, or to the node it names, the next copy of a multicast left in its place; two
contributions of one block merge into one of their sum and count, whose answer goes to both; a packet held past the age limit is
dropped with an event, and answered ERROR where it expects an answer. An event whose condition does not hold changes nothing (the
model's choice, log 24). -/
def Obligations.RaceTraffic : Prop :=
  ∀ (s : State) (r : Nat), r < numRouters →
    let d := s.dev
    let queue := fun (x : Dev) (key : Nat) => NMap.get [] (x.router r).q key
    let steady := (∀ key, key < 14 → ∀ x ∈ queue d key, d.discards r x.p = none) ∧ d.lagging 4 r = false ∧ d.captured 4 r = false
    let silent := fun (node : Nat) => d.toSend node 0 = [] ∧ d.toSend node 1 = []
    let rests := fun (key : Nat) => (key < 2 → silent (4 * r) ∧ silent (4 * r + 3) ∧ AllSent d r) ∧
      (2 ≤ key → key < 6 → silent (4 * r + key / 2))
    let answers := fun (p : Packet) => silent (4 * r + 3) ∧ d.queued r 0 1 + 1 ≤ 18 ∧ Reaches d p.srcDev
    let first := fun (out key : Nat) (x : QPkt) => (key, x) ∈ d.waitingFor r out ∧ d.canLeave r out x.p = true ∧
      ∀ y ∈ d.waitingFor r out, y = (key, x) ∨ d.older x y.2 = true ∨ (y.1 % 2 ≠ key % 2 ∧ d.canLeave r out y.2.p = false)
    (∀ port p, portOk r port = true → d.heldIn r port = false → (∀ q, NMap.get none (d.router r).awaits port = some q → q = p) →
      (p.badPar = [] → badPacket p = false → d.behind r p ≠ 2 →
        (d.landed r port p).queued r port (vcOf p.ptype) + flitsOf p ≤ 18 → Completes (.raceFlitArrival r port p true) s fun e =>
          queue e (2 * port + vcOf p.ptype) = queue d (2 * port + vcOf p.ptype) ++ [{ p, at_ := d.t }] ∧
          NMap.get [] (e.router r).fly (2 * port + vcOf p.ptype) = (NMap.get [] (d.router r).fly (2 * port + vcOf p.ptype)).erase p ∧
          NMap.get 0 (e.router r).fails port = 0 ∧ e.regs = d.regs) ∧
      (p.badPar = [] → badPacket p = true → Completes (.raceFlitArrival r port p true) s fun e =>
        e.fld (Fld.RACE_ERR_BAD_PACKETS.at (raceBase r)) =
          min (d.fld (Fld.RACE_ERR_BAD_PACKETS.at (raceBase r)) + 1) Fld.RACE_ERR_BAD_PACKETS.max ∧
        (isRequest p = false → ∀ key, queue e key = queue d key) ∧
        (isRequest p = true → answers p → ∃ q : QPkt, queue e 1 = queue d 1 ++ [q] ∧ q.p.ptype = .error ∧ q.p.reason = 0x8B ∧
          q.p.txn = p.txn ∧ q.p.dstCore = p.srcCore)) ∧
      (p.badPar = [] → badPacket p = false → d.behind r p = 2 → isRequest p = true → answers p →
        Completes (.raceFlitArrival r port p true) s fun e =>
          e.fld (Fld.RACE_ERR_EPOCH_DROPS.at (raceBase r)) =
            min (d.fld (Fld.RACE_ERR_EPOCH_DROPS.at (raceBase r)) + 1) Fld.RACE_ERR_EPOCH_DROPS.max ∧
          ∃ q : QPkt, queue e 1 = queue d 1 ++ [q] ∧ q.p.ptype = .error ∧ q.p.reason = 0x88 ∧ q.p.txn = p.txn ∧ q.p.dstCore = p.srcCore) ∧
      (∀ ok, (ok && p.badPar.isEmpty) = false →
        (NMap.get 0 (d.router r).fails port < 2 → Completes (.raceFlitArrival r port p ok) s fun e =>
          (∀ key, queue e key = queue d key) ∧ Out.flitReplay r port ∈ e.out ∧
          NMap.get none (e.router r).awaits port = some p ∧
          NMap.get 0 (e.router r).fails port = NMap.get 0 (d.router r).fails port + 1) ∧
        (2 ≤ NMap.get 0 (d.router r).fails port → 3 ≤ port → Completes (.raceFlitArrival r port p ok) s fun e =>
          (∀ key, queue e key = queue d key) ∧ e.heldIn r port = true ∧ Logged d e 0x200 5 r))) ∧
    (∀ port p q ok, portOk r port = true → NMap.get none (d.router r).awaits port = some q → q ≠ p →
      Completes (.raceFlitArrival r port p ok) s fun e => e = { d with out := [] }) ∧
    (∀ out key x, portOk r out = true → steady → first out key x → rests key →
      (3 ≤ out → Completes (.racePacketForward r out) s fun e =>
        e.out = [.flit r out (d.aged x)] ∧ queue e key = (queue d key).erase x ∧ (∀ j, j ≠ key → queue e j = queue d j) ∧
        (∀ n, nextRouter r out = some n → NMap.get [] (e.router n).fly (2 * facing out + vcOf x.p.ptype) =
          NMap.get [] (d.router n).fly (2 * facing out + vcOf x.p.ptype) ++ [d.aged x]) ∧ e.cores = d.cores) ∧
      (out < 3 → x.p.dstDev = d.devId → nodeOk (4 * r + x.p.dst % 4) = true → x.p.dst % 4 ≠ 3 →
        (x.p.mc = 0 → Completes (.racePacketForward r out) s fun e =>
          e.arrived = d.arrived ++ [(4 * r + x.p.dst % 4, { p := d.aged x, at_ := d.t })] ∧
          queue e key = (queue d key).erase x ∧ e.cores = d.cores) ∧
        (x.p.mc = 1 → x.p.mcLo = r % 8 → x.p.mcLo < x.p.mcHi → Completes (.racePacketForward r out) s fun e =>
          e.arrived = d.arrived ++ [(4 * r + x.p.dst % 4, { p := d.aged x, at_ := d.t })] ∧
          (∃ y ∈ queue e key, y.at_ = x.at_ ∧ y.p = { d.aged x with mcLo := x.p.mcLo + 1, dst := x.p.dst + 4 }) ∧
          (queue e key).length = (queue d key).length ∧ e.cores = d.cores))) ∧
    (∀ out, portOk r out = true → steady → (∀ y ∈ d.waitingFor r out, d.canLeave r out y.2.p = false) →
      Completes (.racePacketForward r out) s fun e => e = { d with out := [] }) ∧
    (∀ out x y entry, portOk r out = true → d.fld Fld.COB_RACE_STATUS_SERVICE = 1 → d.lagging 4 r = false → d.captured 4 r = false →
      mergePair (d.byAge (d.waitingFor r out)) = some (x, y) → freeMerge (d.router r).merges = some entry → rests y.1 →
      Completes (.contribMerge r out) s fun e =>
        NMap.get none (e.router r).merges entry = some ⟨[mergeIn x.2.p, mergeIn y.2.p]⟩ ∧
        (∃ z ∈ queue e x.1, z.at_ = x.2.at_ ∧ z.p.ptype = .contrib ∧ z.p.con.count = x.2.p.con.count + y.2.p.con.count ∧
          z.p.payload = (addUnits x.2.p.con.kind x.2.p.payload y.2.p.payload).1 ∧ z.p.txn = entry ∧ z.p.src = 4 * r + 3) ∧
        e.fld (Fld.RACE_ERR_MERGES.at (raceBase r)) = min (d.fld (Fld.RACE_ERR_MERGES.at (raceBase r)) + 1) Fld.RACE_ERR_MERGES.max) ∧
    (∀ p m, Current d p → isResponse p.ptype = true → NMap.get none (d.router r).merges p.txn = some m →
      silent (4 * r + 3) → d.queued r 0 1 + m.ins.length * flitsOf p ≤ 18 → (∀ x ∈ m.ins, Reaches d x.2.1) →
      let ty := if p.badPar = [] then p.ptype else .error
      let data := if p.badPar = [] then p.payload else []
      Completes (.mergedAnswer (4 * r + 3) p) s fun e =>
        NMap.get none (e.router r).merges p.txn = none ∧
        ∃ qs, queue e 1 = queue d 1 ++ qs ∧
          qs.map (fun q => (q.p.ptype, q.p.dstDev, q.p.txn, q.p.payload)) = m.ins.map fun x => (ty, x.2.1, x.2.2, data)) ∧
    (∀ key x, key < 14 → x ∈ queue d key → (∀ j, j < 14 → ∀ y ∈ queue d j, y.p = x.p → j = key ∧ y = x) →
      (x.at_ + d.ageLimit ≤ d.t → expectsAnswer x.p.ptype = false → rests key → Completes (.packetAged (.router r) x.p) s fun e =>
        queue e key = (queue d key).erase x ∧ Logged d e 0x201 4 r) ∧
      (x.at_ + d.ageLimit ≤ d.t → expectsAnswer x.p.ptype = true → rests key → 2 ≤ key → answers x.p →
        Completes (.packetAged (.router r) x.p) s fun e =>
          queue e key = (queue d key).erase x ∧ Logged d e 0x201 4 r ∧
          ∃ q : QPkt, queue e 1 = queue d 1 ++ [q] ∧ q.p.ptype = .error ∧ q.p.reason = 0x8F ∧ q.p.txn = x.p.txn) ∧
      (d.t < x.at_ + d.ageLimit → Completes (.packetAged (.router r) x.p) s fun e => e = { d with out := [] })) ∧
    (∀ x, (4 * r, x) ∈ d.arrived → x.at_ + d.ageLimit ≤ d.t → expectsAnswer x.p.ptype = true → CanAnswer d (4 * r) x.p 0 →
      Completes (.packetAged (.gateway r) x.p) s fun e =>
        Answered d e (4 * r) x.p .error 0x8F [] ∧ Logged d e 0x201 3 r ∧ e.arrived.length + 1 = d.arrived.length)

/-! ### Packets at the unit they reach -/

/-- R213, R218, R60, R233, R59, R210: READ answers the bytes of the memory or scratchpad range, WRITE stores its payload there,
acknowledges it and changes no other byte; a size outside 1–1,024 and an address the unit does not serve are answered ERROR 8Bh and
83h and change nothing; a WRITE behind an earlier one of its core to the same scratchpad waits; a packet two epochs behind is answered
ERROR 88h, one with a parity error 87h, one of the coming epoch waits. Each answer leaves when its node can send it (R208, R215). -/
def Obligations.ReadsAndWrites : Prop :=
  ∀ (s : State) (node : Nat) (p : Packet), nodeOk node = true → node ≠ cobNode →
    let d := s.dev
    let a := d.copyAddr (node / 4) p
    let n := p.payload.length
    (Current d p → p.badPar = [] → CanAnswer d node p p.aux → p.ptype = .read →
      (1 ≤ p.aux → p.aux ≤ 1024 → d.serves node p.addr = true → MemReady d p.addr p.aux → Completes (.read node p) s fun e =>
        Answered d e node p .readData 0 (memBytes d p.addr p.aux) ∧ e.mem = d.mem ∧ e.cores = d.cores) ∧
      (∀ id b c, 1 ≤ p.aux → p.aux ≤ 1024 → d.serves node p.addr = true → rangeOk p.addr p.aux = true →
        d.locate p.addr = .spad id b → d.spadCheck id b p.aux = .ok c → CleanSpad (d.core c) → Completes (.read node p) s fun e =>
          Answered d e node p .readData 0 (getBytes (d.core c).log.spad b p.aux) ∧ e.mem = d.mem ∧ ∀ j, e.core j = d.core j) ∧
      (p.aux = 0 ∨ 1024 < p.aux → Completes (.read node p) s fun e =>
        Answered d e node p .error 0x8B [] ∧ e.mem = d.mem ∧ e.cores = d.cores) ∧
      (1 ≤ p.aux → p.aux ≤ 1024 → d.serves node p.addr = false → Completes (.read node p) s fun e =>
        Answered d e node p .error 0x83 [] ∧ e.mem = d.mem ∧ e.cores = d.cores)) ∧
    (Current d p → p.badPar = [] → p.ptype = .write → 1 ≤ n → n ≤ 1024 → d.serves node a = true → d.behindOther node p = true →
      Completes (.write node p) s fun e =>
        (∃ x, (node, x) ∈ e.arrived ∧ x.p = p) ∧ e.routers = d.routers ∧ e.mem = d.mem ∧ e.cores = d.cores) ∧
    (Current d p → p.badPar = [] → CanAnswer d node p 0 → p.ptype = .write → 1 ≤ n → n ≤ 1024 → d.behindOther node p = false →
      (d.serves node a = true → MemReady d a n → Completes (.write node p) s fun e =>
        Answered d e node p .writeAck 0 [] ∧ MemHolds d e a p.payload ∧ e.cores = d.cores) ∧
      (∀ id b c, d.serves node a = true → rangeOk a n = true → d.locate a = .spad id b → d.spadCheck id b n = .ok c →
        CleanSpad (d.core c) → Completes (.write node p) s fun e =>
          Answered d e node p .writeAck 0 [] ∧
          (∀ x, NMap.get 0 (e.core c).log.spad x = if b ≤ x ∧ x < b + n then p.payload.getD (x - b) 0 else NMap.get 0 (d.core c).log.spad x) ∧
          { (e.core c).log with spad := [] } = { (d.core c).log with spad := [] } ∧ (∀ j, j ≠ c → e.core j = d.core j) ∧ e.mem = d.mem) ∧
      (d.serves node a = false → Completes (.write node p) s fun e =>
        Answered d e node p .error 0x83 [] ∧ e.mem = d.mem ∧ e.cores = d.cores)) ∧
    ((d.epoch + 4 - p.epoch % 4) % 4 = 2 → p.badPar = [] → CanAnswer d node p 0 → p.ptype = .read →
      Completes (.read node p) s fun e => Answered d e node p .error 0x88 [] ∧ e.mem = d.mem ∧ e.cores = d.cores) ∧
    (p.badPar ≠ [] → CanAnswer d node p 0 → p.ptype = .write → Completes (.write node p) s fun e =>
      Answered d e node p .error 0x87 [] ∧ e.mem = d.mem ∧ e.cores = d.cores) ∧
    ((d.epoch + 4 - p.epoch % 4) % 4 = 3 → p.badPar = [] → Completes (.write node p) s fun e =>
      (∃ x, (node, x) ∈ e.arrived ∧ x.p = p) ∧ e.routers = d.routers ∧ e.mem = d.mem ∧ e.cores = d.cores)

/-- R213, R210, R231, R233, R237, R43, R44, R60: the answers at a gateway complete the operation that awaits them: data with its
destination, acknowledgements `ok`, BOUNCE `closed`, ERROR `error` with a stop, an answer with a parity error `error` 87h; BUSY keeps the packet for its resend. -/
def Obligations.AnswersCompleteOperations : Prop :=
  ∀ (s : State) (r c : Nat) (o : Op) (q p : Packet), r < numRouters → Current s.dev p → AllSent s.dev r →
    s.dev.findOut r p.txn = some (c, o, q) → (s.dev.core c).log.op o.tag = some o → o.tag < 32 → o.st = 0 → o.ue = none →
    (∀ x ∈ (s.dev.gw r).fwd, x.2.txn ≠ p.txn) →
    let d := s.dev
    let l := (d.core c).log
    let ends := fun (st : Nat) (e : Dev) => (e.core c).log.op o.tag = none ∧ (e.core c).log.ctPend.testBit o.tag = false ∧
      (e.core c).log.tagStatus o.tag = st ∧ (∀ t, t < 32 → t ≠ o.tag → (e.core c).log.ctPend.testBit t = l.ctPend.testBit t) ∧
      (∀ j, j ≠ c → e.core j = d.core j) ∧ e.mem = d.mem
    let whole := o.out = [(q, 1)] ∧ o.todo = [] ∧ o.busy = [] ∧ (∀ x y, o.kind ≠ .verdictRead x y)
    (p.badPar ≠ [] → whole → l.state = .running → (d.core c).flag Fld.CORE_ERR_STATUS_LATCHED = false →
      Completes (.writeAck (4 * r) p) s fun e => ends 2 e ∧ (e.core c).log.s = l.s ∧ (e.core c).log.state = .faulted ∧
        (e.core c).fld Fld.CORE_ERR_REC0_CODE = 0xA ∧ (e.core c).fld Fld.CORE_ERR_REC2_REASON = 0x87) ∧
    (p.badPar = [] →
    (∀ dst isV sx size, o.kind = .load dst isV sx size → Completes (.readData (4 * r) p) s fun e => ends 0 e ∧
      (isV = false → (e.core c).log.sreg dst = loadValue sx size p.payload ∧ (e.core c).log.v = l.v ∧
        ∀ n, n ≠ dst → (e.core c).log.sreg n = l.sreg n) ∧
      (isV = true → (e.core c).log.s = l.s ∧ ∀ j, j < 16 → lane ((e.core c).log.vreg dst) j =
        if j < size / 4 then BitVec.ofNat 32 (ofBytes (slice p.payload (4 * j) 4)) else lane (l.vreg dst) j)) ∧
    (∀ x y v, o.kind = .flagWait x y v → v.toNat ≤ ofBytes p.payload → Completes (.readData (4 * r) p) s fun e =>
      ends 0 e ∧ (e.core c).log.s = l.s) ∧
    (∀ x y, o.kind = .verdictRead x y → Completes (.readData (4 * r) p) s fun e =>
      (e.core c).log.verdict = some (BitVec.ofNat 64 (ofBytes p.payload)) ∧ (e.core c).log.op o.tag = none ∧
      (e.core c).log.ctPend = l.ctPend) ∧
    (whole → Completes (.writeAck (4 * r) p) s fun e => ends 0 e ∧ (e.core c).log.s = l.s ∧ (e.core c).log.state = l.state) ∧
    (whole → Completes (.accept (4 * r) p) s fun e => ends 0 e ∧ (e.core c).log.s = l.s ∧ (e.core c).log.state = l.state) ∧
    (whole → Completes (.bounce (4 * r) p) s fun e => ends 1 e ∧ (e.core c).log.s = l.s ∧ (e.core c).log.state = l.state) ∧
    (whole → l.state = .running → (d.core c).flag Fld.CORE_ERR_STATUS_LATCHED = false → Completes (.errorRsp (4 * r) p) s fun e =>
      ends 2 e ∧ (e.core c).log.s = l.s ∧ (e.core c).log.state = .faulted ∧ (e.core c).fld Fld.CORE_ERR_REC0_CODE = 0xA ∧
      (e.core c).fld Fld.CORE_ERR_REC2_REASON = p.reason % 2 ^ 8) ∧
    (q.mc = 0 → Completes (.busy (4 * r) p) s fun e =>
      (∃ x, (e.core c).log.op o.tag = some x ∧ x.busy = o.busy ++ [q] ∧ x.todo = o.todo ∧ ∀ y ∈ x.out, y ∈ o.out ∨ y.1.txn = p.txn) ∧
      (e.core c).log.ctPend = l.ctPend ∧ (∀ j, j ≠ c → e.core j = d.core j) ∧ e.mem = d.mem))

/-- R228, R229, R231, R232, R233, R234: a MESSAGE is queued and accepted, or answered BUSY, BOUNCE or ERROR with nothing queued; one for a
core whose state is on its way stays at the gateway; 256 Race cycles after BUSY the packet goes again under a new transaction when
the regulator admits it and no flip of the routing tables holds it. -/
def Obligations.Messages : Prop :=
  ∀ (s : State) (r c : Nat) (p : Packet), r < numRouters → Current s.dev p → p.badPar = [] → CanAnswer s.dev (4 * r) p 0 →
    p.ptype = .message →
    let d := s.dev
    let lid := d.copyCore r p
    let k := d.core c
    let refuses := fun (t : PType) (reason : Nat) => Completes (.message (4 * r) p) s fun e =>
      Answered d e (4 * r) p t reason [] ∧ e.cores = d.cores
    let isOpen := closedReason (d.coreState c) = none
    (numLogical ≤ lid → refuses .error 0x81) ∧
    (lid < numLogical → d.hostOf lid = none → refuses .error 0x8D) ∧
    (lid < numLogical → d.hostOf lid = some c → d.coreHeld c = true → Completes (.message (4 * r) p) s fun e =>
      (∃ x, (4 * r, x) ∈ e.arrived ∧ x.p = p) ∧ e.routers = d.routers ∧ e.cores = d.cores) ∧
    (lid < numLogical → d.hostOf lid = some c → d.coreHeld c = false →
      (d.coreState c = .done → refuses .bounce 1) ∧
      (d.coreState c = .empty ∨ d.coreState c = .loading → refuses .bounce 2) ∧
      (d.coreState c = .faulted ∨ d.coreState c = .hung → refuses .bounce 3) ∧
      (d.coreState c = .underTest → refuses .bounce 9) ∧
      (isOpen → k.tagQueue p.tag = none → refuses .bounce 4) ∧
      (∀ n, isOpen → k.tagQueue p.tag = some n → (p.gen + 4 - k.gen % 4) % 4 = 2 → refuses .bounce 5) ∧
      (∀ n, isOpen → k.tagQueue p.tag = some n → (p.gen + 4 - k.gen % 4) % 4 ≠ 2 → 32 ≤ (k.log.mqueue n).length → refuses .busy 0) ∧
      (∀ n, isOpen → k.tagQueue p.tag = some n → (p.gen + 4 - k.gen % 4) % 4 ≠ 2 → (k.log.mqueue n).length < 32 →
        Completes (.message (4 * r) p) s fun e =>
          Answered d e (4 * r) p .accept 0 [] ∧
          (∃ x, (e.core c).log.mqueue n = k.log.mqueue n ++ [x] ∧
            (∀ i, i < 32 → x.extractLsb' (8 * i) 8 = p.payload.getD i 0) ∧ bits x 269 256 = p.srcCore % 2 ^ 14 ∧
            bits x 283 272 = p.tag % 2 ^ 12 ∧ bits x 301 288 = p.srcDev % 2 ^ 14 ∧ bits x 305 304 = p.gen % 4 ∧
            bit x 306 = decide (p.srcDev ≠ d.devId) ∧ bits x 447 384 = d.t) ∧
          (∀ j, j ≠ n → (e.core c).log.mqueue j = k.log.mqueue j) ∧ (∀ j, j ≠ c → e.core j = d.core j) ∧
          { (e.core c).log with mq := [] } = { k.log with mq := [] } ∧ e.mem = d.mem)) ∧
    (∀ txn o q, q.mc = 0 → q.ptype = .message ∨ q.ptype = .contrib → CanSend d (4 * r) 0 (flitsOf q) → Reaches d q.dstDev →
      d.flipHold r q = false → AllSent d r → q.txn = txn → d.refuseSend r q = none → k.log.op o.tag = some o →
      ((d.clusterOps r).findSome? fun x => (x.2.busy.find? fun y => y.txn == txn).map fun y => (x.1, x.2, y)) = some (c, o, q) →
      Completes (.busyResend r txn) s fun e =>
        (∃ z : QPkt, NMap.get [] (e.router r).q 0 = NMap.get [] (d.router r).q 0 ++ [z] ∧
          z.p.ptype = q.ptype ∧ z.p.dstCore = q.dstCore ∧ z.p.txn = d.nextTxn ∧ z.p.payload = q.payload ∧
          z.p.epoch = d.epoch % 4) ∧
        ∃ x, (e.core c).log.op o.tag = some x ∧ (∀ y ∈ x.busy, y.txn ≠ txn) ∧ ∃ z : Packet, x.out = o.out ++ [(z, 1)] ∧ z.txn = d.nextTxn) ∧
    (∀ txn o q, d.admitsCore r q = false ∨ d.flipHold r q = true →
      ((d.clusterOps r).findSome? fun x => (x.2.busy.find? fun y => y.txn == txn).map fun y => (x.1, x.2, y)) = some (c, o, q) →
      Completes (.busyResend r txn) s fun e => e = { d with out := [] })

/-- R235, R236, R386, R280: FLAG_WRITE sets a gateway's flag and FLAG_READ answers it; BAR_ENTER counts arrivals at a valid
barrier's root, and the last one sends BAR_RELEASE down the span and starts the count anew; BAR_RELEASE ends the barrier operations
of the members with `ok`, or goes on along a row span; RESET_NOTICE ends an operation that awaits the unit in reset with `error`,
and a port passes it to its link. -/
def Obligations.FlagsAndBarriers : Prop :=
  ∀ (s : State) (r : Nat) (p : Packet), r < numRouters → Current s.dev p → p.badPar = [] →
    let d := s.dev
    let b := p.aux % 256
    let x := (d.gw r).bar b
    let sent := fun (e : Dev) (P : Packet → Prop) =>
      ∃ q : QPkt, NMap.get [] (e.router r).q 0 = NMap.get [] (d.router r).q 0 ++ [q] ∧ q.p.ptype = .barRelease ∧ q.p.aux = b ∧ P q.p
    (CanAnswer d (4 * r) p 0 → Completes (.flagWrite (4 * r) p) s fun e => Answered d e (4 * r) p .writeAck 0 [] ∧
      (∀ n, NMap.get 0 (e.gw r).flags n = if n = p.aux % 64 then BitVec.ofNat 64 (ofBytes p.payload) else NMap.get 0 (d.gw r).flags n) ∧
      (∀ j, j ≠ r → e.gw j = d.gw j) ∧ e.cores = d.cores ∧ e.mem = d.mem) ∧
    (CanAnswer d (4 * r) p 8 → Completes (.flagRead (4 * r) p) s fun e =>
      Answered d e (4 * r) p .readData 0 (leBytes 8 (NMap.get 0 (d.gw r).flags (p.aux % 64)).toNat) ∧ e.gws = d.gws ∧
      e.cores = d.cores ∧ e.mem = d.mem) ∧
    (x.valid = true → x.arrived + 1 < x.awaits → Completes (.barEnter (4 * r) p) s fun e =>
      (e.gw r).bar b = { x with arrived := x.arrived + 1 } ∧ e.routers = d.routers ∧ e.step = d.step ∧ e.cores = d.cores) ∧
    (x.valid = true → x.awaits ≤ x.arrived + 1 → CanSend d (4 * r) 0 1 → Completes (.barEnter (4 * r) p) s fun e =>
      (e.gw r).bar b = { x with arrived := 0 } ∧ e.cores = d.cores ∧
      (x.colSpan = none → sent e fun q => q.mc = 0 ∧ q.dst = 4 * r) ∧
      (∀ lo hi, x.colSpan = some (lo, hi) → sent e fun q => q.mc = 2 ∧ q.mcLo = d.physRow lo ∧ q.mcHi = d.physRow hi ∧
        q.dst = 4 * (8 * d.physRow lo + r % 8)) ∧
      e.step.barDone = (d.step.barDone || (decide (b = d.fld Fld.COB_STEP_CFG_SEAL_BAR) && d.inProgress))) ∧
    (x.valid = false → Completes (.barEnter (4 * r) p) s fun e => e.gws = d.gws ∧ e.routers = d.routers) ∧
    (x.rowSpan = none → x.entered = x.members → 0 < x.members →
      (∀ y ∈ d.clusterOps r, y.2.kind = .bar b → y.2.st = 0 ∧ y.2.tag < 32) →
      Completes (.barRelease (4 * r) p) s fun e => (e.gw r).bar b = { x with entered := 0 } ∧ e.routers = d.routers ∧
        ∀ y ∈ d.clusterOps r, y.2.kind = .bar b → (e.core y.1).log.ctPend.testBit y.2.tag = false ∧
          (e.core y.1).log.tagStatus y.2.tag = 0 ∧ (e.core y.1).log.op y.2.tag = none) ∧
    (∀ lo hi, x.rowSpan = some (lo, hi) → x.entered < x.members → p.mc ≠ 1 → CanSend d (4 * r) 0 1 → Completes (.barRelease (4 * r) p) s fun e =>
      (sent e fun q => q.mc = 1 ∧ q.mcLo = lo ∧ q.mcHi = hi ∧ q.dst = 4 * (r / 8 * 8 + lo)) ∧ e.gws = d.gws ∧ e.cores = d.cores) ∧
    (∀ c o q, ((d.clusterOps r).flatMap fun y => (y.2.out.filter fun z => (d.translate z.1).dst == p.src).map fun z => z.1) = [q] → AllSent d r →
      d.findOut r q.txn = some (c, o, q) → o.out = [(q, 1)] → o.busy = [] → o.todo = [] → (∀ f g, o.kind ≠ .verdictRead f g) →
      (d.core c).log.op o.tag = some o → o.st = 0 → o.tag < 32 → Completes (.resetNotice (4 * r) p) s fun e =>
        (e.core c).log.tagStatus o.tag = 2 ∧ (e.core c).log.ctPend.testBit o.tag = false ∧ (e.core c).log.op o.tag = none) ∧
    (∀ q, q < 20 → Completes (.resetNotice (portNode q) p) s fun e =>
      (e.port q).ctrl = (d.port q).ctrl ++ [Slot.resetNotice p.aux d.t] ∧ e.cores = d.cores)

/-- R36, R67, R68, R253: instruction words reach an EMPTY, LOADING or DONE core: they stand in instruction memory, the core is
LOADING until all have come, then LOADED with its architectural state at reset, or EMPTY with IMEM_LOAD_CHECK where the CRC differs;
a core in another state refuses them. Which packet fields say the index, the total and the CRC is the model's choice (log 18). -/
def Obligations.InstructionLoads : Prop :=
  ∀ (s : State) (r c : Nat) (p : Packet), r < numRouters → Current s.dev p → p.badPar = [] → CanAnswer s.dev (4 * r) p 0 →
    p.ptype = .iload →
    let d := s.dev
    let lid := d.copyCore r p
    let k := d.core c
    let ws : List Word := (chunks 8 128 p.payload).map fun b => BitVec.ofNat 64 (ofBytes b)
    let i := iloadIndex p
    let holds := fun (e : Dev) => (∀ j x, ws[j]? = some x → NMap.get 0 (e.core c).log.imem (i + j) = x) ∧
      (∀ j, j < i ∨ i + ws.length ≤ j → NMap.get 0 (e.core c).log.imem j = NMap.get 0 k.log.imem j) ∧
      Answered d e (4 * r) p .writeAck 0 [] ∧ (∀ j, j ≠ c → e.core j = d.core j)
    lid < numLogical → d.hostOf lid = some c → d.coreHeld c = false →
    ((d.coreState c = .empty ∨ d.coreState c = .done) → i + ws.length ≤ 4096 → ws.length < iloadTotal p →
      Completes (.iload (4 * r) p) s fun e => holds e ∧ (e.core c).log.state = .loading ∧
        (e.core c).log.load = some { total := iloadTotal p, crc := p.aux, got := ws.length } ∧ (e.core c).log.spad = k.log.spad) ∧
    (∀ x, d.coreState c = .loading → k.log.load = some x → i + ws.length ≤ 4096 →
      (x.got + ws.length < x.total → Completes (.iload (4 * r) p) s fun e => holds e ∧ (e.core c).log.state = .loading ∧
        (e.core c).log.load = some { x with got := x.got + ws.length }) ∧
      (x.got + ws.length = x.total → (k.log.putImem i ws).imemCrc x.total = x.crc → Completes (.iload (4 * r) p) s fun e =>
        holds e ∧ (e.core c).log.state = .loaded ∧ (e.core c).log.pc = 0 ∧ (e.core c).log.s = [] ∧ (e.core c).log.v = [] ∧
        (e.core c).log.p = [] ∧ (e.core c).log.ctPend = 0 ∧ (e.core c).log.tiles = [] ∧ (e.core c).log.sc = []) ∧
      (x.got + ws.length = x.total → (k.log.putImem i ws).imemCrc x.total ≠ x.crc → k.flag Fld.CORE_ERR_STATUS_LATCHED = false →
        Completes (.iload (4 * r) p) s fun e => (e.core c).log.state = .empty ∧ (e.core c).fld Fld.CORE_ERR_REC0_CODE = 8)) ∧
    ((d.coreState c = .running ∨ d.coreState c = .loaded ∨ d.coreState c = .faulted ∨ d.coreState c = .hung) →
      Completes (.iload (4 * r) p) s fun e => Answered d e (4 * r) p .error 0x91 [] ∧ e.cores = d.cores) ∧
    (d.coreState c = .underTest → Completes (.iload (4 * r) p) s fun e =>
      Answered d e (4 * r) p .error 0x90 [] ∧ e.cores = d.cores)

/-! ### Confluence queues -/

/-- R238–R241: a contribution the entry accepts is added to its block, and at the expected count the block is delivered into the
scratchpad of the delivery core; one it does not accept is answered BUSY or BOUNCE, judged by when the gateway registered it; at the
deadline, with what came in time taken, every block is delivered short and the step in progress ends; a waiting post is tried again until the queue has room. -/
def Obligations.ConfluenceQueues : Prop :=
  ∀ (s : State) (r n : Nat), r < numRouters → n < 64 →
    let d := s.dev
    let kind := d.confKind r n
    (∀ p, Current d p → p.badPar = [] → p.ptype = .contrib → numLogical ≤ p.dstCore → CanAnswer d (4 * r) p 0 →
      Completes (.contrib (4 * r) p) s fun e => Answered d e (4 * r) p .error 0x81 [] ∧ e.gws = d.gws ∧ e.cores = d.cores) ∧
    (∀ p, Current d p → p.badPar = [] → CanAnswer d (4 * r) p 0 → p.dstCore < numLogical →
      let case := d.contribCase r n (d.regTime (4 * r) p) p
      let b := (d.conf r n).block p.aux
      let u := (addUnits kind (b.bytes kind) p.payload).1
      let expected := d.fld (cf Fld.CLU_CONF_CFG_EXPECTED r n)
      (d.confOf r p.tag = none → Completes (.contrib (4 * r) p) s fun e => Answered d e (4 * r) p .bounce 6 [] ∧ e.gws = d.gws) ∧
      (∀ x, d.confOf r p.tag = some n → case = some x → Completes (.contrib (4 * r) p) s fun e =>
        Answered d e (4 * r) p x.1 x.2 [] ∧ e.gws = d.gws ∧ e.cores = d.cores) ∧
      (d.confOf r p.tag = some n → case = none → b.count + p.con.count ≠ expected →
        Completes (.contrib (4 * r) p) s fun e =>
          Answered d e (4 * r) p .accept 0 [] ∧ ((e.conf r n).block p.aux).count = b.count + p.con.count ∧
          ((e.conf r n).block p.aux).sum = (if kind = 0 then u.map fun x => (x.toNat : Int) else blkInts kind u) ∧
          (∀ j, j ≠ p.aux → (e.conf r n).block j = (d.conf r n).block j) ∧ e.cores = d.cores ∧ e.mem = d.mem) ∧
      (∀ c, d.confOf r p.tag = some n → case = none → b.count + p.con.count = expected → kind = 1 ∨ kind = 2 →
        (addUnits kind (b.bytes kind) p.payload).2 = false →
        d.fld (cf Fld.CLU_CONF_DELIVER_DELIVER_MODE r n) = 0 → d.flag (cr Fld.CLU_CONF_RED_SCREEN r n) = false →
        let core := d.fld (cf Fld.CLU_CONF_DELIVER_CORE r n)
        let off := d.fld (cf Fld.CLU_CONF_DELIVER_DELIVER_OFFSET r n) + (p.aux - d.confFirst r n) * unitLen kind
        d.spadCheck core off (unitLen kind) = .ok c → CleanSpad (d.core c) →
        Completes (.contrib (4 * r) p) s fun e =>
          Answered d e (4 * r) p .accept 0 [] ∧ ((e.conf r n).block p.aux).done = 1 ∧
          getBytes (e.core c).log.spad off (unitLen kind) = mkBlk kind (blkInts kind u) (blkResid kind u) (blkFlags kind u) ∧
          ∀ x, x < off ∨ off + unitLen kind ≤ x → NMap.get 0 (e.core c).log.spad x = NMap.get 0 (d.core c).log.spad x)) ∧
    (let blocks := fun (e : Dev) (i : Nat) => (e.conf r n).block (d.confFirst r n + i)
     (d.confState r n = 1 → d.confDue r n ≤ d.t → d.confOnTime r n = [] → (∃ i, i < d.confBlocks r n ∧ (blocks d i).done = 0) →
        Completes (.confDeadline r n) s fun e => (∀ i, i < d.confBlocks r n → (blocks e i).done ≠ 0) ∧ e.inProgress = false) ∧
     (d.confState r n ≠ 1 ∨ d.t < d.confDue r n → Completes (.confDeadline r n) s fun e => e = { d with out := [] })) ∧
    (∀ core c q x, core < numLogical → (d.conf r n).writes = [] → ((d.conf r n).posts.find? fun y => y.1 == core) = some (core, x) →
      d.hostOf core = some c → closedReason (d.coreState c) = none →
      (d.core c).tagQueue (d.fld (cf Fld.CLU_CONF_DELIVER_DELIVER_TAG r n)) = some q →
      ((d.core c).log.mqueue q).length < 32 → Completes (.deliveryPostRetry r n core) s fun e =>
        (e.core c).log.mqueue q = (d.core c).log.mqueue q ++ [x ||| (BitVec.ofNat 512 d.t <<< 384)] ∧
        (e.conf r n).posts = (d.conf r n).posts.erase (core, x)) ∧
    (∀ core c q x, core < numLogical → (d.conf r n).writes = [] → ((d.conf r n).posts.find? fun y => y.1 == core) = some (core, x) →
      d.hostOf core = some c → closedReason (d.coreState c) = none →
      (d.core c).tagQueue (d.fld (cf Fld.CLU_CONF_DELIVER_DELIVER_TAG r n)) = some q →
      32 ≤ ((d.core c).log.mqueue q).length → Completes (.deliveryPostRetry r n core) s fun e =>
        e.cores = d.cores ∧ (e.conf r n).posts = (d.conf r n).posts)

/-! ### Welt engines -/

/-- R247, R250, R251, R252, R257, R258: the descriptor at HEAD starts, waits for its flag, or ends the ring as malformed; a ring
reads its tail flag; an ended descriptor completes with its post and entry, an error or timeout stopping the ring and the step; a
request without answer times out. -/
def Obligations.WeltRings : Prop :=
  ∀ (s : State) (k r : Nat), k < 20 → r < 16 →
    let d := s.dev
    let h := d.ring Fld.HBM_WELT_RING_CTRL_HEAD k r
    let t := d.ring Fld.HBM_WELT_RING_CTRL_TAIL k r
    let bs := memBytes d (d.headAddr k r) 64
    let ready := d.ringGo k r = true ∧ MemReady d (d.headAddr k r) 64 ∧ h ≠ t ∧
      (t + 2 ^ 16 - h) % 2 ^ 16 ≤ 2 ^ d.ring Fld.HBM_WELT_RING_BASE_SIZE_LOG2 k r
    let free := dFence bs = false ∨ d.live k r = []
    let begins := fun (e : Dev) => (e.memc k).descs = (d.memc k).descs ++ [{ ring := r, index := h, bytes := bs, at_ := d.t }] ∧
      e.ring Fld.HBM_WELT_RING_CTRL_HEAD k r = (h + 1) % 2 ^ 16 ∧ e.mem = d.mem ∧ e.cores = d.cores
    let stays := fun (e : Dev) => (e.memc k).descs = (d.memc k).descs ∧ e.regs = d.regs ∧ e.mem = d.mem
    (ready → descBad k bs = false → free → dWait bs = false → Completes (.weltDescriptorStart k r) s begins) ∧
    (ready → descBad k bs = true → MemReady d (cqAddr d k) 32 → Completes (.weltDescriptorStart k r) s fun e =>
      EntryWritten d e k r 3 0 ∧ e.ring Fld.HBM_WELT_RING_CTRL_STATE k r = 2 ∧ (e.memc k).descs = (d.memc k).descs) ∧
    (h = t → Completes (.weltDescriptorStart k r) s fun e => e = { d with out := [] }) ∧
    (d.ringGo k r = false → Completes (.weltDescriptorStart k r) s fun e => e = { d with out := [] }) ∧
    (∀ c, ready → descBad k bs = false → free → dWait bs = true → dField bs 48 4 % 2 ^ 14 < numLogical →
      d.hostOf (dField bs 48 4 % 2 ^ 14) = some c →
      let value := (NMap.get 0 (d.gw (routerOf c)).flags (dField bs 48 4 / 2 ^ 16)).toNat
      (dField bs 56 4 ≤ value → Completes (.weltWaitPoll k r) s begins) ∧
      (value < dField bs 56 4 → Completes (.weltWaitPoll k r) s fun e => (e.memc k).descs = (d.memc k).descs ∧
        e.ring Fld.HBM_WELT_RING_CTRL_HEAD k r = h)) ∧
    (∀ c, d.ringGo k r = true → d.ring Fld.HBM_WELT_RING_CTRL_TAIL_SRC k r = 1 → h = t →
      d.ring Fld.HBM_WELT_RING_CTRL_TAIL_CORE k r < numLogical →
      d.hostOf (d.ring Fld.HBM_WELT_RING_CTRL_TAIL_CORE k r) = some c → Completes (.weltTailPoll k r) s fun e =>
        e.ring Fld.HBM_WELT_RING_CTRL_TAIL k r =
          (NMap.get 0 (d.gw (routerOf c)).flags (d.ring Fld.HBM_WELT_RING_CTRL_TAIL_FLAG k r)).toNat % 2 ^ 16 ∧
        e.ring Fld.HBM_WELT_RING_CTRL_HEAD k r = h ∧ e.mems = d.mems ∧ e.mem = d.mem) ∧
    (∀ x, ((d.memc k).descs.find? fun u => u.ring == r && u.ran) = some x → MemReady d (cqAddr d k) 32 →
      (x.status = 0 → dPost x.bytes = false → Completes (.weltDescriptorComplete k r) s fun e =>
        EntryWritten d e k r 0 0 ∧ (e.memc k).descs = (d.memc k).descs.erase x ∧ e.gws = d.gws ∧
        e.ring Fld.HBM_WELT_RING_CTRL_STATE k r = d.ring Fld.HBM_WELT_RING_CTRL_STATE k r) ∧
      (∀ c, x.status = 0 → dPost x.bytes = true → dField x.bytes 52 4 % 2 ^ 14 < numLogical →
        d.hostOf (dField x.bytes 52 4 % 2 ^ 14) = some c → Completes (.weltDescriptorComplete k r) s fun e =>
          EntryWritten d e k r 0 0 ∧ (e.memc k).descs = (d.memc k).descs.erase x ∧
          NMap.get 0 (e.gw (routerOf c)).flags (dField x.bytes 52 4 / 2 ^ 16) = BitVec.ofNat 64 (dField x.bytes 60 4)) ∧
      (x.status = 2 → Completes (.weltDescriptorComplete k r) s fun e =>
        EntryWritten d e k r 2 0 ∧ e.ring Fld.HBM_WELT_RING_CTRL_STATE k r = 2 ∧ e.inProgress = false ∧ e.gws = d.gws)) ∧
    (∀ x t0, ((d.memc k).descs.find? fun u => u.ring == r && !u.ran && u.asked.isSome) = some x → x.asked = some t0 →
      d.memPauses (dSrc x.bytes) = false → d.memPauses (dDst x.bytes) = false →
      (t0 + 1000 * d.fld Fld.HANG_TIMEOUTS_WELT_TIMEOUT ≤ d.t → Completes (.weltRequestTimeout k r) s fun e =>
        Becomes d e k x { x with ran := true, status := 2 } ∧ e.regs = d.regs ∧ e.mem = d.mem) ∧
      (d.t < t0 + 1000 * d.fld Fld.HANG_TIMEOUTS_WELT_TIMEOUT → Completes (.weltRequestTimeout k r) s stays)) ∧
    ((∀ x ∈ (d.memc k).descs, x.ring = r → x.asked = none) → Completes (.weltRequestTimeout k r) s stays)

/-- R249, R251, R253, R254, R255: the operations that move data: the bytes of SRC reach DST, a pattern fills it, words go out on an
edge link as far as LENGTH, words that came in reach memory with their credits returned, instruction words reach their core; DONE is
LENGTH. -/
def Obligations.WeltMovesData : Prop :=
  ∀ (s : State) (k r : Nat) (x : Desc), k < 20 → r < 16 → s.dev.fld Fld.COB_RACE_STATUS_SERVICE ≠ 0 → dMc x.bytes = 0 →
    x.bytes.length = 64 →
    let d := s.dev
    let b := x.bytes
    let n := dLen b
    let data := memBytes d (dSrc b) n
    let ends := fun (e : Dev) (m : Nat) => Becomes d e k x { x with ran := true, moved := m, asked := none } ∧ e.cores = d.cores
    (Oldest d k r 0 x → Completes (.weltNop k r) s fun e =>
      Becomes d e k x { x with ran := true, asked := none } ∧ e.mem = d.mem ∧ e.cores = d.cores ∧ e.regs = d.regs) ∧
    (Oldest d k r 1 x → MemReady d (dSrc b) n → MemReady d (dDst b) n → Apart d (dSrc b) n (dDst b) n →
      Completes (.copy k r) s fun e => MemHolds d e (dDst b) data ∧ ends e n) ∧
    (Oldest d k r 5 x → n % 64 = 0 → MemReady d (dDst b) n → Completes (.fill k r) s fun e =>
      MemHolds d e (dDst b) (List.replicate (n / 8) (slice b 24 8)).flatten ∧ ends e n) ∧
    (∀ l m, Oldest d k r 2 x → edgeLinks b = [l] → dField b 28 2 ≠ 0 → n = 64 * m → 0 < m → m < 256 → edgeSeal b = false →
      MemReady d (dSrc b) n → m ≤ (d.edge k l (edgeStream b)).credits → d.cob.copying = false → x.moved = 0 → Completes (.streamOut k r) s fun e =>
        (e.edge k l (edgeStream b)).credits = (d.edge k l (edgeStream b)).credits - m ∧
        (∃ ws : List StitchWord, e.out = ws.map (Out.edge k l (d.map.cur.edgeCore k l)) ∧
          ws.map (fun w => (w.data, w.kind, w.stream)) =
            (List.range m).map fun j => (lineOf (memBytes d (dSrc b + 64 * j) 64), 0, edgeStream b)) ∧
        e.mem = d.mem ∧ ends e n) ∧
    (∀ l m ws rest, Oldest d k r 3 x → edgeLinks b = [l] → dField b 28 2 ≠ 0 → n = 64 * m → 0 < m → m < 256 → edgeSeal b = false →
      MemReady d (dDst b) n → (d.edge k l (edgeStream b)).inq = ws ++ rest → ws.length = m → (∀ w ∈ ws, w.kind = 0) → x.moved = 0 →
      Completes (.streamIn k r) s fun e =>
        MemHolds d e (dDst b) (ws.flatMap fun w => lineBytes w.data) ∧ (e.edge k l (edgeStream b)).inq = rest ∧
        e.out = ws.map (fun w => Out.edgeCredit k l (edgeStream b) 1 w.gen) ∧ ends e n) ∧
    (∀ c, Oldest d k r 4 x → n ≤ 1024 → MemReady d (dSrc b) n → dDst b % 2 ^ 14 < numLogical → dDst b < 2 ^ 28 → dField b 28 2 ≤ 4096 →
      d.hostOf (dDst b % 2 ^ 14) = some c → (d.coreState c = .empty ∨ d.coreState c = .done) → n % 8 = 0 →
      dDst b / 2 ^ 16 + n / 8 ≤ 4096 → n / 8 < dField b 28 2 → Completes (.weltIload k r) s fun e =>
        Becomes d e k x { x with ran := true, moved := n, asked := none } ∧ (e.core c).log.state = .loading ∧
        (∀ j, j < n / 8 → NMap.get 0 (e.core c).log.imem (dDst b / 2 ^ 16 + j) = BitVec.ofNat 64 (ofBytes (slice data (8 * j) 8))) ∧
        (e.core c).log.load = some { total := dField b 28 2, crc := dField b 24 4, got := n / 8 } ∧
        (∀ j, j ≠ c → e.core j = d.core j) ∧ e.mem = d.mem)

/-- R325, R326, R327, R329, R133: the commit operations on a shard: SHADOW_WRITE writes the shadow buffer alone, DIGEST stores the
digest of shadow buffer and table on a digest step and nothing on another, SCALE_RULES gives a flagged block its old values back and
raises its exponent, FLIP enters the shard into the flip list once, ANCHOR copies the active buffer. -/
def Obligations.WeltCommitsShards : Prop :=
  ∀ (s : State) (k r : Nat) (x : Desc) (h : Shard) (hd : List Byte), k < 20 → r < 16 → s.dev.fld Fld.COB_RACE_STATUS_SERVICE ≠ 0 →
    ShardAt s.dev (dField x.bytes 24 8) h hd →
    let d := s.dev
    let b := x.bytes
    let n := dLen b
    let a := h.active
    let sh := 1 - h.active
    let tabLen := 64 + 4 * h.entries
    let ends := fun (e : Dev) (m : Nat) => Becomes d e k x { x with ran := true, moved := m, asked := none } ∧ e.cores = d.cores
    let refused := fun (e : Dev) (m reason : Nat) => Becomes d e k x { x with ran := true, status := 1, reason, moved := m }
    (Oldest d k r 8 x → dField b 32 4 + n ≤ h.bufSize → MemReady d (dSrc b) n → MemReady d (h.buf sh + dField b 32 4) n →
      Apart d (dSrc b) n (h.buf sh + dField b 32 4) n → Completes (.shadowWrite k r) s fun e =>
        MemHolds d e (h.buf sh + dField b 32 4) (memBytes d (dSrc b) n) ∧ ends e n) ∧
    (Oldest d k r 8 x → h.bufSize < dField b 32 4 + n → Completes (.shadowWrite k r) s fun e => refused e 0 0x8A ∧ e.mem = d.mem) ∧
    (Oldest d k r 7 x → n = h.bufSize → d.digestStep = true → MemReady d (h.buf sh) h.size →
      (h.tab sh = 0 ∨ MemReady d (h.tab sh) tabLen) → MemReady d (dDst b) 32 → Completes (.digest k r) s fun e =>
        MemHolds d e (dDst b) (leBytes 6 d.stepNo ++ leBytes 10 0 ++
          shardDigest (memBytes d (h.buf sh) h.size ++ if h.tab sh = 0 then [] else memBytes d (h.tab sh) tabLen)) ∧ ends e n) ∧
    (Oldest d k r 7 x → n = h.bufSize → d.digestStep = false → Completes (.digest k r) s fun e => e.mem = d.mem ∧ ends e 0) ∧
    (Oldest d k r 9 x → hd = [] → dField b 40 4 = 0 → ceilDiv h.entries 512 * 64 ≤ n → MemReady d (dSrc b) n → MemReady d (dDst b) n →
      MemReady d (h.buf a) h.size → MemReady d (h.buf sh) h.size → Apart d (dDst b) n (h.buf a) h.size →
      Apart d (dDst b) n (h.buf sh) h.size → Completes (.scaleRules k r) s fun e =>
        let m := memBytes d (dSrc b) n
        (∀ i, i < h.count → memBytes e (h.buf sh + h.width * i) h.width =
          memBytes d (h.buf (if mapBit m (h.blockOf i) then a else sh) + h.width * i) h.width) ∧
        memBytes e (dDst b) n = m ∧ ends e n) ∧
    (∀ limit steps y vs, entUnscaled y = false → entE y < 127 → (applyRule limit steps true y vs).old = true ∧
      entE (applyRule limit steps true y vs).entry = entE y + 1 ∧ entCalm (applyRule limit steps true y vs).entry = 0) ∧
    (Oldest d k r 0xA x → h.at_ ∉ (d.memc k).flips → (d.memc k).flips.length < 256 → Completes (.flip k r) s fun e =>
      (e.memc k).flips = (d.memc k).flips ++ [h.at_] ∧ e.mem = d.mem ∧ ends e n) ∧
    (Oldest d k r 0xA x → h.at_ ∈ (d.memc k).flips → Completes (.flip k r) s fun e =>
      (e.memc k).flips = (d.memc k).flips ∧ e.mem = d.mem ∧ ends e n) ∧
    (Oldest d k r 0xA x → h.at_ ∉ (d.memc k).flips → 256 ≤ (d.memc k).flips.length → Completes (.flip k r) s fun e =>
      (e.memc k).flips = (d.memc k).flips ∧ refused e 0 0x93) ∧
    (Oldest d k r 0xB x → hd = [] → 64 + h.bufSize ≤ n → h.digestValid = true → h.step = d.fld Fld.COB_STEP_COMMITTED_STEP →
      MemReady d (h.buf a) h.bufSize → MemReady d (dDst b) (64 + h.bufSize) → Apart d (h.buf a) h.bufSize (dDst b) (64 + h.bufSize) →
      shardDigest ((memBytes d (h.buf a) h.bufSize).take h.size) = h.digest → Completes (.anchor k r) s fun e =>
        memBytes e (dDst b + 64) h.bufSize = memBytes d (h.buf a) h.bufSize ∧ memBytes e (dDst b) 8 = leBytes 8 h.at_ ∧
        memBytes e (dDst b + 14) 1 = [1] ∧ ends e n)

/-- R152, R155, R156, R160, R161, R163, R256: a compressing store of one tile: the chosen form conforms, the stored form reaches DST
and its metadata word META; without COMPRESS the tile is stored dense. -/
def Obligations.WeltCompressingStore : Prop :=
  ∀ (s : State) (k r : Nat) (x : Desc), k < 20 → r < 16 → s.dev.fld Fld.COB_RACE_STATUS_SERVICE ≠ 0 → Oldest s.dev k r 6 x →
    zBad x.bytes = false → zTiles x.bytes = 1 → zEmitT x.bytes = false →
    let d := s.dev
    let b := x.bytes
    let f := zElem b
    let tile := zTile f (memBytes d (dSrc b) (bTile f))
    let form := (zChoose b tile).1
    let lifts := (zChoose b tile).2
    let out := tile.store f form false lifts
    let word := (tile.word f form false lifts).toNat
    let dest := dField b 32 8
    (form ≠ 0 → tile.conforms f form lifts = true ∧ lifts.length ≤ zLifts b ∧ zCompress b = true ∧ tile.nonFinite = false) ∧
    (form = 0 → lifts = []) ∧
    (zCompress b = false → form = 0) ∧
    (MemReady d (dSrc b) (bTile f) → MemReady d (dDst b) out.length → MemReady d dest 8 → Apart d (dDst b) out.length dest 8 →
      Completes (.storeZ k r) s fun e =>
        memBytes e (dDst b) out.length = out ∧ memBytes e dest 8 = leBytes 8 word ∧
        (form = 0 → memBytes e (dDst b) (bTile f) = memBytes d (dSrc b) (bTile f)) ∧
        (∀ y, (∀ i, i < out.length → keyAt d (dDst b + i) ≠ some y) → (∀ i, i < 8 → keyAt d (dest + i) ≠ some y) →
          NMap.get 0 e.mem y = NMap.get 0 d.mem y) ∧
        Becomes d e k x { x with ran := true, moved := bTile f, asked := none } ∧ e.cores = d.cores)

/-! ### Memory units -/

/-- R264–R270, R370, R372: a scrub access to a line without errors moves on and changes no byte, and waits while the block's remap copy
or test runs; a lap is counted when all blocks
are done; a fill ends with zeros over the whole memory and nothing outside it, and the memory SERVING; training ends SERVING,
FILLING or DOWN; a remap copy makes ACTIVE what VALID is; an armed flip adds its mask to the errors of its block once. An event whose
condition does not hold changes nothing (the model's choice, log 24). -/
def Obligations.MemoryUnits : Prop :=
  ∀ (s : State) (k : Nat), k < 20 →
    let d := s.dev
    let b := memBase k
    let m := d.memc k
    let held := d.remapBusy k (64 * m.scrub) = true ∨ d.blockTest k m.scrub = true
    (d.memState k = 3 → m.scrub < memBlocks k → ¬ held → m.dram = [] → NMap.get [] d.memErr (memKey k (64 * m.scrub) / 64) = [] →
      NMap.get none d.memFold (memKey k (64 * m.scrub) / 64) = none → NMap.get 0 d.memReach (memKey k (64 * m.scrub) / 64) = 0 →
      Completes (.scrubAccess (.mem k)) s fun e => (e.memc k).scrub = m.scrub + 1 ∧ e.mem = d.mem ∧ e.memErr = d.memErr ∧
        e.cores = d.cores) ∧
    (d.memState k ≠ 3 ∨ held → Completes (.scrubAccess (.mem k)) s fun e => e = { d with out := [] }) ∧
    (memBlocks k ≤ m.scrub → Completes (.scrubLapEnd (.mem k)) s fun e =>
      (e.memc k).scrub = 0 ∧ (e.memc k).lapAt = d.t ∧ e.fld (Fld.HBM_SCRUB_LAPS.at b) =
        min (d.fld (Fld.HBM_SCRUB_LAPS.at b) + 1) Fld.HBM_SCRUB_LAPS.max ∧ e.mem = d.mem) ∧
    (m.scrub < memBlocks k → Completes (.scrubLapEnd (.mem k)) s fun e => e = { d with out := [] }) ∧
    (∀ c j, c < numCores → j < 8 → (d.core c).bank j = 0 → NMap.get 0 (d.core c).sil.scrub j < 768 → CleanSpad (d.core c) →
      let w := 768 * j + NMap.get 0 (d.core c).sil.scrub j
      (d.core c).remapBusy (64 * w) 64 = false → 64 * w < (d.core c).spillBase → Completes (.scrubAccess (.bank c j)) s fun e =>
        NMap.get 0 (e.core c).sil.scrub j = NMap.get 0 (d.core c).sil.scrub j + 1 ∧ (e.core c).log = (d.core c).log) ∧
    (∀ c j, c < numCores → j < 8 → NMap.get 0 (d.core c).sil.scrub j = 768 → Completes (.scrubLapEnd (.bank c j)) s fun e =>
      NMap.get 0 (e.core c).sil.scrub j = 0 ∧ NMap.get 0 (e.core c).sil.lapAt j = d.t ∧ (e.core c).log = (d.core c).log) ∧
    (∀ bad, d.flag (Fld.HBM_FILL_BUSY.at b) = true → d.flag (Fld.HBM_FLIP_CTRL_ARM.at b) = false →
      d.flag (Fld.HBM_FILL_MODE.at b) = false → Completes (.memFillEnd k bad) s fun e =>
        (∀ l, l < 64 * memBlocks k → NMap.get 0 e.mem (memKey k l) = 0) ∧
        (∀ y, y < memKey k 0 ∨ memKey k (64 * memBlocks k) ≤ y → NMap.get 0 e.mem y = NMap.get 0 d.mem y) ∧
        e.memState k = 3 ∧ e.flag (Fld.HBM_FILL_BUSY.at b) = false ∧ e.flag (Fld.HBM_FILL_START.at b) = false ∧
        (e.memc k).saved = true ∧ e.cores = d.cores) ∧
    (d.memState k = 1 → Completes (.memTrainingEnd k false) s fun e => e.memState k = 4 ∧ e.mem = d.mem) ∧
    (d.memState k = 1 → d.fld Fld.COB_BRINGUP_STATE ≠ 2 → m.lost = false → Completes (.memTrainingEnd k true) s fun e =>
      e.memState k = 3 ∧ (e.memc k).saved = true ∧ e.mem = d.mem) ∧
    (d.memState k = 1 → d.fld Fld.COB_BRINGUP_STATE = 2 → d.fld Fld.COB_BRINGUP_RESET_KIND = 0 →
      Completes (.memTrainingEnd k true) s fun e => e.memState k = 2 ∧ e.flag (Fld.HBM_FILL_BUSY.at b) = true ∧ e.mem = d.mem) ∧
    (∀ i, i < (if k < 16 then 256 else 64) → Completes (.remapCopyEnd (.mem k) i) s fun e =>
      e.fld ((Fld.HBM_REMAP_ACTIVE.nth 8 i).at b) = d.fld ((Fld.HBM_REMAP_VALID.nth 8 i).at b) ∧ e.mem = d.mem) ∧
    (∀ block, block < memBlocks k → NMap.get 0 d.memReach (memKey k (64 * block) / 64) = 0 →
      d.flag (Fld.HBM_FLIP_CTRL_ARM.at b) = true →
      (d.flag (Fld.HBM_FLIP_CTRL_MATCH_EN.at b) = false ∨ d.fld (Fld.HBM_FLIP_CTRL_BLOCK.at b) = block) →
      Completes (.flipMaskApply (.mem k) block) s fun e =>
        e.flag (Fld.HBM_FLIP_CTRL_ARM.at b) = false ∧ e.flag (Fld.HBM_FLIP_CTRL_APPLIED.at b) = true ∧
        NMap.get [] e.memErr (memKey k (64 * block) / 64) = addErr (NMap.get [] d.memErr (memKey k (64 * block) / 64))
          (flipSlots (d.reg (b + 0x40)) ++ flipSlots (d.reg (b + 0x48))) ∧ e.mem = d.mem)

/-! ### Ford ports -/

/-- R275, R277, R278, R279, R281, R282, R283, R294: frames of a port have 2,570 bytes and carry the CRC-64 of the first 2,562: a good
fresh frame is taken, its acknowledgement, credits and packets with it; a damaged or unexpected one is asked for again once, and what
follows it is dropped; a fourth frame in a row that cannot be corrected takes the port DOWN; kept frames go out again; a new frame
carries packets as far as credits last; a port that carries link control alone gives a packet's credits back; a KEEPALIVE joins the
link control to send. -/
def Obligations.FordFrames : Prop :=
  ∀ (s : State) (p : Nat), p < 20 →
    let d := s.dev
    let x := d.port p
    let b := fordBase p
    let up := d.linked p = true
    let after := fun (f : Frame) => if x.retry.any fun y => y.seq == f.ack then (x.retry.dropWhile fun y => y.seq ≠ f.ack).drop 1 else x.retry
    let good := fun (f : Frame) => f.fecOk = true ∧ f.crc = frameSum f ∧ f.session = d.pfld Fld.FORD_STATE_SESSION p
    (∀ f, (frameBytes f).length = 2570 ∧ frameBytes f = frameBody f ++ leBytes 8 f.crc.toNat) ∧
    (∀ f, d.linked p = false → Stays (.fordFrameReceive p f) s) ∧
    (∀ f, up → good f → f.fkind = 0 → f.seq = (x.ack + 1) % 2 ^ 16 → f.slots = [] →
      Completes (.fordFrameReceive p f) s fun e =>
        (e.port p).ack = f.seq ∧ (e.port p).nak = 0 ∧ (e.port p).retry = after f ∧ (e.port p).pools = x.pools ∧
        (f.nak = true → (e.port p).replay = after f) ∧
        (∀ key, key < 4 → (e.port p).credit key = x.credit key + f.credits.getD key 0) ∧ e.out = [] ∧ e.routers = d.routers) ∧
    (∀ f vc cls q, up → good f → f.fkind = 0 → f.seq = (x.ack + 1) % 2 ^ 16 → f.slots = [.first vc cls 1 q] →
      Completes (.fordFrameReceive p f) s fun e =>
        (e.port p).ack = f.seq ∧ (e.port p).pool (2 * vc + cls) =
          (if d.portUp p then x.pool (2 * vc + cls) ++ [{ p := { q with badPar := [] }, at_ := d.t }] else x.pool (2 * vc + cls)) ∧
        NMap.get 0 (e.port p).give (2 * vc + cls) =
          NMap.get 0 x.give (2 * vc + cls) + (if d.portUp p then 0 else flitsOf q)) ∧
    (∀ f, up → f.fkind = 1 → f.fecOk = true → ¬ good f ∨ (x.nak ≠ 0 ∧ f.seq ≠ (x.ack + 1) % 2 ^ 16) →
      Completes (.fordFrameReceive p f) s fun e => e.port p = { x with unlocked := 0 } ∧ e.routers = d.routers) ∧
    (∀ f, up → f.fkind = 0 → f.fecOk = true → (f.crc ≠ frameSum f ∨ f.session ≠ d.pfld Fld.FORD_STATE_SESSION p ∨ f.seq ≠ (x.ack + 1) % 2 ^ 16) →
      Completes (.fordFrameReceive p f) s fun e =>
        (e.port p).nak = (if x.nak = 0 then 1 else x.nak) ∧ (e.port p).ack = x.ack ∧ (e.port p).pools = x.pools ∧
        (e.port p).credits = x.credits ∧
        e.fld (Fld.FORD_RETRY_NAKS.at b) = min (d.fld (Fld.FORD_RETRY_NAKS.at b) + if x.nak = 0 then 1 else 0) Fld.FORD_RETRY_NAKS.max) ∧
    (∀ f, up → f.fecOk = false → 3 ≤ x.unlocked → Completes (.fordFrameReceive p f) s fun e =>
      e.portState p = 3 ∧ e.pfld Fld.FORD_STATE_DOWN_REASON p = 4 ∧ (e.port p).pools = []) ∧
    (up → x.retry ≠ [] → x.ackAt + 2000 ≤ d.t → Completes (.fordRetryTimeout p) s fun e =>
      (e.port p).replay = x.retry ∧ e.regs = d.regs ∧ e.out = []) ∧
    (d.linked p = false ∨ x.retry = [] ∨ d.t < x.ackAt + 2000 → Stays (.fordRetryTimeout p) s) ∧
    (∀ f rest, up → d.captured 9 p = false → x.replay = f :: rest → x.resent < 7 → Completes (.fordFrameSend p) s fun e =>
      (∃ g, e.out = [.frame p g] ∧ g.crc = frameSum g ∧ g.seq = f.seq ∧ g.fkind = f.fkind ∧ g.credits = f.credits ∧ g.slots = f.slots.map replaySlot ∧
        g.ack = x.ack) ∧ (e.port p).replay = rest ∧ Counts d e (Fld.FORD_RETRY_REPLAYS.at b) 1) ∧
    (∀ f rest, up → d.captured 9 p = false → x.replay = f :: rest → x.retry.head?.map Frame.seq = some f.seq → 7 ≤ x.resent →
      Completes (.fordFrameSend p) s fun e => e.portState p = 3 ∧ e.pfld Fld.FORD_STATE_DOWN_REASON p = 9) ∧
    (∀ key n q y, d.portUp p = true → d.captured 9 p = false → x.replay = [] → x.ctrl = [] → x.txPart = none → x.retry.length < 128 →
      d.portStart x = some (q, y) → y.txPart = some (key, n, q) → Completes (.fordFrameSend p) s fun e =>
        ∃ f, e.out = [.frame p (frameSeal f)] ∧ f.fkind = 0 ∧ f.seq = x.seq ∧ f.ack = x.ack ∧ f.session = d.pfld Fld.FORD_STATE_SESSION p ∧
          f.slots.head? = some (.first (key / 2) (key % 2) n q) ∧ n = flitsOf q ∧ n ≤ x.credit key ∧
          (e.port p).retry = x.retry ++ [f] ∧ (e.port p).seq = (x.seq + 1) % 2 ^ 16) ∧
    (d.portState p = 4 → d.captured 9 p = false → x.replay = [] → x.ctrl = [] → Completes (.fordFrameSend p) s fun e =>
      ∃ f, e.out = [.frame p f] ∧ f.fkind = 1 ∧ f.slots = [] ∧ (e.port p).retry = x.retry ∧ (e.port p).seq = x.seq) ∧
    (d.portState p = 1 → d.captured 9 p = false → Completes (.fordFrameSend p) s fun e =>
      (∃ f, e.out = [.frame p f] ∧ f.fkind = 2 ∧ f.slots = x.ctrl.take 19) ∧ (e.port p).ctrl = x.ctrl.drop 19 ∧ e.regs = d.regs) ∧
    (up → Completes (.fordKeepaliveSend p) s fun e =>
      (e.port p).ctrl = x.ctrl ++ [Slot.keepalive x.keepTx] ∧ (e.port p).keepTx = (x.keepTx + 1) % 2 ^ 64 ∧ e.regs = d.regs) ∧
    (d.linked p = false → Stays (.fordKeepaliveSend p) s)

/-- R221, R280, R284, R285, R286, R288, R289, R293, R294, R295, R296, R317: a packet leaves its receive pool with its credits returned
and is delivered here under the map of its epoch, passed on with its header as it came, or both for a line multicast; it waits while
its slot admits none, is answered where the mode does not carry it, held an epoch ahead, discarded two epochs away; two contributions that wait in one queue merge; a port
that loses its link is DOWN with what it held, an event and an incomplete step. -/
def Obligations.FordPacketsAndLinks : Prop :=
  ∀ (s : State) (p : Nat), p < 20 →
    let d := s.dev
    let x := d.port p
    let n := portNode p
    let up := d.linked p = true
    let down := fun (reason : Nat) (e : Dev) =>
      e.portState p = 3 ∧ e.pfld Fld.FORD_STATE_DOWN_REASON p = reason ∧ e.pfld Fld.FORD_STATE_WIDTH p = 0 ∧
      e.pfld Fld.FORD_STATE_SESSION p = 0 ∧ e.pfld Fld.FORD_LANES_ACTIVE p = 0 ∧ (e.port p).retry = [] ∧ (e.port p).pools = [] ∧ (e.port p).tx = [] ∧
      Recorded d e 0x400 9 p ∧ e.inProgress = false
    (∀ cls q y rest, cls < 2 → x.pool (2 * vcOf q.ptype + cls) = y :: rest → y.p = q →
      let key := 2 * vcOf q.ptype + cls
      let chan := 2 * (n % 4) + vcOf q.ptype
      let out := fun (e : Dev) => (e.port p).pool key = rest ∧ NMap.get 0 (e.port p).give key = NMap.get 0 x.give key + flitsOf q
      let sends := fun (e : Dev) (zs : List Packet) => NMap.get [] (e.router (n / 4)).q chan =
        NMap.get [] (d.router (n / 4)).q chan ++ zs.map fun z => { p := z, at_ := d.t }
      let may := Current d q ∧ d.modeRefuses q = false ∧ d.poolTurn p cls q = true ∧ (q.dstCore < numLogical ∨ q.dstCore = 0x3FFF)
      let here : Packet := { d.aged y with
        dst := if isResponse q.ptype ∨ q.dstCore = 0x3FFF then q.dst else 4 * routerOf ((d.mapAt q.epoch).toPhys q.dstCore)
        dstDev := d.devId, cls := 0, mc := if q.mc < 4 then q.mc else 0 }
      let passes := fun (k dir : Nat) => q.dstDev ≠ d.devId ∧ q.ptype ≠ .iload ∧ q.ptype ≠ .spillOrder ∧ (d.exitPort q).isSome = true ∧
        d.portDir p = some k ∧ (d.dirOf q).map Prod.fst = some dir
      let on := fun (k dir : Nat) => ({ d.aged y with cls := if k / 2 = dir / 2 then cls else 0 } : Packet)
      (may → d.forHere q = true → q.dstDev = d.devId → CanSend d n (vcOf q.ptype) (flitsOf q) →
        Completes (.fordPacketReceive p cls q) s fun e => out e ∧ sends e [here]) ∧
      (∀ k dir, may → d.forHere q = false → passes k dir → CanSend d n (vcOf q.ptype) (flitsOf q) →
        if d.roomToPass q = true then Completes (.fordPacketReceive p cls q) s fun e => out e ∧ sends e [on k dir]
        else Stays (.fordPacketReceive p cls q) s) ∧
      (∀ k dir, may → d.forHere q = true → passes k dir → CanSend d n (vcOf q.ptype) (2 * flitsOf q) → d.waiting n < 3 →
        if d.roomToPass q = true then Completes (.fordPacketReceive p cls q) s fun e => out e ∧ sends e [here, on k dir]
        else Stays (.fordPacketReceive p cls q) s) ∧
      (Current d q → d.modeRefuses q = false → d.admits n q = false → Stays (.fordPacketReceive p cls q) s) ∧
      (Current d q → d.modeRefuses q = true → CanAnswer d n q 0 → expectsAnswer q.ptype = true →
        Completes (.fordPacketReceive p cls q) s fun e => out e ∧ Answered d e n q .error 0x89 []) ∧
      ((d.epoch + 4 - q.epoch % 4) % 4 = 2 → Completes (.fordPacketReceive p cls q) s fun e => out e ∧
        (isRequest q = false → e.routers = d.routers) ∧
        (isRequest q = true → CanAnswer d n q 0 → Answered d e n q .error 0x88 [])) ∧
      ((d.epoch + 4 - q.epoch % 4) % 4 = 3 → Stays (.fordPacketReceive p cls q) s)) ∧
    (∀ u w entry, d.fld Fld.COB_RACE_STATUS_SERVICE = 1 → x.queue 0 = [u, w] → mergeable u.p w.p = true → freeMerge x.merges = some entry →
      Completes (.fordPortMerge p) s fun e =>
        (∃ z : QPkt, (e.port p).queue 0 = [z] ∧ z.at_ = u.at_ ∧ z.p.con.count = u.p.con.count + w.p.con.count ∧ z.p.src = n ∧
          z.p.txn = entry ∧ z.p.payload = (addUnits u.p.con.kind u.p.payload w.p.payload).1) ∧
        NMap.get none (e.port p).merges entry = some ⟨[mergeIn u.p, mergeIn w.p]⟩) ∧
    (d.fld Fld.COB_RACE_STATUS_SERVICE ≠ 1 → Stays (.fordPortMerge p) s) ∧
    (∀ reason, reason < 16 → d.portState p ≠ 0 → d.portState p ≠ 3 → Completes (.fordDown p reason) s (down reason)) ∧
    (∀ reason, d.portState p = 0 ∨ d.portState p = 3 → Stays (.fordDown p reason) s) ∧
    (up → x.keepAt + d.pfld Fld.FORD_CTRL_KEEPALIVE_LIMIT p * 1000 ≤ d.t → Completes (.fordKeepaliveLapse p) s (down 7)) ∧
    (d.linked p = false ∨ d.t < x.keepAt + d.pfld Fld.FORD_CTRL_KEEPALIVE_LIMIT p * 1000 → Stays (.fordKeepaliveLapse p) s) ∧
    (up → Completes (.fordResetNotice p) s (down 8)) ∧
    (d.linked p = false → Stays (.fordResetNotice p) s)

/-- R290, R291, R292, R293, R297, R298, R299, R300, R335: each training phase that ends begins the next with the lanes that passed, those
with a record left out, and all, or a sound half, of them make the width; phase 6 ends UP, or CHANGED with an event where the peer or its key is another; the
peer's identity is taken only with its proof; a phase past its limit, too few lanes, or no proof take the port DOWN with the phase's
reason; DOWN retrains after its delay; ENABLE trains (not a port with a record, log 87) or disables, ACCEPT_PEER takes up a changed peer. TIME_REQ and TIME_RSP give
offset and delay; the port that is the source slews fabric time by the offset and sets the error bound and status; HOLDOVER is
entered once with an event. An event whose condition does not hold changes nothing (the model's choice, log 24). -/
def Obligations.FordTrainingAndTime : Prop :=
  ∀ (s : State) (p : Nat), p < 20 →
    let d := s.dev
    let x := d.port p
    let ph := d.pfld Fld.FORD_STATE_PHASE p
    let pass := d.pfld Fld.FORD_LANES_PASS p
    let up := d.linked p = true
    let downs := fun (e : Dev) (reason : Nat) => e.portState p = 3 ∧ e.pfld Fld.FORD_STATE_DOWN_REASON p = reason
    let phase := fun (e : Dev) (n : Nat) => e.portState p = 1 ∧ e.pfld Fld.FORD_STATE_PHASE p = n ∧ (e.port p).phaseAt = d.t
    let trains := fun (e : Dev) => phase e 1 ∧ Counts d e (Fld.FORD_STATE_TRAIN_COUNT.at (fordBase p)) 1 ∧ (e.port p).seen = none
    (d.portState p = 1 → ∀ lanes margins,
      (ph = 1 → Completes (.trainingPhaseEnd p lanes margins) s fun e =>
        phase e (if d.fastPath p then 3 else 2) ∧ ∀ i, i < 8 → (e.pfld Fld.FORD_LANES_PASS p).testBit i =
          !d.records.any fun u => u.kind == 8 && u.unit == p && u.sub == i) ∧
      (ph = 2 → Completes (.trainingPhaseEnd p lanes margins) s fun e => phase e 3 ∧ e.pfld Fld.FORD_LANES_PASS p = pass &&& lanes) ∧
      (ph = 3 → Completes (.trainingPhaseEnd p lanes margins) s fun e => phase e 4 ∧ ∀ i, i < 8 →
        (e.pfld Fld.FORD_LANES_PASS p).testBit i = (pass.testBit i && lanes.testBit i &&
          decide (d.pfld Fld.FORD_CTRL_MARGIN_MIN p ≤ margins.getD i 0))) ∧
      (ph = 4 → Completes (.trainingPhaseEnd p lanes margins) s fun e => phase e 5 ∧ e.pfld Fld.FORD_LANES_PASS p = pass &&& lanes) ∧
      (ph = 5 → (pass = 0xFF ∨ pass % 16 = 15 ∨ pass / 16 = 15) → Completes (.trainingPhaseEnd p lanes margins) s fun e =>
        phase e 6 ∧ e.pfld Fld.FORD_LANES_ACTIVE p = (if pass = 0xFF then 0xFF else if pass % 16 = 15 then 0x0F else 0xF0) ∧
        ∃ own : Ident, own.devId = d.devId ∧ own.port = p ∧ own.nonce = (e.port p).nonce ∧ (e.port p).nonce = Config.nonce d.fresh ∧
          (e.port p).ctrl = x.ctrl ++ Slot.ident own :: (List.range 3).map fun i => Slot.key i (slice Config.modulus (128 * i) 128)) ∧
      (ph = 5 → pass % 16 ≠ 15 → pass / 16 ≠ 15 → Completes (.trainingPhaseEnd p lanes margins) s fun e => downs e 5) ∧
      (∀ i, ph = 6 → x.seen = some i → d.pfld Fld.FORD_PEER_PROOF_OK p = 1 → d.flag Fld.COB_STEP_CMD_EXPEL = false →
        d.fld Fld.COB_BRINGUP_STATE ≠ 7 → Completes (.trainingPhaseEnd p lanes margins) s fun e =>
          e.portState p = (if x.sameId i && x.sameKey i then 2 else 4) ∧ e.pfld Fld.FORD_STATE_PHASE p = 0 ∧
          e.pfld Fld.FORD_STATE_WIDTH p = (if pass = 0xFF then 8 else if pass % 16 = 15 ∨ pass / 16 = 15 then 4 else 0) ∧
          (e.port p).credits = [] ∧ (e.port p).seq = 0 ∧ (e.port p).ack = 0xFFFF ∧
          (x.sameId i = false → e.pfld Fld.FORD_PEER_ID_CHANGED p = 1) ∧ (x.sameKey i = false → e.pfld Fld.FORD_PEER_KEY_CHANGED p = 1) ∧
          ((x.sameId i && x.sameKey i) = false → Logged d e 0x401 9 p)) ∧
      (ph = 6 → d.pfld Fld.FORD_PEER_PROOF_OK p = 0 → Completes (.trainingPhaseEnd p lanes margins) s fun e => downs e 6)) ∧
    (d.portState p = 1 → x.phaseAt + phaseLimit ph * 10 ^ 6 ≤ d.t → Completes (.trainingPhaseOverrun p) s fun e => downs e ph) ∧
    (d.portState p ≠ 1 ∨ d.t < x.phaseAt + phaseLimit ph * 10 ^ 6 → Stays (.trainingPhaseOverrun p) s) ∧
    (∀ i : Ident, d.portState p = 1 → ph = 6 → i.devId < 2 ^ 14 →
      Completes (.ident p i) s fun e =>
        let proves := rsaVerify i.modulus (sha256 (x.nonce.take 16 ++ identBody i)) i.proof = true
        let own := Config.sign (sha256 (i.nonce.take 16 ++ identBody (d.ownIdent p [])))
        if sha256 i.modulus = i.fingerprint ∧ (i.proof = [] ∨ proves) then
          (i.proof ≠ [] → e.pfld Fld.FORD_PEER_PROOF_OK p = 1) ∧ e.portState p = 1 ∧
          e.pfld Fld.FORD_PEER_PEER_ID p = i.devId ∧ (e.port p).seen = some i ∧
          e.pfld Fld.FORD_STATE_SESSION p = (ofBytes (x.nonce.take 4) ^^^ ofBytes (i.nonce.take 4)) % 2 ^ 32 ∧
          (e.port p).ctrl = x.ctrl ++
            if x.seen = none then (List.range 3).map fun j => Slot.proof j (slice own (128 * j) 128) else []
        else downs e 6) ∧
    (∀ i, d.portState p ≠ 1 ∨ ph ≠ 6 → Stays (.ident p i) s) ∧
    (let go := d.portState p = 3 ∧ d.pfld Fld.FORD_CTRL_AUTO_RETRAIN p = 1 ∧ d.pfld Fld.FORD_CTRL_ENABLE p = 1 ∧
       x.downAt + d.pfld Fld.FORD_CTRL_RETRAIN_DELAY p * 10 ^ 6 ≤ d.t
     (go → if d.portOut p = true then Stays (.fordRetrain p) s else Completes (.fordRetrain p) s trains) ∧ (¬ go → Stays (.fordRetrain p) s)) ∧
    (∀ a v, mayReach a (fordBase p) 8 = true → getF v Fld.FORD_CTRL_ACCEPT_PEER = 0 →
      (getF v Fld.FORD_CTRL_ENABLE = 1 → d.portState p = 0 → Takes (.fordPortEnable a p v) s fun e =>
        if d.portOut p = true then e.portState p = 0 else trains e) ∧
      (getF v Fld.FORD_CTRL_ENABLE = 0 → up → Takes (.fordPortEnable a p v) s fun e =>
        e.portState p = 0 ∧ e.pfld Fld.FORD_STATE_DOWN_REASON p = 0xA ∧ e.pfld Fld.FORD_CTRL_ENABLE p = 0 ∧
        ∃ f, Out.frame p f ∈ e.out ∧ f.slots = [.resetNotice 3 d.t])) ∧
    (∀ a i, mayReach a (fordBase p) 8 = true → d.portState p = 4 → x.seen = some i → d.pfld Fld.FORD_CTRL_ENABLE p = 1 →
      d.flag Fld.COB_STEP_CMD_EXPEL = false → d.fld Fld.COB_BRINGUP_STATE ≠ 7 → Takes (.acceptPeer a p) s fun e =>
        e.portState p = 2 ∧ e.pfld Fld.FORD_CTRL_ACCEPT_PEER p = 1 ∧
        ∃ y, (e.port p).peer = some y ∧ y.devId = i.devId ∧ y.port = i.port ∧ y.key = i.fingerprint) ∧
    (up → Completes (.timeReqSend p) s fun e =>
      (e.port p).ctrl = x.ctrl ++ [Slot.timeReq 0 x.exch] ∧ (e.port p).exch = (x.exch + 1) % 2 ^ 16 ∧ e.regs = d.regs) ∧
    (∀ t1 exch, up → Completes (.timeReq p t1 exch) s fun e =>
      (e.port p).ctrl = x.ctrl ++ [Slot.timeRsp t1 d.t 0 exch] ∧ e.regs = d.regs ∧ e.now = d.now) ∧
    (∀ t1 t2 t3 exch bound : Nat, up → NMap.get 0 x.pend exch = t1 + 1 →
      let offset := (((t1 : Int) - t2) + ((d.t : Int) - t3)).tdiv 2
      let delay := (((d.t : Int) - t1) - ((t3 : Int) - t2)).tdiv 2
      let took := fun (e : Dev) => e.pfld Fld.FORD_DELAY_OFFSET p = wrap 32 offset ∧ NMap.get 0 (e.port p).pend exch = 0 ∧
        (e.port p).delays = (x.delays ++ [delay]).drop (x.delays.length + 1 - 8) ∧ e.now = d.now
      (d.fld Fld.FT_SOURCE_SOURCE ≠ p → Completes (.timeRsp p t1 t2 t3 exch bound) s fun e => took e ∧ e.slew = d.slew) ∧
      (d.fld Fld.FT_SOURCE_SOURCE = p → bound < 2 ^ 16 - 1 → d.flag Fld.FT_STATUS_VALID = true →
        Completes (.timeRsp p t1 t2 t3 exch bound) s fun e => took e ∧ e.slew = -offset ∧
          e.fld Fld.FT_STATUS_ERR_BOUND = min (bound + 8) (2 ^ 16 - 1) ∧ e.fld Fld.FT_STATUS_OFFSET = wrap 32 offset ∧
          e.flag Fld.FT_STATUS_LOCKED = decide (offset.natAbs < 100) ∧ e.flag Fld.FT_STATUS_IN_SPEC = decide (offset.natAbs ≤ 1000) ∧
          e.flag Fld.FT_STATUS_HOLDOVER = false) ∧
      (d.fld Fld.FT_SOURCE_SOURCE = p → d.flag Fld.FT_STATUS_VALID = false → d.cob.trained = false → offset ≤ 0 →
        Completes (.timeRsp p t1 t2 t3 exch bound) s fun e =>
          e.now = BitVec.ofNat 64 (d.t + (-offset).toNat) ∧ e.slew = 0 ∧ e.flag Fld.FT_STATUS_VALID = true)) ∧
    (∀ t1 t2 t3 exch bound : Nat, NMap.get 0 x.pend exch ≠ t1 + 1 → Stays (.timeRsp p t1 t2 t3 exch bound) s) ∧
    (d.fld Fld.FT_SOURCE_SOURCE ≠ 0x1F → d.flag Fld.FT_STATUS_HOLDOVER = false → Completes .ftHoldover s fun e =>
      e.flag Fld.FT_STATUS_HOLDOVER = true ∧ e.flag Fld.FT_STATUS_LOCKED = false ∧ Logged d e 0x402 0x24 0 ∧ e.now = d.now) ∧
    (d.fld Fld.FT_SOURCE_SOURCE = 0x1F → Stays .ftHoldover s)

/-! ### Steps -/

/-- R315, R316, R317, R318, R319, R320, R321, R322, R323, R327, R330, R334: arming and starting a step, its seals, the root's decision once
the Race cycle of the completing seal is over, the verdict, the commit, also of a step that a new one overtook, the runtime's commands
on a sealed step, expelling, and the report. -/
def Obligations.StepsSealAndCommit : Prop :=
  ∀ s : State,
    let d := s.dev
    let step := d.fld Fld.COB_STEP_STATUS_STEP
    let st := d.stepState
    let status := fun (e : Dev) (x c : Nat) => e.stepState = x ∧ e.fld Fld.COB_STEP_STATUS_CAUSE = c
    let root := d.collector.1 = none
    let whole := d.collector.2
    let count := d.fld Fld.COB_STEP_SEALS_COUNT
    let quiet := d.flag Fld.COB_STEP_CMD_EXPEL = false
    let first := d.step.acted = false
    let undecided := d.fld Fld.COB_STEP_DECISION_VERDICT = 0 ∧ first
    let decides := fun (e : Dev) (v : Nat) => e.fld Fld.COB_STEP_DECISION_VERDICT = v ∧ e.fld Fld.COB_STEP_DECISION_STEP = step % 2 ^ 48
    let noFlips := ∀ k, k < 20 → (d.memc k).flips = []
    let sendsTo := fun (dest : Nat) => CanSend d cobNode 0 1 ∧ Reaches d dest ∧ dest ≠ d.devId
    let ended := fun (e : Dev) (n x c : Nat) => ∃ y ∈ e.step.due, y.step = n ∧ y.state = x ∧ y.cause = c ∧ y.endAt = d.t
    (∀ a v,
      let next := getF v Fld.COB_STEP_NEXT_STEP
      let armed := d.flag Fld.COB_STEP_NEXT_ARM = true
      let follows := d.flag Fld.COB_STEP_COMMITTED_VALID = false ∨ next = d.fld Fld.COB_STEP_COMMITTED_STEP + 1
      (armed ∨ (getF v Fld.COB_STEP_NEXT_ARM = 1 ∧ (¬ follows ∨ st = 1 ∨ st = 2)) → Refuses (.stepArm a v) s) ∧
      (¬ armed → getF v Fld.COB_STEP_NEXT_ARM = 1 → follows → st ≠ 1 → st ≠ 2 →
        (d.t < d.fld Fld.COB_STEP_START_TICK → Takes (.stepArm a v) s fun e =>
          e.flag Fld.COB_STEP_NEXT_ARM = true ∧ e.fld Fld.COB_STEP_NEXT_STEP = next ∧
          (st ≠ 3 → st ≠ 4 → status e 1 0 ∧ e.fld Fld.COB_STEP_STATUS_STEP = next) ∧ (st = 3 ∨ st = 4 → e.stepState = st)) ∧
        (d.fld Fld.COB_STEP_START_TICK ≤ d.t → Takes (.stepArm a v) s fun e =>
          status e 7 6 ∧ e.fld Fld.COB_STEP_STATUS_STEP = next ∧ e.flag Fld.COB_STEP_NEXT_ARM = false)) ∧
      (¬ armed → getF v Fld.COB_STEP_NEXT_ARM = 0 → Takes (.stepArm a v) s fun e =>
        e.fld Fld.COB_STEP_NEXT_STEP = next ∧ e.flag Fld.COB_STEP_NEXT_ARM = false ∧ status e st (d.fld Fld.COB_STEP_STATUS_CAUSE))) ∧
    (let next := d.fld Fld.COB_STEP_NEXT_STEP
     let now := d.flag Fld.COB_STEP_NEXT_ARM = true ∧ d.fld Fld.COB_STEP_START_TICK ≤ d.t
     let begins := fun (e : Dev) => e.step.inForce = next ∧ e.step.start = d.fld Fld.COB_STEP_START_TICK ∧ e.flag Fld.COB_STEP_NEXT_ARM = false
     (¬ now → Stays .stepStart s) ∧
     (now → d.startCause = 0 → st = 1 ∨ (st ≠ 2 ∧ ¬ (st = 7 ∧ step = next)) →
       (∀ e r, e < 20 → r < 16 → d.ring Fld.HBM_WELT_RING_CTRL_REPEAT e r = 0) → Completes .stepStart s fun e =>
         begins e ∧ e.stepState = 2 ∧ ∀ p, p < 20 → e.reg (fordBase p + 0x80 + 8 * (next % 2)) = 0 ∧ e.reg (fordBase p + 0x90 + 8 * (next % 2)) = 0) ∧
     (now → d.heal.shift.isSome = true ∨ 16 < d.map.unhosted.length → st ≠ 2 → ¬ (st = 7 ∧ step = next) →
       Completes .stepStart s fun e => begins e ∧ status e 7 1 ∧ e.fld Fld.COB_STEP_STATUS_STEP = next) ∧
     (now → d.heal.shift = none → d.heal.want = none → d.map.unhosted.length ≤ 16 → st = 3 ∨ st = 4 → step ≠ next →
       Completes .stepStart s fun e => begins e ∧ status e 7 7 ∧ e.fld Fld.COB_STEP_STATUS_STEP = next ∧
         ∃ x, e.step.late = some x ∧ x.due.step = step ∧ x.go = decide (st = 4) ∧
           ∀ k, k < 20 → NMap.get [] x.flips k = (d.memc k).flips)) ∧
    (let may := d.inProgress = true ∧ d.step.barDone = true ∧ d.t < d.sealBy ∧
       ∀ e r, e < 20 → r < 16 → d.passDone e r = true
     (¬ may → Stays .stepSeal s) ∧
     (may → count + 1 < 2 ^ 15 →
       (count + 1 ≠ whole → Completes .stepSeal s fun e => e.stepState = 3 ∧ e.fld Fld.COB_STEP_SEALS_COUNT = count + 1 ∧
         e.step.sealedAt = d.t ∧ e.routers = d.routers) ∧
       (∀ dest, quiet → d.step.sent = false → count + 1 = whole → d.collector.1 = some dest → sendsTo dest → Completes .stepSeal s fun e =>
         e.stepState = 3 ∧ CobSent d e fun q => q.ptype = .barEnter ∧ q.dstDev = dest ∧ q.addr = step ∧ q.aux = 0x80000000 + whole) ∧
       (quiet → d.step.sent = false → count + 1 = whole → root → d.fld Fld.COB_STEP_SEALS_FAILS = 0 →
         Completes .stepSeal s fun e => e.stepState = 3 ∧ e.step.sent = true ∧
           e.fld Fld.COB_STEP_DECISION_VERDICT = d.fld Fld.COB_STEP_DECISION_VERDICT))) ∧
    (quiet → root → st = 3 → d.step.sent = true → undecided → d.rootCommit.stepState = 4 ∧ decides d.rootCommit 1) ∧
    (d.t < d.sealBy → Stays .sealDeadline s) ∧
    (d.sealBy ≤ d.t → d.inProgress = true → Completes .sealDeadline s fun e => status e 7 4 ∧ ended e step 7 4) ∧
    (d.sealBy ≤ d.t → st = 3 → root → quiet → undecided → Completes .sealDeadline s fun e => status e 7 5 ∧ decides e 2) ∧
    (∀ n c failing, d.flag Fld.COB_STEP_CMD_EXPEL = true ∨ (n ≠ step ∧ failing = false) → Stays (.sealArrival n c failing) s) ∧
    (∀ n c dest, quiet → n ≠ step → d.collector.1 = some dest → sendsTo dest → Completes (.sealArrival n c true) s fun e =>
      e.regs = d.regs ∧ CobSent d e fun q => q.ptype = .barEnter ∧ q.dstDev = dest ∧ q.addr = n ∧ q.aux = 0xA0000000) ∧
    (∀ c, quiet → root → st = 3 → d.step.sent = false → d.t < d.sealBy → d.fld Fld.COB_STEP_SEALS_FAILS = 0 → count + c = whole →
      count + c < 2 ^ 15 → Completes (.sealArrival step c false) s fun e => e.step.sent = true ∧ e.stepState = 3) ∧
    (∀ c, quiet → count + c < 2 ^ 15 → count + c < whole → Completes (.sealArrival step c false) s fun e =>
      e.fld Fld.COB_STEP_SEALS_COUNT = count + c ∧ e.stepState = st ∧ e.routers = d.routers) ∧
    (∀ c, quiet → root → undecided → 1 ≤ st ∧ st ≤ 3 → whole < count + c → Completes (.sealArrival step c false) s fun e =>
      decides e 2 ∧ status e 7 5 ∧ Counts d e Fld.COB_STEP_SEALS_EXCESS 1) ∧
    (∀ c dest, quiet → d.collector.1 = some dest → sendsTo dest → Completes (.sealArrival step c true) s fun e =>
      Counts d e Fld.COB_STEP_SEALS_FAILS 1 ∧ e.stepState = st ∧
      CobSent d e fun q => q.ptype = .barEnter ∧ q.dstDev = dest ∧ q.addr = step ∧ q.aux = 0xA0000000) ∧
    (∀ c, quiet → root → undecided → 1 ≤ st ∧ st ≤ 3 → Completes (.sealArrival step c true) s fun e =>
      Counts d e Fld.COB_STEP_SEALS_FAILS 1 ∧ decides e 2 ∧ status e 7 5) ∧
    (∀ n commit, d.flag Fld.COB_STEP_CMD_EXPEL = true → Stays (.verdictArrival n commit) s) ∧
    (∀ n commit, n ≠ step → Completes (.verdictArrival n commit) s fun e => e.stepState = st ∧ e.mems = d.mems ∧ e.cores = d.cores) ∧
    (∀ x commit, quiet → d.step.late = some x → x.due.step ≠ step → x.go = false →
      Completes (.verdictArrival x.due.step commit) s fun e =>
        if commit then e.step.late = some { x with go := true } else e.step.late = none ∧ ended e x.due.step 7 5) ∧
    (∀ commit, ¬ first → Stays (.verdictArrival step commit) s) ∧
    (quiet → first → st = 3 → Completes (.verdictArrival step true) s fun e => e.stepState = 4 ∧ e.mems = d.mems) ∧
    (quiet → first → 1 ≤ st ∧ st ≤ 3 → Completes (.verdictArrival step false) s fun e =>
      status e 7 5 ∧ e.mem = d.mem ∧ ∀ k, k < 20 → (e.memc k).flips = []) ∧
    (st = 4 → noFlips → Completes .commitFlipsWritten s fun e =>
      e.stepState = 5 ∧ e.fld Fld.COB_STEP_COMMITTED_STEP = step % 2 ^ 48 ∧ e.flag Fld.COB_STEP_COMMITTED_VALID = true ∧
      (∃ y ∈ e.step.due, y.step = step ∧ y.state = 5 ∧ y.endAt = d.t) ∧ e.mem = d.mem) ∧
    (∀ k a, k < 20 → st = 4 → (d.memc k).flips = [a] → (∀ j, j < 20 → j ≠ k → (d.memc j).flips = []) → d.anchoring a = false →
      d.fld Fld.COB_RACE_STATUS_SERVICE ≠ 0 → step % d.fld Fld.COB_STEP_CFG_DIGEST_N ≠ 0 → a % 64 = 0 → MemReady d a 64 →
      Completes .commitFlipsWritten s fun e =>
        e.stepState = 5 ∧ e.fld Fld.COB_STEP_COMMITTED_STEP = step % 2 ^ 48 ∧ memBytes e a 41 = memBytes d a 41 ∧
        memBytes e (a + 41) 7 = BitVec.ofNat 8 (1 - (⟨a, memBytes d a 64⟩ : Shard).active) :: leBytes 6 step) ∧
    (∀ x, st ≠ 4 → d.step.late = some x →
      (x.go = true → (∀ k ∈ x.flips, k.2 = []) → Completes .commitFlipsWritten s fun e =>
        e.fld Fld.COB_STEP_COMMITTED_STEP = x.due.step % 2 ^ 48 ∧ e.step.late = none ∧ e.stepState = st ∧
        ended e x.due.step x.due.state x.due.cause) ∧
      (x.go = false → Stays .commitFlipsWritten s)) ∧
    (st = 3 → d.step.undecided = false → d.step.sealedAt + 1000 * d.fld Fld.COB_STEP_CFG_VERDICT_WAIT ≤ d.t →
      Completes .stepUndecided s fun e => Logged d e 0x500 0x24 0 ∧ e.step.undecided = true ∧ e.stepState = 3) ∧
    (st ≠ 3 ∨ d.t < d.step.sealedAt + 1000 * d.fld Fld.COB_STEP_CFG_VERDICT_WAIT → Stays .stepUndecided s) ∧
    (∀ a, (st ≠ 3 → Refuses (.commitSealed a) s ∧ Refuses (.failSealed a) s) ∧
      (st = 3 → Takes (.commitSealed a) s (fun e => e.stepState = 4 ∧ e.flag Fld.COB_STEP_CMD_COMMIT_SEALED = true) ∧
        Takes (.failSealed a) s fun e => status e 7 5 ∧ e.flag Fld.COB_STEP_CMD_FAIL_SEALED = true ∧ ∀ k, k < 20 → (e.memc k).flips = []) ∧
      Takes (.expel a true) s (fun e => e.flag Fld.COB_STEP_CMD_EXPEL = true ∧ (d.inProgress = true → status e 6 8) ∧
        (∀ p, p < 20 → d.portState p = 2 → (e.port p).expelled = true) ∧
        (d.inProgress = false → d.sealLeaving = false → (∀ p, p < 20 → d.portState p = 2 ∨ (d.port p).expelled = false) →
          ∀ p, p < 20 → e.portState p = if d.portState p = 2 then 4 else d.portState p)) ∧
      (d.flag Fld.COB_STEP_CMD_EXPEL = true → d.fld Fld.COB_BRINGUP_STATE ≠ 7 → Takes (.expel a false) s fun e =>
        e.flag Fld.COB_STEP_CMD_EXPEL = false ∧
        ∀ p, p < 20 → e.portState p = if (d.port p).expelled && d.portState p == 4 && !(d.port p).changed then 2 else d.portState p)) ∧
    (d.step.due = [] → Stays .stepReport s) ∧
    (∀ x, d.step.due = [x] → Completes .stepReport s fun e =>
      (∃ (v : Event) (rest : List Event), e.cob.log = d.cob.log ++ v :: rest ∧ v.code = 0x501 ∧ v.kind = 0x24 ∧ v.time = d.t ∧
        v.step = x.step ∧ v.detail.take 2 = leBytes 1 x.state ++ leBytes 1 x.cause) ∧
      e.step.due = [] ∧ e.regs = d.regs)

/-! ### Healing -/

/-- R338, R340, R342, R343, R344, R345, R346, R348, R350, R351: how a targeted test begins, for a gateway and its router once the routing
tables have flipped to avoid it, what its verdict records and does (a BIST section whose signature differs is a failure), and the
fence. -/
def Obligations.TestsAndFences : Prop :=
  ∀ s : State,
    let d := s.dev
    let others := fun (c : Nat) (e : Dev) => ∀ j, j ≠ c → e.core j = d.core j
    let begun := fun (kind unit : Nat) (inPlace : Bool) (e : Dev) =>
      ∃ y ∈ e.heal.tests, y.isOf kind unit = true ∧ y.begun = true ∧ y.inPlace = inPlace
    let waits := fun (kind unit : Nat) => ∃ x ∈ d.heal.tests, x.isOf kind unit = true ∧ x.begun = false
    (∀ kind unit, ¬ waits kind unit → Stays (.targetedTestStart kind unit) s) ∧
    (∀ c, c < numCores → waits 1 c → d.lidOf c = none → Completes (.targetedTestStart 1 c) s fun e =>
      (fused 1 c = false → e.coreState c = .underTest ∧ (e.core c).log = {} ∧ begun 1 c false e ∧ others c e) ∧
      (fused 1 c = true → e.fld Fld.HEAL_TEST_RESULT_VERDICT = 5)) ∧
    (∀ c, c < numCores → waits 1 c → (d.lidOf c).isSome = true → d.sliceFree (segOf c) = true → (d.core c).sil.moving = false →
      (d.core c).sil.testing = false → d.coreState c ≠ .offline → d.coreState c ≠ .underTest → d.inProgress = false →
      d.flag Fld.COB_STITCH_FORCE_ARM = false → d.flag Fld.HEAL_POLICY_AUTO_FENCE = false →
      Completes (.targetedTestStart 1 c) s fun e =>
        (fused 1 c = false → e.coreState c = .underTest ∧ (e.core c).log.state = .empty ∧ begun 1 c true e ∧ others c e) ∧
        (fused 1 c = true → e.fld Fld.HEAL_TEST_RESULT_VERDICT = 5)) ∧
    (∀ kind r x, kind = 3 ∨ kind = 4 → (d.heal.tests.find? fun x => x.isOf kind r && !x.begun) = some x →
      let orFused := fun P : Prop => if fused kind r = true then
        Completes (.targetedTestStart kind r) s fun e => e.fld Fld.HEAL_TEST_RESULT_VERDICT = 5 ∧ x ∉ e.heal.tests else P
      (x.avoid = false → d.tablesFree = false → orFused (Stays (.targetedTestStart kind r) s)) ∧
      (x.avoid = false → d.tablesFree = true → orFused (Completes (.targetedTestStart kind r) s fun e =>
        e.flag Fld.COB_RACE_REQ_FLIP = true ∧ e.flag Fld.COB_RACE_REQ_ARM = true ∧ { x with avoid := true } ∈ e.heal.tests ∧
        e.gws = d.gws ∧ e.routers = d.routers ∧ e.cores = d.cores)) ∧
      (x.avoid = true → d.flag Fld.COB_RACE_REQ_FLIP = true → orFused (Stays (.targetedTestStart kind r) s)) ∧
      (x.avoid = true → d.flag Fld.COB_RACE_REQ_FLIP = false → orFused (Completes (.targetedTestStart kind r) s fun e =>
        begun kind r false e ∧ (e.gw r).conf = [] ∧ (e.gw r).flags = (d.gw r).flags ∧ e.router r = {} ∧ e.cores = d.cores))) ∧
    (∀ kind unit pass found, (∀ x ∈ d.heal.tests, x.isOf kind unit = true → x.begun = false) →
      Stays (.targetedTestVerdict kind unit pass found) s) ∧
    (∀ kind unit resp x, (d.heal.tests.find? fun x => x.isOf kind unit && x.begun) = some x →
      let sound := bistOk kind (sectionsOf kind) resp = true
      let limit := d.fld Fld.HEAL_POLICY_TRANSIENT_LIMIT
      let n := (d.inWindow x).length
      let r : Defect := { kind := x.kind, test := x.test, code := x.code, unit := x.unit, sub := x.sub, count := 1, first := x.at_, last := x.at_ }
      (sound → n + 1 < limit → d.heal.transient.length < 1024 →
        Completes (.targetedTestVerdict kind unit true ⟨[], resp⟩) s fun e =>
          e.heal.transient = d.heal.transient ++ [{ r with origin := 2 }] ∧ e.heal.field = d.heal.field ∧
          e.fld Fld.HEAL_TEST_RESULT_VERDICT = 1 ∧ x ∉ e.heal.tests ∧
          (x.kind ≠ 1 → x.avoid = true → e.flag Fld.COB_RACE_REQ_FLIP = true) ∧
          (kind = 1 → (e.core unit).sil.testing = false ∧ (e.core unit).log.spad = [] ∧
            (x.inPlace = true → (e.core unit).log.state = .empty))) ∧
      (sound → limit ≤ n + 1 → (kind = 9 → 1 < limit) → d.heal.field.length < 4096 →
        Completes (.targetedTestVerdict kind unit true ⟨[], resp⟩) s fun e =>
          e.fld Fld.HEAL_TEST_RESULT_VERDICT = 3 ∧ x ∉ e.heal.tests ∧ (∃ y : Defect, e.heal.field = d.heal.field ++ [y] ∧ y.kind = x.kind ∧
            y.unit = x.unit ∧ y.test = 7 ∧ y.count = limit ∧ y.last = x.at_) ∧
          (kind = 1 → (e.core unit).sil.fenced = true) ∧ (kind = 9 → d.portState unit ≠ 0 → e.portState unit = 0)) ∧
      (∀ pass, pass = false ∨ ¬ sound → kind ≠ 9 → d.heal.field.length < 4096 →
        Completes (.targetedTestVerdict kind unit pass ⟨[], resp⟩) s fun e =>
        e.heal.field = d.heal.field ++ [r] ∧ e.heal.dirty = true ∧ e.fld Fld.HEAL_TEST_RESULT_VERDICT = 2 ∧
        x ∉ e.heal.tests ∧
        (kind = 1 → (e.core unit).sil.fenced = true ∧ (x.inPlace = false → (e.core unit).sil.testing = false)) ∧
        (kind = 1 → x.inPlace = true → d.map.cur.v = 12 → unit / 136 / 8 < 12 →
          (d.flag Fld.HEAL_POLICY_AUTO_SHIFT = true → e.heal.want = some (unit / 136 / 8, some unit) ∧ e.map = d.map) ∧
          (d.flag Fld.HEAL_POLICY_AUTO_SHIFT = false → e.flag Fld.HEAL_STATUS_SHIFT_WANTED = true ∧
            ∀ l, d.lidOf unit = some l → e.hostOf l = none)))) ∧
    (∀ c l, c < numCores → d.lidOf c = some l → (∃ x ∈ d.heal.tests, x.kind = 1 ∧ x.unit = c ∧ x.begun = false) →
      d.sliceFree (segOf c) = true → d.heal.shift = none → d.oldHeld = false → l ∉ d.map.noMove →
      (d.flag Fld.HEAL_POLICY_AUTO_FENCE = true → Completes (.fence c) s fun e =>
        ((d.idleSpare (segOf c)).isSome = true → e.map.flip = some (d.map.flip.getD ((d.epoch + 1) % 2 ^ 16)) ∧
          NMap.get 16 e.map.shadow.gaps (segOf c) = segOff c ∧ l ∈ e.map.noMove ∧ e.map.cur = d.map.cur ∧
          e.flag Fld.COB_STITCH_FORCE_ARM = true ∧ e.cores = d.cores) ∧
        ((d.idleSpare (segOf c)).isSome = false → e.map = d.map ∧ e.cores = d.cores)) ∧
      (d.flag Fld.HEAL_POLICY_AUTO_FENCE = false → Stays (.fence c) s))

/-- R337, R339, R349, R351, R353, R354, R355, R356, R357, R364: state moves, rotation slices, the live row shift, the ledger, and
the writes of HEAL_CMD and HEAL_MAP_WRITE. -/
def Obligations.MovesSlicesAndShifts : Prop :=
  ∀ s : State,
    let d := s.dev
    let verdict := fun (e : Dev) (n : Nat) => e.fld Fld.HEAL_TEST_RESULT_VERDICT = n
    (∀ lid c, d.hostOf lid = some c → (d.core c).sil.moving = true → d.inShift c 4 = false → d.heal.slices = [] →
      Completes (.stateMoveEnd lid true) s (fun e => (e.core c).log = (d.core c).log ∧ (e.core c).sil.moving = false ∧
        ∀ j, j ≠ c → e.core j = d.core j) ∧
      Completes (.stateMoveEnd lid false) s fun e => (e.core c).log = {} ∧ (e.core c).sil.moving = false ∧ Logged d e 0x600 1 c ∧
        ∀ j, j ≠ c → e.core j = d.core j) ∧
    (∀ seg, seg < 832 →
      (d.flag Fld.HEAL_ROT_CFG_ENABLE = false ∨ d.fld Fld.FT_EPOCH_START_TICK + 1 < d.t →
        Completes (.rotationSliceStart seg) s fun e => e.map = d.map ∧ e.cores = d.cores) ∧
      (d.flag Fld.HEAL_ROT_CFG_ENABLE = true → d.t ≤ d.fld Fld.FT_EPOCH_START_TICK + 1 → d.fld Fld.FT_EPOCH_COUNT % d.fld Fld.HEAL_ROT_CFG_INTERVAL = 0 → d.sliceWindow = true →
        d.heal.begun / 256 = d.fld Fld.FT_EPOCH_COUNT → d.heal.begun % 256 < d.fld Fld.HEAL_ROT_CFG_PARALLEL →
        Completes (.rotationSliceStart seg) s fun e =>
          let c := d.sweepCore seg
          (d.sliceNext = some seg → NMap.get 16 e.map.cur.gaps seg = segOff c ∧ e.heal.next = (seg + 1) % 832 ∧
            e.heal.begun = d.heal.begun + 1 ∧ e.heal.slices = d.heal.slices ++ [⟨c, d.fld Fld.FT_EPOCH_START_TICK, (d.lidOf c).isNone⟩]) ∧
          (d.sliceNext ≠ some seg → e.map = d.map ∧ e.cores = d.cores ∧ e.heal = d.heal)) ∧
      ((∀ x ∈ d.heal.slices, segOf x.core = seg → x.moved = true) → Stays (.sliceHandoff seg) s) ∧
      (∀ x, (d.heal.slices.find? fun x => segOf x.core == seg && !x.moved) = some x →
        (∀ o, o < 17 → (d.core (segCore seg o)).sil.moving = false) → Completes (.sliceHandoff seg) s fun e =>
          e.coreState x.core = .underTest ∧ (e.core x.core).log = {} ∧ { x with moved := true } ∈ e.heal.slices ∧
          ∀ j, j ≠ x.core → e.core j = d.core j)) ∧
    (∀ c x, c < numCores → (d.heal.slices.find? fun x => x.core == c && x.moved) = some x →
      let done := fun (e : Dev) => (e.core c).sil.testing = false ∧ x ∉ e.heal.slices ∧ e.map = d.map ∧ ∀ j, j ≠ c → e.core j = d.core j
      let sec := (d.core c).fld Fld.CORE_TEST_STATUS_NEXT_SECTION
      (∀ resp, sectionOk 1 sec (resp.getD 0 []) = true → Completes (.sliceVerdict c true ⟨[], resp⟩) s fun e => done e ∧ verdict e 1 ∧
        Counts d e Fld.HEAL_ROT_STATUS_SLICES 1 ∧ (e.core c).fld Fld.CORE_TEST_STATUS_NEXT_SECTION = (sec + 1) % 16 ∧
        (e.core c).log.spad = [] ∧ e.heal.field = d.heal.field) ∧
      (∀ pass resp, pass = false ∨ sectionOk 1 sec (resp.getD 0 []) = false → d.heal.field.length < 4096 →
        Completes (.sliceVerdict c pass ⟨[], resp⟩) s fun e => done e ∧ verdict e 2 ∧
        Counts d e Fld.HEAL_ROT_STATUS_SLICES 1 ∧ Counts d e Fld.HEAL_ROT_STATUS_FAILS 1 ∧ (e.core c).sil.fenced = true ∧
        e.heal.field = d.heal.field ++ [{ kind := 1, test := 3, unit := c, first := d.t, last := d.t }]) ∧
      (d.t < x.at_ + 2000000 → Stays (.sliceOverrun c) s) ∧
      (x.at_ + 2000000 ≤ d.t → Completes (.sliceOverrun c) s fun e => done e ∧ verdict e 4 ∧
        Counts d e Fld.HEAL_ROT_STATUS_OVERRUNS 1)) ∧
    (∀ row core, d.heal.want = some (row, core) → d.heal.shift = none → d.map.cur.v = 12 → d.map.flip = none →
      d.flag Fld.COB_RACE_REQ_ARM = false → d.oldHeld = false →
      let begins := fun (e : Dev) => e.heal.shift = some ⟨row, 1, core, d.t⟩ ∧ e.map.shadow = { d.map.cur with v := row } ∧
        e.map.cur = d.map.cur ∧ e.flag Fld.COB_RACE_REQ_ARM = true ∧ e.fld Fld.COB_RACE_REQ_REQ_SERVICE = 0 ∧
        e.fld Fld.COB_RACE_REQ_REQ_EPOCH = (d.epoch + 1) % 2 ^ 16 ∧ e.cores = d.cores
      (d.flag Fld.HEAL_POLICY_AUTO_SHIFT = true → Completes .liveRowShift s begins) ∧
      (d.flag Fld.HEAL_STATUS_SHIFT_WANTED = true → ∀ a, Takes (.healShift a) s begins)) ∧
    (d.flag Fld.HEAL_POLICY_AUTO_SHIFT = false → Stays .liveRowShift s) ∧
    (d.flag Fld.HEAL_STATUS_SHIFT_WANTED = false → ∀ a, Refuses (.healShift a) s) ∧
    (∀ x, d.heal.shift = some x →
      (x.phase ≠ 2 → Stays .shiftDrainEnd s) ∧
      (x.phase = 2 → d.arrived = [] → d.routers = [] → d.sendq = [] → Completes .shiftDrainEnd s fun e =>
        e.heal.shift = some { x with phase := 3 } ∧ e.map = d.map ∧ e.cores = d.cores) ∧
      (x.phase ≠ 3 → ∀ bad, Stays (.shiftReserveTestEnd bad) s) ∧
      (x.phase = 3 → Completes (.shiftReserveTestEnd []) s fun e =>
        let bads := fun (seg : Nat) => (List.range 17).filter fun o => d.badCore (segCore seg o)
        let sound := ∀ seg, 768 ≤ seg → seg < 832 → (bads seg).length < 2
        (sound → e.heal.shift = some { x with phase := 4 } ∧ e.map.cur = d.map.cur ∧
          ∀ seg, 768 ≤ seg → seg < 832 → NMap.get 16 e.map.shadow.gaps seg = (bads seg).getD 0 16) ∧
        (¬ sound → e.heal.shift = none ∧ e.heal.want = none ∧ e.flag Fld.COB_RACE_REQ_ARM = true ∧
          e.fld Fld.COB_RACE_REQ_REQ_SERVICE = 1))) ∧
    (∀ stored, d.heal.dirty = false → (∀ x, d.heal.shift = some x → x.phase ≠ 4) → Stays (.ledgerWrite stored) s) ∧
    (∀ stored x, d.heal.shift = some x → x.phase = 4 → Completes (.ledgerWrite stored) s fun e =>
      e.heal.shift = some { x with phase := 5 } ∧ e.map.flip = some ((d.epoch + 1) % 2 ^ 16) ∧ e.fld Fld.COB_RACE_REQ_REQ_SERVICE = 1) ∧
    (d.heal.dirty = true → Completes (.ledgerWrite true) s fun e =>
      let gen := (match d.heal.ledger with | some l => l.gen | none => 0) + 1
      e.heal.dirty = false ∧ (∃ l : Ledger, e.heal.ledgers = ledgerRing (d.heal.ledgers ++ [l]) ∧ l.gen = gen ∧ l.written = d.t ∧
        l.field = d.heal.field ∧ l.transient = d.heal.transient ∧ l.retest = d.heal.retest ∧ l.digest = l.sum) ∧
      e.fld Fld.HEAL_LEDGER_GENERATION = gen % 2 ^ 16) ∧
    (d.heal.dirty = true → Completes (.ledgerWrite false) s fun e =>
      e.heal.dirty = false ∧ e.heal.ledgers = d.heal.ledgers ∧ e.heal.field = d.heal.field ∧ Logged d e 0x901 0x22 0) ∧
    (∀ a v, bit v 63 = true → bit v 62 = false → bit v 61 = false → Takes (.healTest a v) s fun e =>
      (∃ y ∈ e.heal.tests, y.isOf (bits v 39 32) (bits v 31 0) = true ∧ y.sub = 0) ∧ e.fld Fld.HEAL_CMD_TEST = 1 ∧ e.cores = d.cores) ∧
    (∀ a, Takes (.retest a) s fun e => e.heal.retest = true ∧ e.heal.dirty = true ∧ e.flag Fld.HEAL_STATUS_RETEST_PENDING = true) ∧
    (∀ a v, (a = .runtime ∨ d.oldHeld = true ∨ 12 < bits v 44 41 ∨ 103 < bits v 40 34 ∨ 16 < bits v 30 26 →
        Refuses (.mapWriteSetG a v) s ∧ Refuses (.mapWriteSetV a v) s ∧ Refuses (.mapWriteFlip a v) s) ∧
      (a = .firmware → d.oldHeld = false → bits v 44 41 ≤ 12 → bits v 40 34 ≤ 103 → bits v 30 26 ≤ 16 →
        (bits v 63 61 = 1 → Takes (.mapWriteSetG a v) s fun e =>
          NMap.get 16 e.map.shadow.gaps (bits v 40 34 * 8 + bits v 33 31) = bits v 30 26 ∧ e.map.cur = d.map.cur ∧ e.map.flip = d.map.flip) ∧
        (bits v 63 61 = 2 → Takes (.mapWriteSetV a v) s fun e =>
          e.map.shadow = { d.map.shadow with v := bits v 44 41 } ∧ e.map.cur = d.map.cur ∧ e.map.flip = d.map.flip) ∧
        (bits v 63 61 = 4 → Takes (.mapWriteFlip a v) s fun e =>
          e.map.flip = some (bits v 60 45) ∧ e.map.shadow = d.map.shadow ∧ e.map.cur = d.map.cur)))

/-! ### Watchdogs, capture, reset -/

/-- R386, R387, R392, R393, R395, R396, R397, R398: what starts a capture and what ends it; hung units, Cobbler's watchdog and its
kick, a crossing whose other side is in reset, and a wake. -/
def Obligations.HangsAndCaptures : Prop :=
  ∀ s : State,
    let d := s.dev
    let captures := fun (trigger domain index : Nat) (e : Dev) => ∃ x, e.cob.capture = some x ∧
      (d.cob.capture = none → x.trigger = trigger ∧ x.domain = domain ∧ x.index = index ∧ x.since = d.t) ∧
      ∀ y, d.cob.capture = some y → x.trigger = y.trigger ∧ x.since = y.since ∧ (trigger, domain, index) ∈ x.joined
    let noReset := fun (e : Dev) => e.cob.waiting = d.cob.waiting ∧ e.stepState = d.stepState ∧ e.cores = d.cores
    (∀ kind unit, hungDomain kind unit = none → Stays (.unitHang kind unit) s) ∧
    (∀ kind unit domain index, hungDomain kind unit = some (domain, index) → domainOk domain index = true →
      d.captured kind unit = false → (kind, unit) ∉ d.cob.asleep → (∀ x ∈ d.heal.tests, x.isOf kind unit = true → x.begun = false) →
      Completes (.unitHang kind unit) s fun e =>
        captures 2 domain index e ∧ Recorded d e 0x700 kind unit ∧ Counts d e Fld.HANG_STATUS_LIVENESS_HUNG 1 ∧
        (domain ≠ 6 ∨ d.benched = false → Awaits e domain index) ∧ (d.inProgress = true → e.stepState = 6)) ∧
    (d.cob.fw = false ∨ d.t < d.cob.kickAt + 250 * 10 ^ 6 → Stays .cobblerWatchdog s) ∧
    (d.cob.fw = true → d.cob.kickAt + 250 * 10 ^ 6 ≤ d.t → Completes .cobblerWatchdog s fun e =>
      captures 5 6 0 e ∧ e.cob.fw = false ∧ Recorded d e 0x704 0x21 0 ∧ Awaits e 6 0) ∧
    Takes (.hangCobKick .firmware) s (fun e => e.cob.kickAt = d.t ∧ e.regs = d.regs ∧ e.cores = d.cores) ∧
    Refuses (.hangCobKick .runtime) s ∧
    (∀ domain index, domainOk domain index = true →
      (d.flag Fld.HANG_CMD_GO = false → Stays (.capture 3 domain index) s) ∧
      (d.flag Fld.HANG_CMD_GO = true → d.fld Fld.HANG_CMD_DOMAIN = domain → d.fld Fld.HANG_CMD_INDEX = index →
        Completes (.capture 3 domain index) s fun e => captures 3 domain index e ∧ e.flag Fld.HANG_CMD_GO = false ∧
          (d.flag Fld.HANG_CMD_CAPTURE_ONLY = true → noReset e) ∧ (d.flag Fld.HANG_CMD_CAPTURE_ONLY = false → Awaits e domain index)) ∧
      (domain ≠ 0 → domain < 6 ∨ d.benched = false → Completes (.capture 4 domain index) s fun e =>
        captures 4 domain index e ∧ Awaits e domain index) ∧
      Completes (.capture 1 domain index) s (fun e => captures 1 domain index e ∧ noReset e)) ∧
    (∀ kind unit read, d.cob.capture = none →
      Stays (.debugNodeTimeout kind ⟨unit, read⟩) s ∧ Stays .captureLimit s ∧ ∀ ok, Stays (.captureDone ok) s) ∧
    (∀ x, d.cob.capture = some x →
      let limit := x.since + d.fld Fld.HANG_CAPTURE_CAPTURE_LIMIT * 10 ^ 6
      (∀ kind unit read, d.captured kind unit = true → (kind, unit) ∉ x.missing → Completes (.debugNodeTimeout kind ⟨unit, read⟩) s fun e =>
        e.cob.capture = some { x with missing := x.missing ++ [(kind, unit)], part := if read = 0 then x.part else x.part ++ [(kind, unit, read)] } ∧
        e.cores = d.cores ∧ e.regs = d.regs) ∧
      (∀ kind unit, (d.unitSection x kind unit).1 =
        if x.part.any (fun y => y.1 == kind && y.2.1 == unit) then 2 else if (kind, unit) ∈ x.missing then 1 else 0) ∧
      (d.t < limit → Stays .captureLimit s) ∧
      (x.cut = none → limit ≤ d.t → Completes .captureLimit s fun e => ∃ n, e.cob.capture = some { x with cut := some n }) ∧
      (∀ ok, Completes (.captureDone ok) s fun e =>
        let id := d.fld Fld.HANG_CAPTURE_CAPTURE_ID + 1
        let stored := ok && d.cksReady
        e.cob.capture = none ∧ Recorded d e 0x701 0x21 0 ∧ e.fld Fld.HANG_CAPTURE_CAPTURE_ID = id % 2 ^ 32 ∧
        e.fld Fld.HANG_CAPTURE_CAPTURE_LOST = b2n (!stored) ∧ e.fld Fld.HANG_CAPTURE_TRUNCATED = b2n (d.truncated x) ∧
        (d.cob.waiting = [] → e.cob.suspects = [] ∧ ∀ u ∈ d.cob.suspects ++ x.missing, ∃ y ∈ e.heal.tests, y.isOf u.1 u.2 = true) ∧
        (d.cob.waiting ≠ [] → e.cob.suspects = d.cob.suspects ++ x.missing ∧ e.heal.tests = d.heal.tests) ∧
        e.cks.captures = (if stored then capRing (d.cks.captures ++ [(id, d.captureRecord x id)]) else d.cks.captures) ∧
        e.cores = d.cores ∧ e.cob.waiting = d.cob.waiting)) ∧
    (∀ x, x < 416 →
      (x ∈ d.cob.xings → Stays (.crossingResetNotice x) s) ∧
      (x ∉ d.cob.xings → Completes (.crossingResetNotice x) s fun e => e.cob.xings = d.cob.xings ++ [x] ∧
        Counts d e Fld.COB_XING_STATUS_NOTICES 1 ∧ (∀ y ∈ e.arrived, y.1 ≠ x) ∧ e.cores = d.cores) ∧
      Completes (.crossingRelease x) s (fun e => x ∉ e.cob.xings ∧ e.regs = d.regs ∧ e.cores = d.cores ∧ e.arrived = d.arrived)) ∧
    (∀ kind unit, d.lagging kind unit = false → Completes (.wakeRequest kind unit) s fun e =>
      (kind, unit) ∉ e.cob.asleep ∧ e.regs = d.regs ∧ e.cores = d.cores)

/-- R399, R401, R402, R403, R404, R405, R406: the reset of a domain runs once no capture does and no higher one waits; what each
resets and keeps; the runtime's request for one, which for a device reset is stamped, counts, and may bench the device, and the end
of benching. A Ford port with a record stays DISABLED, and a device reset counts when it is requested (the model's readings, log 87). -/
def Obligations.ResetDomains : Prop :=
  ∀ s : State,
    let d := s.dev
    let due := fun (domain index : Nat) => d.cob.capture = none ∧ (∃ t, (domain, index, t) ∈ d.cob.waiting) ∧
      ∀ x ∈ d.cob.waiting, resetRank x.1 ≤ resetRank domain
    let serves := fun (c : Nat) => d.coreState c ≠ .offline ∧ d.coreState c ≠ .underTest
    (∀ domain index, domainOk domain index = true →
      (d.cob.capture.isSome = true ∨ (∀ x ∈ d.cob.waiting, ¬ (x.1 = domain ∧ x.2.1 = index)) → Stays (.domainReset domain index) s) ∧
      (due domain index → Completes (.domainReset domain index) s fun e =>
        ¬ Awaits e domain index ∧ (domain ≠ 0 → d.inProgress = true → domain ≠ 7 → e.stepState = 6))) ∧
    (∀ c, c < numCores → due 0 c → serves c → Completes (.domainReset 0 c) s fun e =>
      (e.core c).log.state = .empty ∧ (e.core c).log.spad = (d.core c).log.spad ∧ (e.core c).log.pc = 0 ∧ (e.core c).log.s = [] ∧
      e.flag Fld.HANG_CMD_GO = false ∧ ∀ j, j ≠ c → e.core j = d.core j) ∧
    (∀ r, r < numRouters → due 1 r → Completes (.domainReset 1 r) s fun e =>
      e.gw r = {} ∧ (∀ c, c < numCores → routerOf c = r → serves c → (e.core c).log.state = .empty) ∧
      (∀ y ∈ e.arrived, y.1 ≠ 4 * r) ∧ ∀ c, routerOf c ≠ r → e.core c = d.core c) ∧
    (∀ index, due 2 index → Completes (.domainReset 2 index) s fun e =>
      e.fld Fld.COB_RACE_STATUS_SERVICE = 0 ∧ e.fld Fld.COB_RACE_STATUS_APPLIED_EPOCH = d.epoch ∧
      e.flag Fld.COB_RACE_REQ_ARM = true ∧ e.fld Fld.COB_RACE_REQ_REQ_SERVICE = 1 ∧ e.cores = d.cores ∧ e.mem = d.mem ∧
      (d.routers = [] → d.arrived = [] → d.inProgress = false → e.routers = [])) ∧
    (∀ k, k < 20 → due 3 k → Completes (.domainReset 3 k) s fun e =>
      (e.memc k).descs = [] ∧ e.fld (Fld.HBM_STATUS_STATE.at (memBase k)) = 1 ∧ e.mem = d.mem ∧ e.cores = d.cores ∧
      (e.memc k).lost = (d.memc k).noRefresh ∧ (d.inProgress = false → (e.memc k).flips = (d.memc k).flips) ∧
      ∀ r, r < 16 → e.ring Fld.HBM_WELT_RING_CTRL_STATE k r = 2) ∧
    (∀ p, p < 20 → due 4 p → Completes (.domainReset 4 p) s fun e =>
      (if d.pfld Fld.FORD_CTRL_ENABLE p = 1 ∧ d.portOut p = false then e.portState p = 1 ∧ e.pfld Fld.FORD_STATE_PHASE p = 1
       else e.portState p = 0) ∧ (d.linked p = true → ∃ f, Out.frame p f ∈ e.out ∧ f.slots = [.resetNotice 3 d.t]) ∧
      e.cores = d.cores ∧ e.mem = d.mem) ∧
    (∀ index, due 5 index → Completes (.domainReset 5 index) s fun e =>
      e.fld Fld.HOST_LINK_STATUS_STATE = 1 ∧ e.host.qps = [] ∧ e.host.windows = [] ∧ e.cores = d.cores ∧ e.mem = d.mem) ∧
    (∀ index, due 6 index → NMap.wf ({} : Core) d.cores = true → Completes (.domainReset 6 index) s fun e =>
      e.fld Fld.COB_BRINGUP_STATE = 1 ∧ e.fld Fld.COB_BRINGUP_RESET_KIND = 1 ∧ e.now = d.now ∧ e.mem = d.mem ∧
      Recorded d e 0x702 0x24 0 ∧ e.cob.counted = d.cob.counted ∧ e.heal.ledgers = d.heal.ledgers ∧ e.routers = [] ∧
      e.power = d.power ∧ e.host.qps = [] ∧
      (d.inProgress = false → NMap.wf ({} : MemCtl) d.mems = true → ∀ k, (e.memc k).flips = (d.memc k).flips ∧ (e.memc k).descs = []) ∧
      ∀ c, (e.core c).log = { spad := (d.core c).log.spad, regs := (d.core c).log.regs.filter fun x => x.1 == 0x10 }) ∧
    (∀ index, due 7 index → Completes (.domainReset 7 index) s fun e =>
      e.fld Fld.COB_BRINGUP_STATE = 0 ∧ e.fld Fld.COB_BRINGUP_RESET_KIND = 0 ∧ (∀ c, (e.core c).log = {}) ∧ e.mem = [] ∧ e.now = 0 ∧
      e.power = d.power ∧ Recorded d e 0x702 0x24 0 ∧ e.cks.objs = d.cks.objs ∧ e.heal.ledgers = d.heal.ledgers) ∧
    (∀ domain index, domainOk domain index = true →
      (∀ x, (d.cob.resets.find? fun x => x.domain == domain && x.index == index) = some x →
        let above := x.since + 2 * d.recovery domain index ≤ d.t
        (d.inService domain index = true → Completes (.resetRecoveryOverrun domain index) s fun e =>
          x ∉ e.cob.resets ∧ e.cob.waiting = d.cob.waiting) ∧
        (d.inService domain index = false → ¬ above → Stays (.resetRecoveryOverrun domain index) s) ∧
        (d.inService domain index = false → above → d.benched = false → Completes (.resetRecoveryOverrun domain index) s fun e =>
          e.cob.capture.isSome = true ∧ Awaits e 6 0) ∧
        (d.inService domain index = false → above → d.benched = true → Completes (.resetRecoveryOverrun domain index) s fun e =>
          x ∉ e.cob.resets ∧ e.cob.waiting = d.cob.waiting))) ∧
    (∀ a v,
      let domain := bits v 34 32
      let index := bits v 31 0
      let only := bit v 62 = true
      let barred := domain = 0 ∧ ¬ only ∧ ¬ serves index
      (d.flag Fld.HANG_CMD_GO = true ∨ domainOk domain index = false ∨ barred → Refuses (.hangCmdGo a v) s) ∧
      (d.flag Fld.HANG_CMD_GO = false → domainOk domain index = true → ¬ barred → Takes (.hangCmdGo a v) s fun e =>
        e.flag Fld.HANG_CMD_GO = true ∧ e.fld Fld.HANG_CMD_DOMAIN = domain ∧ e.fld Fld.HANG_CMD_INDEX = index ∧
        (domain = 0 → ¬ only → Awaits e 0 index) ∧ e.cores = d.cores ∧
        (domain < 6 ∨ only → e.cob.counted = d.cob.counted ∧ e.benched = d.benched ∧ e.reg 0x400080 = d.reg 0x400080) ∧
        (6 ≤ domain → ¬ only → e.cob.counted = min 16 (d.cob.counted + 1) ∧
          e.reg 0x400080 = (if d.flag Fld.FT_STATUS_VALID = true then d.now else 0) ∧
          (let limit := d.fld Fld.HANG_ESCALATE_LIMIT
           e.benched = true ↔ d.benched = true ∨ (limit ≠ 0 ∧ limit - 1 ≤ d.stampsIn d.t d.cob.counted))))) ∧
    (∀ a, (d.benched = false → Refuses (.reinstate a) s) ∧
      (d.benched = true → Takes (.reinstate a) s fun e => e.benched = false ∧ e.cob.counted = 0 ∧
        e.flag Fld.HANG_CMD_REINSTATE = true ∧ ∀ i, i < 16 → e.reg (0x400080 + 8 * i) = 0))

/-! ### Bring-up -/

/-- R16, R366, R368, R369, R370, R371, R374, R376, R378, R379, R380, R381, R382, R405: the bring-up sequence from power good to the
topology check, SAFE, overruns, and the device id. -/
def Obligations.BringUpSequence : Prop :=
  ∀ s : State,
    let d := s.dev
    let st := d.fld Fld.COB_BRINGUP_STATE
    let at_ := fun (e : Dev) (n : Nat) => e.fld Fld.COB_BRINGUP_STATE = n
    let safe := fun (e : Dev) (cause : Nat) => at_ e 7 ∧ (d.fld Fld.COB_BRINGUP_SAFE_CAUSE = 0 → e.fld Fld.COB_BRINGUP_SAFE_CAUSE = cause) ∧
      ∀ p, p < 20 → e.portState p ≠ 2
    let late := d.fld Fld.COB_BRINGUP_TIME_ENTRY + stateLimit st ≤ d.t
    let result := fun (e : Dev) (n : Nat) => e.fld Fld.COB_TOPO_STATUS_RESULT = n
    (d.power.good = true ∨ (d.power.latched = true ∧ d.power.modEn = true) → Stays .powerGood s) ∧
    (d.power.good = false → d.power.latched = false ∨ d.power.modEn = false → Completes .powerGood s fun e =>
      e.power = { modEn := true, good := true, alerts := d.power.alerts } ∧ at_ e 0 ∧ e.fld Fld.COB_BRINGUP_RESET_KIND = 0 ∧
      e.cores = d.cores ∧ e.mem = d.mem) ∧
    (d.power.good = false ∨ st ≠ 0 → Stays .railsInRegulation s) ∧
    (d.power.good = true → st = 0 → Completes .railsInRegulation s fun e =>
      e.power.pwrOk = true ∧ e.power.rails = true ∧ at_ e 1 ∧ e.reg 0x908 = d.now ∧ e.fld Fld.HOST_LINK_STATUS_STATE = 1 ∧
      e.fld Fld.CKS_STATUS_STATE = 1 ∧ e.cores = d.cores) ∧
    (∀ img : FwImage,
      let good := img.magicOk = true ∧ img.arch = 1 ∧ img.member = 9 ∧ img.digestOk = true ∧ img.signOk = true ∧
        d.fld Fld.SEC_ROLLBACK_FUSED ≤ img.rollback ∧ img.rollback ≤ 128 ∧ d.cks.fwBad = false
      (st ≠ 1 → Stays (.romBoot img) s) ∧
      (st = 1 → ¬ good → Completes (.romBoot img) s fun e =>
        e.flag Fld.COB_BRINGUP_BOOT_FAULT = true ∧ at_ e 1 ∧ e.cob = d.cob ∧ e.heal = d.heal) ∧
      (st = 1 → good → Completes (.romBoot img) s fun e =>
        at_ e 2 ∧ e.cob.fw = true ∧ e.cob.kickAt = d.t ∧ e.flag Fld.COB_BRINGUP_BOOT_FAULT = false ∧
        (d.heal.ledger = none → e.flag Fld.HEAL_STATUS_LEDGER_LOST = true ∧ e.heal.field = d.heal.field) ∧
        (∀ l, d.heal.ledger = some l → e.heal.field = l.field ∧ e.heal.transient = l.transient ∧ e.heal.retest = l.retest) ∧
        ∀ k, k < 20 → e.fld (Fld.HBM_STATUS_STATE.at (memBase k)) = if e.memBad k then 4 else 1)) ∧
    (∀ bad,
      let c := if d.fld Fld.COB_BRINGUP_RESET_KIND = 0 then (d.coldResults bad).installRemaps else d
      let serving := ∀ k, k < 20 → d.fld (Fld.HBM_STATUS_STATE.at (memBase k)) = 3
      (st ≠ 2 → Stays (.fillTestEnd bad) s) ∧
      (st = 2 → ¬ serving → Completes (.fillTestEnd bad) s fun e => safe e 3) ∧
      (st = 2 → serving → Completes (.fillTestEnd bad) s fun e =>
        (c.buildMap = none → safe e 1) ∧
        ∀ m, c.buildMap = some m → (({ c with map := { bank0 := m, bank1 := m } } : Dev).badLinks ≠ [] → e.flag Fld.COB_RACE_REQ_FLIP = true) ∧
          (c.flag Fld.HEAL_STATUS_SAFE_AT_RESET = true → safe e 2) ∧
          (c.flag Fld.HEAL_STATUS_SAFE_AT_RESET = false → at_ e 3 ∧ e.map = { bank0 := m, bank1 := m } ∧
            ∀ p, p < 20 → d.pfld Fld.FORD_CTRL_ENABLE p = 1 → c.portOut p = false →
              e.portState p = 1 ∧ e.pfld Fld.FORD_STATE_PHASE p = 1))) ∧
    (let above := (∀ p, p < 20 → d.awaited p = true → d.linked p = true) ∧ d.timeOk = true ∨
       d.fld Fld.COB_BRINGUP_TIME_ENTRY + d.fld Fld.COB_BRINGUP_CFG_TRAIN_WINDOW * 10 ^ 9 ≤ d.t
     let checks := fun (e : Dev) => at_ e 4 ∧ (d.cob.desc = none → result e 1) ∧ e.cores = d.cores
     (st ≠ 3 ∨ ¬ above → Stays .trainEnd s) ∧
     (st = 3 → above → Completes .trainEnd s checks ∧ Completes .bringupOverrun s checks)) ∧
    (d.cob.desc = none ∨ st ≠ 4 ∨ d.cob.readyAt.isSome = true → Stays .topologyCheck s) ∧
    (∀ x, d.cob.desc = some x → st = 4 → d.cob.readyAt = none →
      let use := fun (p : Nat) => descUse x p = 1
      (∀ cause, d.wholeCheck x = some cause → Completes .topologyCheck s fun e => result e 4 ∧ safe e cause) ∧
      (d.wholeCheck x = none → (∃ p, p < 20 ∧ 2 ≤ d.portCheck x p ∧ d.portCheck x p ≠ 7 ∧
          accepts (descPolicy x) (d.portCheck x p) = false) → Completes .topologyCheck s fun e => result e 4 ∧ safe e 4) ∧
      (d.wholeCheck x = none → (∀ p, p < 20 → d.portCheck x p ≤ 1 ∧ (use p → d.portState p = 2)) →
        (d.benched = true → Completes .topologyCheck s fun e => result e 2 ∧ safe e 8) ∧
        (d.benched = false → Completes .topologyCheck s fun e =>
          result e 2 ∧ at_ e 4 ∧ e.cob.readyAt = some (false, d.readyEpoch) ∧ e.fld Fld.COB_TOPO_STATUS_ACCEPTED = 0 ∧
          e.fld Fld.COB_TOPO_STATUS_FAILED = 0 ∧ (∀ p, p < 20 → e.portState p = d.portState p) ∧
          ∀ p, p < 20 → use p → (e.port p).peer = some ⟨descPeerId x p, descPeerPort x p, descKey x p, descDir x p⟩))) ∧
    (st < 3 → ¬ late → Stays .bringupOverrun s) ∧ (3 < st → Stays .bringupOverrun s) ∧
    (st = 0 → late → d.power.good = true → Completes .bringupOverrun s fun e =>
      e.power.good = false ∧ e.power.shutdown = 0x20 ∧ e.power.first = 5 ∧ e.power.latched = true ∧ (∀ c, (e.core c).log = {}) ∧ e.mem = []) ∧
    (st = 1 → late → Completes .bringupOverrun s fun e => e.flag Fld.COB_BRINGUP_BOOT_FAULT = true ∧ at_ e 1) ∧
    (st = 2 → late → Completes .bringupOverrun s fun e => safe e 3) ∧
    (∀ a v, (1 ≤ st → st ≤ 3 → Takes (.deviceIdWrite a v) s fun e =>
        e.devId = bits v 13 0 ∧ e.flag Fld.COB_DEVICE_ID_VALID = true ∧ e.cores = d.cores) ∧
      (st = 0 ∨ 3 < st → Refuses (.deviceIdWrite a v) s))

/-! ### The Weir, the power stage and the sideband -/

/-- R433, R434, R435, R437, R438, R439, R440, R441, R442: grants stay within the budget less the reserve; at the critical
temperature every unit falls to its floor and the device to its lowest frequency until all are below THROTTLE; a unit's throttle
rises one level over its grant and falls one under 95 % of it; a fast limit trip takes the excess from the core tiles, a second
stage puts grants and rails on their floors, a third lowers the frequency; an operating point is taken up only within 20h–36h and
when none is armed; a rail rises by one step for a low slack and falls by one after 100 wide reports, between its floor and 900 mV;
equalisers and PHYs move one tap. An event whose condition does not hold changes nothing (the model's choice, log 24). -/
def Obligations.WeirHoldsTheBudget : Prop :=
  ∀ s : State,
    let d := s.dev
    let g := Fld.WEIR_GRANT_GRANT
    let budget := d.fld Fld.WEIR_BUDGET_BUDGET
    let limit := d.fld Fld.WEIR_BUDGET_FAST_LIMIT
    let stage := d.fld Fld.WEIR_STATUS_STAGE
    let requests := fun (e : Dev) (f : Nat) => e.flag Fld.WEIR_OP_REQ_ARM = true ∧ e.fld Fld.WEIR_OP_REQ_FREQ = f
    (∀ r : Readings,
      let at_ := fun (k : Nat) => NMap.get 0 r.junction k
      Completes (.grantPeriod r) s (fun e => e.weir.valid = true ∧ e.weir.reserve = r.reserve ∧ e.cores = d.cores ∧ e.mem = d.mem ∧
        e.weir.before = some (d.t, d.allGrants) ∧
        ∀ u, u < 144 → e.grant Fld.WEIR_GRANT_FLOOR u = (Config.floorCur u (d.fld Fld.WEIR_OP_STATUS_FREQ)).toNat ∧
          (NMap.get 0 r.draw u < 2 ^ 16 → NMap.get 0 r.activity u < 2 ^ 16 →
            e.grant Fld.WEIR_GRANT_DEMAND u = max (NMap.get 0 r.draw u) (NMap.get 0 r.activity u))) ∧
      (d.weir.crit = false → (∀ k, k < 104 → at_ k < d.fld Fld.WEIR_THERMAL_CRIT) → d.trippedNow = true → Completes (.grantPeriod r) s fun e =>
        ∀ u, u < 144 → e.grant g u = d.grant g u) ∧
      (d.trippedNow = false → d.weir.crit = false → (∀ k, k < 104 → at_ k < d.fld Fld.WEIR_THERMAL_CRIT) → Completes (.grantPeriod r) s fun e =>
        e.weir.crit = false ∧ e.grants (List.range 144) ≤ budget - r.reserve) ∧
      (d.weir.crit = false ∧ (∃ k, k < 104 ∧ d.fld Fld.WEIR_THERMAL_CRIT ≤ at_ k) ∨
        d.weir.crit = true ∧ (∃ k, k < 104 ∧ d.fld Fld.WEIR_THERMAL_THROTTLE ≤ at_ k) → Completes (.grantPeriod r) s fun e =>
        e.weir.crit = true ∧ (∀ k, k < 104 → e.grant g k = e.grant Fld.WEIR_GRANT_FLOOR k) ∧
        (e.fld Fld.WEIR_OP_STATUS_FREQ = 0x20 ∨ requests e 0x20) ∧
        (d.weir.crit = false → Recorded d e 0x802 0x23 0 ∧ e.power.alerts.testBit 2 = true))) ∧
    (∀ k draw slow, k < 124 → Completes (.throttleStep k draw slow) s fun e =>
      let l := d.grant Fld.WEIR_GRANT_THROTTLE k
      e.grant Fld.WEIR_GRANT_THROTTLE k =
        (if slow then (if 100 * draw < 95 * d.grant g k then l - 1 else l) else if d.grant g k < draw then min 15 (l + 1) else l) ∧
      (∀ u, u < 144 → e.grant g u = d.grant g u ∧ (u ≠ k → e.grant Fld.WEIR_GRANT_THROTTLE u = d.grant Fld.WEIR_GRANT_THROTTLE u)) ∧
      e.cores = d.cores) ∧
    (∀ sample,
      (sample < limit → Stays (.fastLimitTrip sample) s) ∧
      (limit ≤ sample → Completes (.fastLimitTrip sample) s fun e =>
        let c := d.dropGrants
        ((∀ x, d.weir.before = some x → x.1 * 8 / 5 ≠ d.raceCycle) → c = d) ∧
        (∀ x, d.weir.before = some x → x.1 * 8 / 5 = d.raceCycle → (∀ u, u < 144 → NMap.get 0 x.2 u < 2 ^ 16) →
          ∀ u, u < 144 → c.grant g u = NMap.get 0 x.2 u) ∧
        e.grants (List.range 104) ≤ budget - (sample - budget) - d.weir.reserve - c.grants (List.range' 104 40) ∧
        (∀ u, 104 ≤ u → u < 144 → e.grant g u = c.grant g u) ∧ Counts d e Fld.WEIR_STATUS_TRIPS 1 ∧ e.weir.tripAt = some d.t ∧
        e.fld Fld.WEIR_STATUS_STAGE = (if stage = 0 then 1 else stage)) ∧
      (stage ≠ 1 ∨ (∃ t, d.weir.tripAt = some t ∧ d.t < t + 50000) ∨ sample < limit → Stays (.fastLimitStage2 sample) s) ∧
      (stage = 1 → (∀ t, d.weir.tripAt = some t → t + 50000 ≤ d.t) → limit ≤ sample → Completes (.fastLimitStage2 sample) s fun e =>
        e.fld Fld.WEIR_STATUS_STAGE = 2 ∧ (∀ u, u < 124 → e.grant g u = d.grant Fld.WEIR_GRANT_FLOOR u) ∧
        ∀ k, k < 104 → e.rail2 k = 2 * d.fld (Fld.WEIR_AVS_FLOOR.nth 8 k))) ∧
    (∀ draws : List Nat, draws.length = 10 →
      (stage ≠ 2 ∨ (∃ x ∈ draws, x ≤ budget) → Stays (.fastLimitStage3 draws) s) ∧
      (stage = 2 → (∀ x ∈ draws, budget < x) → Completes (.fastLimitStage3 draws) s fun e =>
        e.fld Fld.WEIR_STATUS_STAGE = 3 ∧ requests e (max 0x20 (d.fld Fld.WEIR_OP_STATUS_FREQ - 2)) ∧
        e.fld Fld.WEIR_OP_REQ_REQ_EPOCH = (d.epoch + 1) % 2 ^ 16 ∧ Recorded d e 0x800 0x23 0)) ∧
    (∀ a v,
      let f := getF v Fld.WEIR_OP_REQ_FREQ
      let armed := d.flag Fld.WEIR_OP_REQ_ARM = true
      (armed ∨ f < 0x20 ∨ 0x36 < f → Refuses (.weirOpReq a v) s) ∧
      (¬ armed → 0x20 ≤ f → f ≤ 0x36 → Takes (.weirOpReq a v) s fun e =>
        e.fld Fld.WEIR_OP_REQ_FREQ = f ∧ e.fld Fld.WEIR_OP_REQ_REQ_EPOCH = getF v Fld.WEIR_OP_REQ_REQ_EPOCH ∧
        e.fld Fld.WEIR_OP_REQ_ARM = getF v Fld.WEIR_OP_REQ_ARM ∧ e.fld Fld.WEIR_OP_STATUS_FREQ = d.fld Fld.WEIR_OP_STATUS_FREQ ∧
        ∀ k, k < 104 → e.fld (Fld.WEIR_AVS_FLOOR.nth 8 k) =
          if getF v Fld.WEIR_OP_REQ_ARM = 1 ∧ d.fld Fld.WEIR_OP_STATUS_FREQ < f then (Config.floorVolt k f).toNat % (Fld.WEIR_AVS_FLOOR.max + 1)
          else d.fld (Fld.WEIR_AVS_FLOOR.nth 8 k))) ∧
    (∀ (k target : Nat) (slacks : List Int), k < 104 →
      let floor2 := 2 * d.fld (Fld.WEIR_AVS_FLOOR.nth 8 k)
      let x := max (d.rail2 k) floor2
      let n := NMap.get 0 d.weir.good k
      let low := ∃ z ∈ slacks, z < (target : Int)
      let wide := ∀ z ∈ slacks, 2 * (target : Int) < z
      (low → x + 5 ≤ 1800 → Completes (.avsReport k target slacks) s fun e => e.rail2 k = x + 5 ∧ Counts d e (Fld.WEIR_AVS_RAISES.nth 8 k) 1) ∧
      (low → 1800 < x + 5 → NMap.get 0 d.weir.hot k ≠ 2 → Completes (.avsReport k target slacks) s fun e =>
        e.rail2 k = x ∧ NMap.get 0 e.weir.hot k = 2 ∧ Recorded d e 0x801 0x23 k) ∧
      (wide → n + 1 < 100 → Completes (.avsReport k target slacks) s fun e => e.rail2 k = x ∧ NMap.get 0 e.weir.good k = n + 1) ∧
      (wide → 100 ≤ n + 1 → Completes (.avsReport k target slacks) s fun e =>
        e.rail2 k = max floor2 (x - 5) ∧ NMap.get 0 e.weir.good k = 0) ∧
      (¬ low → ¬ wide → Completes (.avsReport k target slacks) s fun e => e.rail2 k = x ∧ NMap.get 0 e.weir.good k = 0)) ∧
    (∀ port lane tap up, port ≤ 20 → lane < 8 →
      let last := NMap.get 0 d.weir.tapAt (port * 8 + lane)
      let soon := last ≠ 0 ∧ d.t + 1 < last + 10000
      (soon → Stays (.eqAdapt port lane tap up) s) ∧
      (¬ soon → Completes (.eqAdapt port lane tap up) s fun e =>
        let key := (port * 8 + lane) * 256 + tap
        (∀ j, NMap.get 0 e.weir.taps j = NMap.get 0 d.weir.taps j + if j = key then (if up then 1 else -1) else 0) ∧
        NMap.get 0 e.weir.tapAt (port * 8 + lane) = d.t + 1 ∧ e.regs = d.regs ∧ e.ports = d.ports)) ∧
    (∀ k pc corrected up, k < 20 → pc < 64 →
      let x := NMap.get 0 d.weir.phys (k * 64 + pc) + if up then 1 else -1
      let last := NMap.get 0 d.weir.physAt (k * 64 + pc)
      let soon := last ≠ 0 ∧ d.t + 1 < last + 10 ^ 6
      (corrected ≤ 4 ∨ soon → Stays (.phyEyeAdjust k pc corrected up) s) ∧
      (4 < corrected → ¬ soon → x.natAbs < 16 → Completes (.phyEyeAdjust k pc corrected up) s fun e =>
        NMap.get 0 e.weir.phys (k * 64 + pc) = x ∧ NMap.get 0 e.weir.physAt (k * 64 + pc) = d.t + 1 ∧ e.mems = d.mems ∧ e.regs = d.regs) ∧
      (4 < corrected → ¬ soon → 16 ≤ x.natAbs → Completes (.phyEyeAdjust k pc corrected up) s fun e =>
        (NMap.get 0 e.weir.phys (k * 64 + pc)) = (if x.natAbs = 16 then x else NMap.get 0 d.weir.phys (k * 64 + pc)) ∧ (e.memc k).saved = false ∧ Logged d e 0x803 0x0A k))

/-- R461, R462, R465, R467, R468, R469, R470: the power stage takes every rail for a cause, MOD_EN and the cold reset pin, and what
the sideband answers; each port has one lane block of a connector. -/
def Obligations.PowerStageAndSideband : Prop :=
  ∀ s : State,
    let d := s.dev
    let shows := fun (bs : List Byte) (e : Dev) => e = { d with out := [.smb bs] }
    let valid := d.power.good && d.weir.valid
    let die := fun (bs : List Byte) => shows (if valid then bs else List.replicate bs.length 0xFF)
    let stage := fun (v : Nat) (e : Dev) => (valid = true → shows (leBytes 2 v) e) ∧
      (valid = false → ∃ n, e = { d with fresh := d.fresh + 1, out := [.smb (leBytes 2 n)] })
    (∀ p, (laneBlock p).isSome = true ↔ p ≤ 20) ∧ (∀ p q x, laneBlock p = some x → laneBlock q = some x → p = q) ∧
    (∀ p : PowerSample,
      let holds := fun (i : Nat) => match i with
        | 0 => p.under | 1 => p.above | 2 => p.current | 3 => decide (125 ≤ p.junction)
        | 4 => decide (105 ≤ p.hbm) || decide (75 ≤ p.outlet) | 5 => p.railBad | _ => false
      ((∀ i, holds i = false) → Stays (.powerStageShutdown p) s) ∧
      (∀ i, holds i = true → (∀ j, j < i → holds j = false) →
        (d.power.good = true → Completes (.powerStageShutdown p) s fun e =>
          e.power.good = false ∧ e.power.first = i ∧ (∀ j, e.power.shutdown.testBit j = holds j) ∧
          e.power.thermTrip = (holds 3 || holds 4) ∧ (∀ c, (e.core c).log = {}) ∧ e.mem = [] ∧ e.pwrOkHigh = false ∧
          e.thermTripLow = (holds 3 || holds 4) ∧ e.smbAlertLow = true ∧ e.statusLed = .off ∧ e.fld Fld.COB_BRINGUP_STATE = 0) ∧
        (d.power.good = false → d.power.shutdown ≠ 0 → Completes (.powerStageShutdown p) s fun e =>
          (∀ j, e.power.shutdown.testBit j = (d.power.shutdown.testBit j || holds j)) ∧ e.power.first = d.power.first))) ∧
    (d.power.good = true → Completes .modEnDeassert s fun e =>
      e.power.modEn = false ∧ e.power.good = false ∧ e.power.shutdown = 0x40 ∧ e.power.first = 6 ∧ (∀ c, (e.core c).log = {}) ∧ e.mem = [] ∧
      ∀ p, p < 20 → d.linked p = true → ∃ f, Out.frame p f ∈ e.out ∧ f.slots = [.resetNotice 2 d.t]) ∧
    (d.power.good = false → Completes .modEnDeassert s fun e =>
      e.power = { d.power with modEn := false, latched := false } ∧ e.regs = d.regs) ∧
    (∀ ns, (ns < 10 ^ 6 ∨ d.power.good = false → Stays (.coldResetPin ns) s) ∧
      (10 ^ 6 ≤ ns → d.power.good = true → Completes (.coldResetPin ns) s fun e => e.cob.capture.isSome = true ∧ Awaits e 7 0)) ∧
    Completes .smbIdent s (shows (leBytes 8 (d.reg 0).toNat)) ∧ Completes .smbSerial s (shows (leBytes 8 (d.reg 8).toNat)) ∧
    Completes .smbState s (shows (leBytes 1 (d.fld Fld.COB_BRINGUP_STATE + 64 * d.fld Fld.HANG_STATUS_BENCHED + 128 * b2n valid))) ∧
    Completes .smbVin s (stage (d.fld Fld.WEIR_TELEM_VIN)) ∧ Completes .smbIin s (stage (d.fld Fld.WEIR_TELEM_IIN)) ∧
    Completes .smbPin s (die (leBytes 2 (d.fld Fld.WEIR_TELEM_PIN))) ∧
    Completes .smbIinPeak s (die (leBytes 2 (d.fld Fld.WEIR_TELEM_IIN_PEAK))) ∧
    Completes .smbJunction s (die (leBytes 1 (d.fld Fld.WEIR_THERMAL_JUNCTION) ++ leBytes 1 (d.fld Fld.WEIR_THERMAL_HOTTEST))) ∧
    Completes .smbCoolant s (die (leBytes 1 (d.fld Fld.WEIR_THERMAL_INLET) ++ leBytes 1 (d.fld Fld.WEIR_THERMAL_OUTLET))) ∧
    Completes .smbHbmMax s (die (leBytes 1 (d.fld Fld.WEIR_THERMAL_HBM_MAX))) ∧
    Completes .smbShutdown s (shows (leBytes 1 d.power.shutdown ++ leBytes 1 d.power.first)) ∧
    Completes (.smbAlerts none) s (shows (leBytes 1 d.power.alerts)) ∧
    (∀ b, Completes (.smbAlerts (some b)) s fun e =>
      (∀ i, i < 8 → e.power.alerts.testBit i = (d.power.alerts.testBit i && !bit b i)) ∧
      (bits b 7 0 = 255 → d.power.alerts < 256 → e.smbAlertLow = false) ∧ e.regs = d.regs ∧ e.out = []) ∧
    (d.power.alerts = 0 → Stays .smbAlertResponse s) ∧
    (d.power.alerts ≠ 0 → Completes .smbAlertResponse s fun e =>
      ∃ x, x < 2 ∧ e = { d with fresh := d.fresh + 1, out := [.smb (leBytes 1 (2 * (0x50 + Config.strap.toNat) + x))] })

/-! ### Host commands -/

/-- R410, R413, R415, R416, R417, R418, R419, R421, R423, R424, R428, R429, R430, R431: each host command on a queue pair that is up
with nothing before it: the response with its status, detail and body, the command counts, and the command's effect; a malformed one
is answered status 1, one too early status 3, one for what is in use status 8, and none of these changes more. An image's section
layouts, a quote's bytes and the certificates are the model's choice (log 11). -/
def Obligations.HostCommandProtocol : Prop :=
  ∀ (s : State) (h : Hdr) (x : QP), s.dev.qp h.qp = some x → x.cmds = [] → x.busy = false →
    let d := s.dev
    let answers := fun (op status detail : Nat) (body : List Byte) (e : Dev) =>
      Out.resp { qp := h.qp, seq := h.seq, op := 0x8000 + op, status, detail, time := d.t, body } ∈ e.out ∧
      Counts d e Fld.HOST_CMD_STATS_COMMANDS 1 ∧ (if status = 0 then e.fld Fld.HOST_CMD_STATS_FAILED = d.fld Fld.HOST_CMD_STATS_FAILED
        else Counts d e Fld.HOST_CMD_STATS_FAILED 1)
    let same := fun (e : Dev) => e.cores = d.cores ∧ e.mem = d.mem ∧ e.host.windows = d.host.windows ∧ e.cob = d.cob
    let fails := fun (i : Instr) (op status detail : Nat) => Completes i s fun e => answers op status detail [] e ∧ same e
    let local_ := h.remote = false ∨ h.target = d.devId
    ((h.version ≠ 1 ∨ h.rsvd = true ∨ h.lenOk = false) → fails (.cmdNop h) 0x01 1 0) ∧
    (h.version = 1 → h.rsvd = false → h.lenOk = true →
      Completes (.cmdNop h) s (fun e => answers 0x01 0 0 [] e ∧ same e) ∧
      Completes (.identity h) s (fun e => answers 0x60 0 0 certChain e ∧ same e) ∧
      (∀ offs : List Nat, (512 < offs.length → fails (.regRead h offs) 0x10 1 0) ∧
        (offs.length ≤ 512 → local_ → Completes (.regRead h offs) s fun e => same e ∧
          answers 0x10 0 0 (((offs.map fun o => if d.hostReach o then d.read o else 0).flatMap fun v => leBytes 8 v.toNat) ++
            bitmap ((List.range offs.length).filter fun i => !d.hostReach (offs.getD i 1))) e) ∧
        (∀ o rest, offs = o :: rest → offs.length ≤ 512 → ¬ local_ → CanSend d cobNode 0 1 → Reaches d h.target → Completes (.regRead h offs) s fun e =>
          (∃ y, e.qp h.qp = some y ∧ y.busy = true) ∧ e.out = [] ∧
          CobSent d e fun q => q.ptype = .read ∧ q.dstDev = h.target ∧ q.addr = drsBase + o ∧ q.aux = 8)) ∧
      (∀ o v, local_ →
        (d.upState = 0 → fails (.regWrite h [(o, v)]) 0x11 3 0) ∧
        (1 ≤ d.upState → d.hostReach o = false → fails (.regWrite h [(o, v)]) 0x11 2 0) ∧
        (1 ≤ d.upState → d.flag Fld.COB_STEP_NEXT_ARM = true → fails (.regWrite h [(0x808, v)]) 0x11 2 0) ∧
        (1 ≤ d.upState → d.flag Fld.COB_STEP_NEXT_ARM = false → Completes (.regWrite h [(0x808, v)]) s fun e =>
          answers 0x11 0 0 [] e ∧ e.reg 0x808 = v ∧ same e)) ∧
      (∀ base len access,
        let fits := (hostRange base).isSome = true ∧ hostRange base = hostRange (base + len - 1)
        (access = 0 ∨ 3 < access → fails (.windowOpen h base len access) 0x20 1 0) ∧
        (1 ≤ access → access ≤ 3 → d.upState < 2 → fails (.windowOpen h base len access) 0x20 3 0) ∧
        (1 ≤ access → access ≤ 3 → 2 ≤ d.upState → len = 0 ∨ ¬ fits ∨ 64 ≤ d.host.windows.length →
          fails (.windowOpen h base len access) 0x20 0xC 0) ∧
        (1 ≤ access → access ≤ 3 → 2 ≤ d.upState → len ≠ 0 → fits → d.host.windows.length < 64 →
          Completes (.windowOpen h base len access) s fun e => answers 0x20 0 0 (leBytes 4 d.host.nextKey) e ∧
            e.host.windows = d.host.windows ++ [⟨d.host.nextKey, base, len, access, h.qp⟩] ∧ e.host.nextKey = (d.host.nextKey + 1) % 2 ^ 32 ∧
            e.mem = d.mem)) ∧
      (∀ key, 2 ≤ d.upState →
        ((∀ w ∈ d.host.windows, w.rkey ≠ key) → fails (.windowClose h key) 0x21 0xC 0) ∧
        ((∃ w ∈ d.host.windows, w.rkey = key) → HostQuiet d → Completes (.windowClose h key) s fun e =>
          answers 0x21 0 0 [] e ∧ e.host.windows = d.host.windows.filter (fun w => w.rkey != key) ∧ e.mem = d.mem)) ∧
      (∀ addr n regions variant, d.serving = true → regions < 2 ^ 16 → variant ≤ 2 → d.runsElsewhere h.qp isImageLoad = true →
        fails (.imageLoad h addr n regions variant) 0x30 8 0) ∧
      (∀ (addr regions variant : Nat) (img : List Byte), d.serving = true → regions < 2 ^ 16 → variant ≤ 2 → 64 ≤ img.length →
        ofBytes (slice img 16 8) = img.length → MemReady d addr img.length → memBytes d addr img.length = img →
        d.runsElsewhere h.qp isImageLoad = false →
        let st := imageStatus img img.length regions
        let secs := d.selected img regions variant
        let busy := d.firstBusy (d.placement regions ++ (secs.filter fun y => decide (y.kind ≤ 5)).map Section.lid)
        (st ≠ 0 → Completes (.imageLoad h addr img.length regions variant) s fun e => answers 0x30 st 0 [] e ∧ e.cores = d.cores ∧ e.mem = d.mem) ∧
        (∀ l, st = 0 → busy = some l → Completes (.imageLoad h addr img.length regions variant) s fun e => answers 0x30 8 l [] e ∧ e.cores = d.cores ∧ e.mem = d.mem) ∧
        (∀ y, st = 0 → d.placement regions = [] → d.anyRunning = false → secs = [y] → y.kind = 7 → y.len = 8 →
          let v : Word := BitVec.ofNat 64 (ofBytes (slice img y.off 8))
          1 ≤ getF v Fld.COB_NUM_REGION_RANGE_EXP → getF v Fld.COB_NUM_REGION_RANGE_EXP ≤ 128 → Completes (.imageLoad h addr img.length regions variant) s fun e =>
            answers 0x30 0 0 [] e ∧ bits (e.reg (0x480 + 8 * (y.region % 16))) 10 0 = bits v 10 0 ∧ e.cores = d.cores ∧ e.mem = d.mem)) ∧
      (∀ regions tick, d.serving = true → regions < 2 ^ 16 →
        (tick < d.t + 100000 → fails (.startCmd h regions tick) 0x31 0xD 0) ∧
        (d.t + 100000 ≤ tick → d.cob.start.isSome = true → fails (.startCmd h regions tick) 0x31 8 0) ∧
        (d.t + 100000 ≤ tick → d.cob.start = none → Completes (.startCmd h regions tick) s fun e =>
          e.cob.start = some (tick, regions, h.qp, h.seq) ∧ (∃ y, e.qp h.qp = some y ∧ y.busy = true) ∧ e.out = [] ∧ e.cores = d.cores)) ∧
      (∀ regions, d.serving = true → regions < 2 ^ 16 → HostQuiet d →
        (d.cob.start = none → Completes (.abortCmd h regions) s fun e => answers 0x32 0 0 [] e ∧
          (∀ l ∈ d.placement regions, ∀ c, d.hostOf l = some c →
            (d.core c).log.state = .loaded ∨ (d.core c).log.state = .running ∨ (d.core c).log.state = .done →
            (e.core c).log.state = .loaded ∧ (e.core c).log.pc = 0 ∧ (e.core c).log.spad = (d.core c).log.spad) ∧
          ∀ c, (∀ l ∈ d.placement regions, d.hostOf l ≠ some c) → e.core c = d.core c) ∧
        (∀ tick mask qp seq, d.cob.start = some (tick, mask, qp, seq) → d.t < tick → mask &&& regions ≠ 0 → (d.qp qp).isSome = true →
          Completes (.abortCmd h regions) s fun e => e.cob.start = none ∧ e.cores = d.cores ∧
            Out.resp { qp, seq, op := 0x8031, status := 0xE, detail := 0, time := d.t, body := [] } ∈ e.out ∧
            Out.resp { qp := h.qp, seq := h.seq, op := 0x8032, status := 0, detail := 0, time := d.t, body := [] } ∈ e.out)) ∧
      (∀ desc : List Byte,
        let takes := (1 ≤ d.upState ∧ d.upState ≤ 4 ∧ d.cob.readyAt = none) ∨ d.upState = 7
        (desc.length ≠ 1344 → fails (.topology h desc) 0x40 1 0) ∧
        (desc.length = 1344 → ¬ takes → fails (.topology h desc) 0x40 3 0) ∧
        (desc.length = 1344 → takes → Completes (.topology h desc) s fun e => answers 0x40 0 0 [] e ∧ e.cob.desc = some desc)) ∧
      (∀ mode epoch, mode ≤ 1 → d.serving = true →
        (d.flag Fld.COB_RACE_REQ_ARM = true → fails (.routing h mode epoch) 0x41 8 0) ∧
        (d.flag Fld.COB_RACE_REQ_ARM = false → Completes (.routing h mode epoch) s fun e => answers 0x41 0 0 [] e ∧
          e.flag Fld.COB_RACE_REQ_ARM = true ∧ e.fld Fld.COB_RACE_REQ_REQ_ROUTING = mode ∧
          e.fld Fld.COB_RACE_REQ_REQ_EPOCH = epoch % 2 ^ 16 ∧ e.fld Fld.COB_RACE_REQ_REQ_SERVICE = d.fld Fld.COB_RACE_STATUS_SERVICE)) ∧
      (∀ addr n written, d.fwUp = true →
        (d.runsElsewhere h.qp isFwUpdate = true → fails (.fwUpdate h addr ⟨n, written⟩) 0x50 8 0) ∧
        (d.runsElsewhere h.qp isFwUpdate = false → MemReady d addr n → Completes (.fwUpdate h addr ⟨n, written⟩) s fun e =>
          let img := memBytes d addr n
          let st := d.fwStatus (fwOf img)
          if st ≠ 0 then answers 0x50 st 0 [] e ∧ e.cks = d.cks
          else if d.cksReady = false then answers 0x50 0xB 0 [] e ∧ e.cks = d.cks
          else if written = false then answers 0x50 0xB 0 [] e ∧ e.cks = { d.cks with fwBad := true }
          else answers 0x50 0 0 [] e ∧ e.cks = { d.cks with fw := img, fwBad := false })) ∧
      (∀ (off : Nat) (last : Bool) (chunk : List Byte), chunk.length ≤ 60 * 1024 →
        (d.loader = false → fails (.romLoad h off last chunk) 0x80 3 0) ∧
        (d.loader = true → off ≠ d.host.romBuf.length → fails (.romLoad h off last chunk) 0x80 1 0) ∧
        (d.loader = true → off = d.host.romBuf.length →
          Completes (.romLoad h off false chunk) s (fun e => answers 0x80 0 0 [] e ∧ e.host.romBuf = d.host.romBuf ++ chunk) ∧
          Completes (.romLoad h off true chunk) s fun e =>
            let st := d.fwStatus (fwOf (d.host.romBuf ++ chunk))
            e.host.romBuf = [] ∧
            if st = 0 then answers 0x80 0 0 [] e ∧ e.cks.fw = d.host.romBuf ++ chunk ∧ e.cks.fwBad = false ∧ e.upState = 2 ∧ e.cob.fw = true
            else answers 0x80 (if st = 0xA then 0xA else 9) 0 [] e ∧ e.cks = d.cks ∧ e.upState = d.upState)) ∧
      (∀ nonce : List Byte, nonce.length = 32 →
        (d.fwUp = false → fails (.attest h nonce) 0x61 3 0) ∧
        (d.fwUp = true → Completes (.attest h nonce) s fun e =>
          answers 0x61 0 0 (d.quote nonce ++ Config.sign (sha256 (d.quote nonce))) e ∧ same e)) ∧
      (∀ enable, enable ≤ 1 → d.fwUp = true → Completes (.events h enable) s fun e => answers 0x70 0 0 [] e ∧
        e.host.evQp = if enable = 1 then some h.qp else if d.host.evQp = some h.qp then none else d.host.evQp))

/-- R407, R409, R410, R412, R413, R414, R419, R425: RDMA goes through an open window that holds its range and permits it, and else
fails and ends its queue pair; unsent event records go to the queue pair of EVENTS, or are counted unsent; connections up to 1,024;
a marked packet draws one CNP in 50 µs, a CNP halves the rate and 55 µs restore a step of it; a link that goes down loses its queue
pairs and windows; lanes decide a trained link's width and group; PTP slews fabric time by the offset and sets the bound and status,
and three seconds without it begin holdover. An event whose condition does not hold changes nothing (the model's choice, log 24). -/
def Obligations.HostPortAndTime : Prop :=
  ∀ s : State,
    let d := s.dev
    let linkUp := d.fld Fld.HOST_LINK_STATUS_STATE = 2
    let unsent := d.cob.log.drop d.cob.sent
    (∀ qp x key a, d.qp qp = some x → x.cmds = [] →
      (∀ data : List Byte,
        (d.windowOk key a data.length 1 = true → data.length ≤ 1024 → MemReady d a data.length → Completes (.rdmaWrite qp key a data) s fun e =>
          MemHolds d e a data ∧ e.out = [.rdma qp 0 []] ∧ e.cores = d.cores) ∧
        (d.windowOk key a data.length 1 = false → Completes (.rdmaWrite qp key a data) s fun e =>
          e.qp qp = none ∧ e.out = [.rdma qp 1 []] ∧ e.mem = d.mem ∧ e.cores = d.cores)) ∧
      (∀ n,
        (d.windowOk key a n 0 = true → n ≤ 1024 → MemReady d a n → Completes (.rdmaRead qp key a n) s fun e =>
          e.out = [.rdma qp 0 (memBytes d a n)] ∧ e.mem = d.mem ∧ e.cores = d.cores) ∧
        (d.windowOk key a n 0 = false → Completes (.rdmaRead qp key a n) s fun e =>
          e.qp qp = none ∧ e.out = [.rdma qp 1 []] ∧ e.mem = d.mem ∧ e.cores = d.cores))) ∧
    (∀ q, d.host.evQp = some q → (d.qp q).isSome = true →
      (unsent = [] → Stays .eventRecordSend s) ∧
      (unsent ≠ [] → Completes .eventRecordSend s fun e =>
        e.out = [.events q (unsent.take 64)] ∧ e.cob.sent = d.cob.sent + min 64 unsent.length ∧ e.cob.log = d.cob.log ∧ e.regs = d.regs)) ∧
    (d.host.evQp = none → Completes .eventRecordSend s fun e =>
      Counts d e Fld.HOST_CMD_STATS_EVENTS_UNSENT unsent.length ∧ e.cob.sent = d.cob.log.length ∧ e.out = []) ∧
    (∀ q,
      let up := (d.host.qps.filter fun e => e.2.any fun x => !x.err).length
      (¬ linkUp ∨ (d.qp q).isSome = true → Stays (.cmConnectRequest q) s) ∧
      (linkUp → d.qp q = none → 1024 ≤ up → Refuses (.cmConnectRequest q) s) ∧
      (linkUp → d.qp q = none → up < 1024 → Takes (.cmConnectRequest q) s fun e => e.qp q = some { last := d.t } ∧ e.regs = d.regs) ∧
      (d.qp q = none → Stays (.ecnMarkedReceive q) s ∧ Stays (.cnpReceive q) s ∧ Stays (.rateRecovery q) s) ∧
      (∀ x, d.qp q = some x →
        ((∃ t, x.cnpAt = some t ∧ d.t < t + 50000) → Stays (.ecnMarkedReceive q) s) ∧
        ((∀ t, x.cnpAt = some t → t + 50000 ≤ d.t) → Completes (.ecnMarkedReceive q) s fun e =>
          e.out = [.cnp q] ∧ e.qp q = some { x with cnpAt := some d.t }) ∧
        Completes (.cnpReceive q) s (fun e => e.qp q = some { x with rate := x.rate / 2, last := d.t } ∧ e.out = []) ∧
        (d.t < x.last + 55000 → Stays (.rateRecovery q) s) ∧
        (x.last + 55000 ≤ d.t → Completes (.rateRecovery q) s fun e =>
          e.qp q = some { x with rate := min (10 ^ 9) (x.rate + 5 * 10 ^ 7), last := x.last + 55000 }))) ∧
    (¬ linkUp → Stays .hostLinkDown s) ∧
    (linkUp → Completes .hostLinkDown s fun e =>
      e.fld Fld.HOST_LINK_STATUS_STATE = 0 ∧ Counts d e Fld.HOST_LINK_STATUS_DOWN_COUNT 1 ∧ (∀ q, e.qp q = none) ∧ e.host.windows = [] ∧
      e.host.remote = [] ∧ (d.fld Fld.FT_SOURCE_SOURCE = 0x1E → e.flag Fld.FT_STATUS_HOLDOVER = true) ∧ e.cores = d.cores ∧ e.mem = d.mem) ∧
    (∀ lanes,
      let trained := fun (width group : Nat) => Completes (.hostLinkRetrain lanes) s fun e =>
        e.fld Fld.HOST_LINK_STATUS_STATE = 2 ∧ e.fld Fld.HOST_LINK_STATUS_WIDTH = width ∧ e.fld Fld.HOST_LINK_STATUS_LANE_GROUP = group
      let tries := ¬ linkUp ∧ d.host.retryAt ≤ d.t
      (¬ tries → Stays (.hostLinkRetrain lanes) s) ∧
      (tries → lanes = 0xFF → trained 8 0) ∧ (tries → lanes < 0xFF → lanes % 16 = 15 → trained 4 0) ∧
      (tries → lanes < 0xFF → lanes % 16 ≠ 15 → lanes / 16 = 15 → trained 4 1) ∧
      (tries → lanes < 0xFF → lanes % 16 ≠ 15 → lanes / 16 ≠ 15 → Completes (.hostLinkRetrain lanes) s fun e =>
        e.fld Fld.HOST_LINK_STATUS_STATE = 0 ∧ e.fld Fld.HOST_LINK_STATUS_WIDTH = 0 ∧ e.host.retryAt = d.t + 10 ^ 9)) ∧
    (∀ offset : Int,
      let xs := (offset :: d.host.ptp).take 16
      let bound := (xs.map Int.natAbs).foldl (· + ·) 0 / xs.length + d.fld Fld.HOST_PTP_CFG_ASYM_NS
      (d.fld Fld.FT_SOURCE_SOURCE ≠ 0x1E ∨ ¬ linkUp → Stays (.ptpSync offset) s) ∧
      (d.fld Fld.FT_SOURCE_SOURCE = 0x1E → linkUp → d.flag Fld.FT_STATUS_VALID = true → Completes (.ptpSync offset) s fun e =>
        e.slew = -offset ∧ e.now = d.now ∧ e.host.ptp = xs ∧ e.host.syncAt = d.t ∧ e.flag Fld.FT_STATUS_HOLDOVER = false ∧
        e.fld Fld.FT_STATUS_ERR_BOUND = min bound (2 ^ 16 - 1) ∧ e.fld Fld.FT_STATUS_OFFSET = wrap 32 offset ∧
        e.flag Fld.FT_STATUS_LOCKED = decide (offset.natAbs < 100) ∧ e.flag Fld.FT_STATUS_IN_SPEC = decide (offset.natAbs ≤ 1000))) ∧
    (d.fld Fld.FT_SOURCE_SOURCE ≠ 0x1E ∨ d.t < d.host.syncAt + 3 * 10 ^ 9 → Stays .ptpHoldover s) ∧
    (d.fld Fld.FT_SOURCE_SOURCE = 0x1E → d.host.syncAt + 3 * 10 ^ 9 ≤ d.t → d.flag Fld.FT_STATUS_HOLDOVER = false →
      Completes .ptpHoldover s fun e => e.flag Fld.FT_STATUS_HOLDOVER = true ∧ e.flag Fld.FT_STATUS_LOCKED = false ∧ Logged d e 0x402 0x24 0)

/-! ### The Checkpoint Store -/

/-- R449–R457: requests taken from the ring, WRITE, READ, DELETE and STAT on CHECKPOINT, completion entries, mounting, wear,
refresh, retired blocks and the states of the store. The statuses of a store that is closed, a TAIL more than a ring ahead, and what
a page that fails takes with it are the model's choice (logs 71, 70 and 72). -/
def Obligations.CheckpointStore : Prop :=
  ∀ s : State,
    let d := s.dev
    let head := d.fld Fld.CKS_RING_CTRL_HEAD
    let tail := d.fld Fld.CKS_RING_CTRL_TAIL
    let size := 2 ^ d.fld Fld.CKS_RING_BASE_SIZE_LOG2
    let at_ := 64 * d.fld Fld.CKS_RING_BASE_BASE + 64 * (head % size)
    let closed := d.flag Fld.CKS_RING_CTRL_ENABLE = false ∨ d.cksServes = false ∨ 8 ≤ d.cks.reqs.length ∨ d.cksFull = true ∨ head = tail
    let state := d.fld Fld.CKS_STATUS_STATE
    let turn := fun (op : Nat) (x : CksReq) => ∃ l r : List CksReq, d.cks.reqs = l ++ x :: r ∧ x.ran = false ∧ rOp x.bytes = op ∧ d.cksServes = true ∧
      ∀ y ∈ l, y.index ≠ x.index ∧ (y.ran = true ∨ rId y.bytes ≠ rId x.bytes ∨ rRegion y.bytes ≠ rRegion x.bytes)
    let ran := fun (x : CksReq) (status moved : Nat) (e : Dev) => (∃ y ∈ e.cks.reqs, y.index = x.index ∧ y.bytes = x.bytes ∧ y.ran = true ∧
      y.status = status ∧ y.moved = moved) ∧ e.cores = d.cores
    let fails := fun (i : Instr) (x : CksReq) (status : Nat) => Completes i s fun e =>
      ran x status 0 e ∧ e.mem = d.mem ∧ e.cks.objs = d.cks.objs
    let fresh := fun (c : Nat) => c < rawBlocks ∧ (d.nand c).used = false ∧ (d.nand c).bad = false ∧
      ∀ y, y < rawBlocks → (d.nand y).used = false → (d.nand y).bad = false →
        (d.nand c).erase < (d.nand y).erase ∨ (d.nand c).erase = (d.nand y).erase ∧ c ≤ y
    let full := ∀ y, y < rawBlocks → (d.nand y).used = true ∨ (d.nand y).bad = true
    let moves := fun (b c : Nat) (e : Dev) =>
      e.nand c = { d.nand c with erase := (d.nand c).erase + 1, at_ := d.t, used := true } ∧ (e.nand b).used = false ∧
      (e.nand b).erase = (d.nand b).erase ∧ (∀ y, y ≠ b → y ≠ c → e.nand y = d.nand y) ∧
      e.cks.objs = d.cks.objs.map (fun o => { o with blks := o.blks.map fun y => if y = b then c else y }) ∧ e.mem = d.mem
    -- the ring (R449)
    (closed → Stays .cksRingStart s) ∧
    (¬ closed → size < (tail + 2 ^ 16 - head) % 2 ^ 16 → Completes .cksRingStart s fun e =>
      e.flag Fld.CKS_RING_CTRL_ENABLE = false ∧ e.cks.reqs = d.cks.reqs ++ [{ index := head, bytes := [], ran := true, status := 5 }]) ∧
    (¬ closed → (tail + 2 ^ 16 - head) % 2 ^ 16 ≤ size → MemReady d at_ 64 → Completes .cksRingStart s fun e =>
      let b := memBytes d at_ 64
      e.fld Fld.CKS_RING_CTRL_HEAD = (head + 1) % 2 ^ 16 ∧ e.mem = d.mem ∧
      e.cks.reqs = d.cks.reqs ++ [{ index := head, bytes := b, ran := reqBad b, status := if reqBad b then 5 else 0 }]) ∧
    (∀ (x y : CksReq) (l : List CksReq), d.cks.reqs = y :: x :: l → y.ran = false → y.index ≠ x.index → rId y.bytes = rId x.bytes →
      rRegion y.bytes = rRegion x.bytes → Stays (.cksWrite x.index) s ∧ Stays (.cksRead x.index) s ∧ Stays (.cksDelete x.index) s ∧
        Stays (.cksStat x.index) s) ∧
    -- WRITE (R450, R451, R457)
    (∀ x, turn 1 x →
      let id := rId x.bytes
      let n := rLen x.bytes
      let a := rAddr x.bytes
      (state = 3 → fails (.cksWrite x.index) x 2) ∧ (state ≠ 2 → state ≠ 3 → fails (.cksWrite x.index) x 6) ∧
      (state = 2 → d.cksFree < n → fails (.cksWrite x.index) x 1) ∧
      (state = 2 → n ≤ d.cksFree → d.cks.objs.length < maxObjs → MemReady d a n → Completes (.cksWrite x.index) s fun e =>
        ran x 0 n e ∧ e.mem = d.mem ∧ (∀ j, j ≠ id → e.obj j = d.obj j) ∧
        ∃ o, e.obj id = some o ∧ o.bytes = memBytes d a n ∧ o.step = rStep x.bytes ∧ o.digest = sha256 (memBytes d a n) ∧ o.time = d.t ∧
          o.bad = none ∧ ∀ c, fresh c → n ≤ blockBytes → o.blks = [c])) ∧
    -- READ and STAT of CHECKPOINT (R449, R452)
    (∀ x, turn 2 x → rRegion x.bytes = 0 → state ≠ 4 →
      let n := rLen x.bytes
      let off := rOff x.bytes
      let a := rAddr x.bytes
      let whole := fun (got : Nat) => ∀ y ∈ d.cob.tables, ∀ t ∈ y.2, a ≤ t → t < a + n → t + (lostTable t).length ≤ a + got
      (d.obj (rId x.bytes) = none → whole 0 → fails (.cksRead x.index) x 4) ∧
      (∀ region t, d.obj (rId x.bytes) = none → d.cob.tables = [(region, [t])] → a ≤ t → t < a + n →
        Completes (.cksRead x.index) s fun e => MemReady d t (lostTable t).length →
          MemHolds d e t (lostTable t) ∧ ran x 4 0 e ∧ Recorded d e 0 0x22 0) ∧
      (∀ o, d.obj (rId x.bytes) = some o →
        let fits := off + n ≤ o.bytes.length ∧ (n % 64 = 0 ∨ off + n = o.bytes.length)
        (¬ fits → fails (.cksRead x.index) x 5) ∧
        (fits → (∀ b, o.bad = some b → b < off ∨ off + n ≤ b) → MemReady d a n → Completes (.cksRead x.index) s fun e =>
          MemHolds d e a (slice o.bytes off n) ∧ ran x 0 n e ∧ e.cks.objs = d.cks.objs) ∧
        (∀ b, fits → o.bad = some b → off < b → b < off + n → whole (b - off) → MemReady d a (b - off) → Completes (.cksRead x.index) s fun e =>
          MemHolds d e a (slice o.bytes off (b - off)) ∧ ran x 3 b e ∧ e.cks.objs = d.cks.objs))) ∧
    (∀ x, turn 4 x → rRegion x.bytes = 0 → state ≠ 4 →
      (d.obj (rId x.bytes) = none → fails (.cksStat x.index) x 4) ∧
      (∀ o, d.obj (rId x.bytes) = some o → MemReady d (rAddr x.bytes) 64 → Completes (.cksStat x.index) s fun e =>
        MemHolds d e (rAddr x.bytes) (leBytes 8 (rId x.bytes) ++ leBytes 8 o.bytes.length ++ leBytes 6 o.step ++ leBytes 2 0 ++
          fit 32 o.digest ++ leBytes 8 o.time) ∧ ran x 0 64 e ∧ e.cks.objs = d.cks.objs)) ∧
    -- DELETE (R450)
    (∀ x, turn 3 x → (state = 3 → fails (.cksDelete x.index) x 2) ∧ (state ≠ 2 → state ≠ 3 → fails (.cksDelete x.index) x 6) ∧
      (state = 2 → d.obj (rId x.bytes) = none → fails (.cksDelete x.index) x 4) ∧
      (state = 2 → (d.obj (rId x.bytes)).isSome = true → Completes (.cksDelete x.index) s fun e =>
        e.obj (rId x.bytes) = none ∧ (∀ j, j ≠ rId x.bytes → e.obj j = d.obj j) ∧ ran x 0 0 e ∧ e.mem = d.mem)) ∧
    -- completion entries (R453)
    (∀ i,
      let w := d.fld Fld.CKS_CQ_PTR_WRITE
      let a := 32 * d.fld Fld.CKS_CQ_BASE_BASE + 32 * (w % 2 ^ d.fld Fld.CKS_CQ_BASE_SIZE_LOG2)
      ((∀ x ∈ d.cks.reqs, x.index = i → x.ran = false) → Stays (.cksRequestComplete i) s) ∧
      (∀ (x : CksReq) (l r : List CksReq), d.cks.reqs = l ++ x :: r → x.index = i → x.ran = true → (∀ y ∈ l, y.index ≠ i) → MemReady d a 32 →
        Completes (.cksRequestComplete i) s fun e =>
          MemHolds d e a (leBytes 1 0 ++ leBytes 1 x.status ++ leBytes 1 x.reason ++ leBytes 1 (rOp x.bytes) ++ leBytes 2 i ++ leBytes 2 0 ++
            leBytes 8 x.moved ++ leBytes 8 d.t ++ leBytes 6 d.stepNo ++ leBytes 2 0) ∧
          e.fld Fld.CKS_CQ_PTR_WRITE = (w + 1) % 2 ^ 16 ∧ e.cks.reqs = d.cks.reqs.filter (fun y => decide (y.index ≠ i)) ∧
          e.cks.objs = d.cks.objs)) ∧
    -- mounting and states (R406, R457)
    (∀ ok weak, (2 ≤ state → Stays (.cksMount ok weak) s) ∧
      (state < 2 → Completes (.cksMount true weak) s fun e =>
        e.fld Fld.CKS_STATUS_STATE = 2 ∧ Recorded d e 0x900 0x22 0 ∧ e.cks.weak = weak ∧ e.cks.objs = d.cks.objs ∧ e.cores = d.cores) ∧
      (state < 2 → Completes (.cksMount false weak) s fun e =>
        e.fld Fld.CKS_STATUS_STATE = 4 ∧ Recorded d e 0x900 0x22 0 ∧ e.cks.objs = d.cks.objs ∧
        (d.fld Fld.COB_BRINGUP_RESET_KIND = 0 → e.flag Fld.HANG_STATUS_HISTORY_LOST = true ∧ e.fld Fld.HANG_STATUS_BENCHED = 0 ∧
          e.cob.counted = 0 ∧ ∀ i, i < 16 → e.reg (0x400080 + 8 * i) = 0))) ∧
    (state = 2 → d.fld Fld.CKS_WEAR_SPARE < 15000 ∨ 3000 ≤ d.meanErase → Completes .cksState s fun e =>
      e.fld Fld.CKS_STATUS_STATE = 3 ∧ Recorded d e 0x900 0x22 0 ∧ e.cks = d.cks) ∧
    (state = 3 → d.cks.reserve = 0 → Completes .cksState s fun e =>
      e.fld Fld.CKS_STATUS_STATE = 4 ∧ Recorded d e 0x900 0x22 0 ∧ e.cks.objs = d.cks.objs) ∧
    (state ≠ 2 → state ≠ 3 → Stays .cksState s) ∧ (state = 2 → 15000 ≤ d.fld Fld.CKS_WEAR_SPARE → d.meanErase < 3000 → Stays .cksState s) ∧
    -- blocks (R454, R455, R456)
    (∀ b, b < rawBlocks →
      ((d.nand b).bad = true → Stays (.cksRefresh b) s ∧ Stays (.blockRetire b) s) ∧
      ((d.nand b).bad = false → (d.nand b).used = false → Completes (.cksRefresh b) s fun e =>
        b ∉ e.cks.weak ∧ e.cks.objs = d.cks.objs ∧ e.cks.blks = d.cks.blks) ∧
      ((d.nand b).bad = false → (d.nand b).used = true → Completes (.cksRefresh b) s fun e =>
        (∀ c, fresh c → moves b c e ∧ b ∉ e.cks.weak) ∧ (full → b ∈ e.cks.weak ∧ e.cks.objs = d.cks.objs ∧ e.cks.blks = d.cks.blks)) ∧
      ((d.nand b).bad = false → Completes (.blockRetire b) s fun e =>
        (e.nand b).bad = true ∧ (e.nand b).used = false ∧ Counts d e Fld.CKS_WEAR_RETIRED 1 ∧ e.mem = d.mem ∧ e.cores = d.cores ∧
        (∀ o ∈ d.cks.objs, b ∉ o.blks → o ∈ e.cks.objs) ∧
        (state = 3 → e.cks.reserve = d.cks.reserve - 1) ∧ (state ≠ 3 → e.fld Fld.CKS_WEAR_SPARE = d.fld Fld.CKS_WEAR_SPARE - 1) ∧
        ((d.nand b).used = true → ∀ c, fresh c →
          e.nand c = { d.nand c with erase := (d.nand c).erase + 1, at_ := d.t, used := true } ∧
          ∀ o ∈ d.cks.objs, b ∈ o.blks → ∃ o' ∈ e.cks.objs, o'.id = o.id ∧ o'.bytes = o.bytes ∧
            o'.blks = o.blks.map fun y => if y = b then c else y))) ∧
    (d.maxErase ≤ d.meanErase + 256 → Stays .wearLevelMove s) ∧
    (d.meanErase + 256 < d.maxErase → Completes .wearLevelMove s fun e =>
      ∀ b c,
        let live := fun (y : Nat) => y < rawBlocks ∧ (d.nand y).used = true ∧ (d.nand y).bad = false
        let free := fun (y : Nat) => y < rawBlocks ∧ (d.nand y).used = false ∧ (d.nand y).bad = false
        (live b ∧ ∀ y, live y → (d.nand b).erase < (d.nand y).erase ∨ (d.nand b).erase = (d.nand y).erase ∧ b ≤ y) →
        (free c ∧ ∀ y, free y → (d.nand y).erase < (d.nand c).erase ∨ (d.nand c).erase = (d.nand y).erase ∧ c ≤ y) → moves b c e)

/-! ### Counters and register writes -/

/-- R444, R445, R446: an armed window opens at its start tick and freezes at its freeze tick with every value kept; ARM is refused
while counting and freezes at once past the freeze tick; CLEAR zeroes every counter and no select; a select of a code not listed is
refused, and one that changes the code zeroes its counter; a counter of issued instructions whose filter lets the core pass counts
each one and holds its largest value with OVERFLOW. An event whose condition does not hold changes nothing (the model's choice, log
24). -/
def Obligations.CounterWindows : Prop :=
  ∀ s : State,
    let d := s.dev
    let arm := d.flag Fld.CNT_CTRL_ARM
    let counting := d.flag Fld.CNT_CTRL_COUNTING
    let start := d.fld Fld.CNT_START_TICK
    let stop := d.fld Fld.CNT_FREEZE_TICK
    let frozen := fun (t : Nat) (e : Dev) => e.flag Fld.CNT_CTRL_ARM = false ∧ e.flag Fld.CNT_CTRL_COUNTING = false ∧
      bit (e.read 0xE001000) 63 = decide (t + 2000 ≤ d.t)
    let rest := fun (e : Dev) => e.cores = d.cores ∧ e.mem = d.mem ∧ e.routers = d.routers
    (arm = true → counting = false → start ≤ d.t → d.t < stop → Completes .counterWindowOpen s fun e =>
      e.flag Fld.CNT_CTRL_COUNTING = true ∧ e.flag Fld.CNT_CTRL_SETTLED = false ∧ e.flag Fld.CNT_CTRL_ARM = true ∧ rest e) ∧
    (arm = false ∨ counting = true ∨ d.t < start ∨ stop ≤ start ∨ stop ≤ d.t → Stays .counterWindowOpen s) ∧
    (arm = true → stop ≤ d.t → Completes .counterFreeze s fun e => frozen stop e ∧ rest e ∧
      ∀ i, i < 64 → e.reg (0xE000008 + 16 * i) = d.reg (0xE000008 + 16 * i)) ∧
    (arm = false ∨ d.t < stop → Stays .counterFreeze s) ∧
    (∀ (a : Agent) (v : Word),
      let set := getF v Fld.CNT_CTRL_ARM = 1
      (set → counting = true → Refuses (.cntArm a v) s) ∧
      (set → counting = false → stop ≤ d.t → Takes (.cntArm a v) s fun e => frozen d.t e ∧ rest e) ∧
      (set → counting = false → d.t < stop → Takes (.cntArm a v) s fun e =>
        e.flag Fld.CNT_CTRL_ARM = true ∧ e.flag Fld.CNT_CTRL_SETTLED = false ∧
        e.fld Fld.CNT_CTRL_WINDOWED = getF v Fld.CNT_CTRL_WINDOWED ∧ rest e)) ∧
    (∀ a : Agent, Takes (.cntClear a) s fun e => rest e ∧
      (∀ i, i < 64 → e.reg (0xE000008 + 16 * i) = 0 ∧ e.reg (0xE000000 + 16 * i) = d.reg (0xE000000 + 16 * i)) ∧
      ∀ r j, r < numRouters → j < 8 → e.reg (cluBase r + 0xB008 + 16 * j) = 0 ∧
        e.reg (cluBase r + 0xB000 + 16 * j) = d.reg (cluBase r + 0xB000 + 16 * j)) ∧
    (∀ (a : Agent) (i : Nat) (v : Word), i < 64 →
      let sel := 0xE000000 + 16 * i
      let listed := bits v 57 48 ∈ counterCodes
      (¬ listed → Refuses (.cntSelWrite a sel v) s) ∧
      (listed → Takes (.cntSelWrite a sel v) s fun e => rest e ∧
        e.fld (Fld.CNT_SEL_CODE.nth 16 i) = bits v 57 48 ∧ e.fld (Fld.CNT_SEL_ENABLE.nth 16 i) = bits v 63 63 ∧
        e.fld (Fld.CNT_SEL_FILTER_KIND.nth 16 i) = bits v 47 40 ∧ e.fld (Fld.CNT_SEL_FILTER_UNIT.nth 16 i) = bits v 31 0 ∧
        e.fld (Fld.CNT_SEL_FILTER_EN.nth 16 i) = bits v 62 62 ∧
        (bits v 57 48 ≠ d.fld (Fld.CNT_SEL_CODE.nth 16 i) → e.reg (sel + 8) = 0) ∧ (e.reg sel = d.reg sel → e.reg (sel + 8) = d.reg (sel + 8)))) ∧
    (∀ (a : Agent) (r j : Nat) (v : Word), r < numRouters → j < 8 →
      let sel := cluBase r + 0xB000 + 16 * j
      let listed := bits v 9 0 ∈ counterCodes ∧ bits v 9 0 < 0x200
      (¬ listed → Refuses (.cntSelWrite a sel v) s) ∧
      (listed → Takes (.cntSelWrite a sel v) s fun e => rest e ∧
        bits (e.reg sel) 9 0 = bits v 9 0 ∧ bit (e.reg sel) 63 = bit v 63 ∧
        (bits v 9 0 ≠ bits (d.reg sel) 9 0 → e.reg (sel + 8) = 0))) ∧
    (∀ (c : Nat) (x : Iss) (i : Nat), Issues opNop s c x → (d.regs.map Prod.fst).Nodup → d.counts = true → i < 64 →
      let sel := d.reg (0xE000000 + 16 * i)
      let v := d.reg (0xE000008 + 16 * i)
      bit sel 63 = true → bits sel 57 48 = 1 → (bit sel 62 = false ∨ bits sel 47 40 = 1 ∧ bits sel 31 0 = c) →
      Completes (.nop c) s fun e =>
        let w := e.reg (0xE000008 + 16 * i)
        bits w 47 0 = min (bits v 47 0 + 1) (2 ^ 48 - 1) ∧ bit w 63 = (bit v 63 || decide (2 ^ 48 - 1 ≤ bits v 47 0)))

/-- R7, R8, R10, R64, R70, R149, R182, R206, R219, R248, R258, R265, R266, R268, R271: register writes, the fields each stores and
what it leaves, and what each is refused for: a size or offset that is not a register's, the runtime where firmware alone may write,
a running core, a request already armed, a reserved value, an overlapping remap or route, a ring that runs. -/
def Obligations.RegisterWrites : Prop :=
  ∀ (s : State) (a : Agent) (v : Word),
    let d := s.dev
    let rest := fun (e : Dev) => e.cores = d.cores ∧ e.mem = d.mem ∧ e.routers = d.routers
    -- any register (R7, R8, R10)
    (∀ off size, size ≠ 8 ∨ off % 8 ≠ 0 ∨ rowAt off = none → Refuses (.registerWrite a off size v) s) ∧
    (a = .runtime → Refuses (.registerWrite a 0x528 8 v) s) ∧
    Takes (.registerWrite a 0x300018 8 v) s (fun e => e.reg 0x300018 = v ∧ (∀ o, o ≠ 0x300018 → e.reg o = d.reg o) ∧ rest e) ∧
    ((∃ x ∈ d.cores, x.2.log.state = .running) → Refuses (.registerWrite a 0x400 8 v) s) ∧
    ((∀ x ∈ d.cores, x.2.log.state ≠ .running) → Takes (.registerWrite a 0x400 8 v) s fun e => e.reg 0x400 = v ∧ rest e) ∧
    -- a register with RO fields alone ignores a write (R7); the bits of HANG_CMD (R403, R406)
    (∀ off row, off % 8 = 0 → rowAt off = some row → row.readOnly = true → row.agents = .both ∨ a = .firmware →
      (∀ c o, blockOf off ≠ (.core c, o)) → Takes (.registerWrite a off 8 v) s fun e => e = { d with out := [.accepted] }) ∧
    (getF v Fld.HANG_CMD_REINSTATE = 1 → d.benched = false → Refuses (.registerWrite a 0x400020 8 v) s) ∧
    (getF v Fld.HANG_CMD_REINSTATE = 0 → getF v Fld.HANG_CMD_GO = 0 →
      (d.flag Fld.HANG_CMD_GO = true → Refuses (.registerWrite a 0x400020 8 v) s) ∧
      (d.flag Fld.HANG_CMD_GO = false → Takes (.registerWrite a 0x400020 8 v) s fun e =>
        e.fld Fld.HANG_CMD_DOMAIN = getF v Fld.HANG_CMD_DOMAIN ∧ e.fld Fld.HANG_CMD_INDEX = getF v Fld.HANG_CMD_INDEX ∧
        e.fld Fld.HANG_CMD_CAPTURE_ONLY = getF v Fld.HANG_CMD_CAPTURE_ONLY ∧ e.flag Fld.HANG_CMD_GO = false ∧ rest e)) ∧
    -- memory controllers (R265, R266, R268, R271)
    (∀ k, k < 20 →
      let b := memBase k
      (a = .runtime → Refuses (.memFillStart a k v) s) ∧
      (a = .firmware → getF v Fld.HBM_FILL_START = 1 → d.flag (Fld.HBM_FILL_START.at b) = false →
        ((∃ x ∈ d.cores, x.2.log.state = .running) ∨ (d.memc k).descs ≠ [] → Refuses (.memFillStart a k v) s) ∧
        ((∀ x ∈ d.cores, x.2.log.state ≠ .running) → (d.memc k).descs = [] → Takes (.memFillStart a k v) s fun e =>
          e.flag (Fld.HBM_FILL_START.at b) = true ∧ e.flag (Fld.HBM_FILL_BUSY.at b) = true ∧ e.memState k = 2 ∧
          e.fld (Fld.HBM_FILL_MODE.at b) = getF v Fld.HBM_FILL_MODE ∧ rest e)) ∧
      (∀ i, i < (if k < 16 then 256 else 64) →
        let f := fun (f : Fld) => (f.nth 8 i).at b
        let sameBlock := ∃ j, j < (if k < 16 then 256 else 64) ∧ j ≠ i ∧ d.fld ((Fld.HBM_REMAP_VALID.nth 8 j).at b) = 1 ∧
          d.fld ((Fld.HBM_REMAP_BLOCK.nth 8 j).at b) = getF v Fld.HBM_REMAP_BLOCK
        let copying := d.fld (f Fld.HBM_REMAP_VALID) ≠ d.fld (f Fld.HBM_REMAP_ACTIVE)
        let outside := k < 16 ∧ (getF v Fld.HBM_REMAP_BLOCK / 4 % 32 ≠ i / 8 ∨ 48 * 2 ^ 24 ≤ getF v Fld.HBM_REMAP_BLOCK)
        (a = .runtime → Refuses (.remapWrite a (.mem k) i v) s) ∧
        (a = .firmware → getF v Fld.HBM_REMAP_VALID = 1 → sameBlock ∨ outside → Refuses (.remapWrite a (.mem k) i v) s) ∧
        (a = .firmware → copying → getF v Fld.HBM_REMAP_VALID ≠ d.fld (f Fld.HBM_REMAP_VALID) → Refuses (.remapWrite a (.mem k) i v) s) ∧
        (a = .firmware → ¬ copying → ¬ outside → getF v Fld.HBM_REMAP_VALID = 0 ∨ ¬ sameBlock →
          Takes (.remapWrite a (.mem k) i v) s fun e => e.fld (f Fld.HBM_REMAP_VALID) = getF v Fld.HBM_REMAP_VALID ∧
            e.fld (f Fld.HBM_REMAP_BLOCK) = getF v Fld.HBM_REMAP_BLOCK ∧
            e.fld (f Fld.HBM_REMAP_ACTIVE) = d.fld (f Fld.HBM_REMAP_ACTIVE) ∧ rest e)) ∧
      (d.flag (Fld.HBM_FLIP_CTRL_ARM.at b) = true → Refuses (.flipMaskArm a (.mem k) v) s) ∧
      (d.flag (Fld.HBM_FLIP_CTRL_ARM.at b) = false → Takes (.flipMaskArm a (.mem k) v) s fun e =>
        e.fld (Fld.HBM_FLIP_CTRL_ARM.at b) = getF v Fld.HBM_FLIP_CTRL_ARM ∧
        e.fld (Fld.HBM_FLIP_CTRL_MATCH_EN.at b) = getF v Fld.HBM_FLIP_CTRL_MATCH_EN ∧
        e.fld (Fld.HBM_FLIP_CTRL_BLOCK.at b) = getF v Fld.HBM_FLIP_CTRL_BLOCK ∧ rest e) ∧
      let justNow := bit (d.justSet (b + 8)) 0
      (bit v 0 = true → justNow = false → Takes (.memLatchedClear a k v) s fun e =>
        e.flag (Fld.HBM_ECC_COUNT_LATCHED.at b) = false ∧ e.fld (Fld.HBM_ECC_COUNT_EXTRA.at b) = 0 ∧
        e.fld (Fld.HBM_ECC_COUNT_CORRECTED.at b) = d.fld (Fld.HBM_ECC_COUNT_CORRECTED.at b) ∧
        (∀ o ∈ [0x10, 0x18, 0x20, 0x28], e.reg (b + o) = 0) ∧ rest e) ∧
      (bit v 0 = false ∨ justNow = true → Takes (.memLatchedClear a k v) s fun e => e = { d with out := [.accepted] }) ∧
      -- Welt rings (R247, R248, R258)
      (∀ r, r < 16 →
        let f := fun (f : Fld) => d.fld (ringFld f k r)
        let leaves := fun (state : Nat) => Takes (.weltRingStart a k r v) s fun e => e.ring Fld.HBM_WELT_RING_CTRL_STATE k r = state ∧
          e.ring Fld.HBM_WELT_RING_CTRL_TAIL k r = bits v 15 0 ∧ e.ring Fld.HBM_WELT_RING_CTRL_ENABLE k r = bits v 61 61 ∧
          e.ring Fld.HBM_WELT_RING_CTRL_HEAD k r = (if f Fld.HBM_WELT_RING_CTRL_STATE = 1 then f Fld.HBM_WELT_RING_CTRL_HEAD else bits v 31 16) ∧
          (e.memc k).fwRings.testBit r = decide (a = .firmware) ∧ rest e
        (f Fld.HBM_WELT_RING_CTRL_STATE = 1 → bits v 59 59 ≠ f Fld.HBM_WELT_RING_CTRL_TAIL_SRC → Refuses (.weltRingStart a k r v) s) ∧
        (f Fld.HBM_WELT_RING_CTRL_STATE ≠ 1 ∨ bits v 59 59 = f Fld.HBM_WELT_RING_CTRL_TAIL_SRC →
          (bits v 61 61 = 0 → leaves (if f Fld.HBM_WELT_RING_CTRL_STATE = 2 then 2 else 0)) ∧
          (bits v 61 61 = 1 → f Fld.HBM_WELT_RING_CTRL_STATE = 2 → bits v 58 58 = 0 → leaves 2) ∧
          (bits v 61 61 = 1 → f Fld.HBM_WELT_RING_CTRL_STATE ≠ 2 ∨ bits v 58 58 = 1 → leaves 1)))) ∧
    -- cores (R64, R70, R182, R266)
    (∀ c, c < numCores →
      let k := d.core c
      let others := fun (e : Dev) => (∀ j, j ≠ c → e.core j = d.core j) ∧ e.regs = d.regs ∧ e.mem = d.mem
      let idle := d.coreState c = .empty ∨ d.coreState c = .loaded ∨ d.coreState c = .done
      (idle → Takes (.coreBankGateWrite a c v) s fun e =>
        (e.core c).fld Fld.CORE_BANK_GATE_GATE = bits v 6 0 ∧ (e.core c).log.spad = k.log.spad ∧ others e) ∧
      (¬ idle → Refuses (.coreBankGateWrite a c v) s) ∧
      let justNow := bit (d.justSet (coreBase c + 0x38)) 0
      (bit v 0 = true → justNow = false → Takes (.errLatchedClear a c v) s fun e =>
        (∀ o ∈ [0x38, 0x40, 0x48, 0x50, 0x58], (e.core c).reg o = 0) ∧ (e.core c).log = k.log ∧ others e) ∧
      (bit v 0 = false ∨ justNow = true → Takes (.errLatchedClear a c v) s fun e => e = { d with out := [.accepted] }) ∧
      (∀ b, b < 8 →
        let armed := k.fld Fld.CORE_SPAD_FLIP_ARM_ARM
        let bit_ := fun (x i : Nat) => x.testBit i
        let clears := fun (i : Nat) => bit v (8 + i) && !bit (d.justSet (coreBase c + 0x680)) (8 + i)
        ((∃ i, bit_ armed i = true ∧ (bit v i || clears i) = true) → Refuses (.flipMaskArm a (.bank c b) v) s) ∧
        ((∀ i, bit_ armed i = true → bit v i = false ∧ clears i = false) → Takes (.flipMaskArm a (.bank c b) v) s fun e =>
          (∀ i, i < 8 → bit_ ((e.core c).fld Fld.CORE_SPAD_FLIP_ARM_ARM) i = (bit_ armed i || bit v i)) ∧ (e.core c).log = k.log ∧ others e)) ∧
      (∀ i, i < 64 →
        let link := i % 32 / 8
        let clash := ∃ j, j < 32 ∧ j ≠ i % 32 ∧ (∃ l, l < 4 ∧ bit v (56 + l) = true ∧ bit (k.route (i / 32) j) (56 + l) = true) ∧
          bit v 63 = true ∧ bit (k.route (i / 32) j) 63 = true ∧ bits (k.route (i / 32) j) 54 52 = bits v 54 52
        let reserved := bits v 62 60 ≠ 0 ∨ bits v 51 0 ≠ 0
        ((d.lidOf c).isNone = true ∨ bit v (56 + link) = true ∨ reserved ∨ clash → Refuses (.stitchRouteWrite a c i v) s) ∧
        (d.coreState c = .empty ∨ d.coreState c = .loaded → bit v (56 + link) = false → ¬ reserved → ¬ clash →
          Takes (.stitchRouteWrite a c i v) s fun e =>
            let w := (e.core c).route (i / 32) (i % 32)
            bit w 63 = bit v 63 ∧ bits w 59 55 = bits v 59 55 ∧ bits w 54 52 = bits v 54 52 ∧ (e.core c).log.spad = k.log.spad ∧ others e))) ∧
    -- device requests (R149, R206, R219)
    (d.flag Fld.COB_STITCH_FORCE_ARM = true → Refuses (.forceReconfigArm a v) s) ∧
    (d.flag Fld.COB_STITCH_FORCE_ARM = false → Takes (.forceReconfigArm a v) s fun e =>
      e.fld Fld.COB_STITCH_FORCE_ARM = bits v 0 0 ∧ e.fld Fld.COB_STITCH_FORCE_REQ_EPOCH = bits v 47 32 ∧
      e.fld Fld.COB_STITCH_FORCE_CAPTURE_OLD = bits v 1 1 ∧ e.fld Fld.COB_STITCH_FORCE_APPLIED_EPOCH = d.fld Fld.COB_STITCH_FORCE_APPLIED_EPOCH ∧
      rest e) ∧
    (a = .runtime → Refuses (.raceReqArm a v) s) ∧
    (d.flag Fld.COB_RACE_REQ_ARM = true ∨ 2 < bits v 7 4 → Refuses (.raceReqArm a v) s) ∧
    (a = .firmware → d.flag Fld.COB_RACE_REQ_ARM = false → bits v 7 4 ≤ 2 → Takes (.raceReqArm a v) s fun e =>
      e.fld Fld.COB_RACE_REQ_ARM = bits v 0 0 ∧ e.fld Fld.COB_RACE_REQ_FLIP = bits v 2 2 ∧ e.fld Fld.COB_RACE_REQ_REQ_ROUTING = bits v 3 3 ∧
      e.fld Fld.COB_RACE_REQ_REQ_SERVICE = bits v 7 4 ∧ e.fld Fld.COB_RACE_REQ_REQ_EPOCH = bits v 63 48 ∧ rest e) ∧
    (bits v 3 0 = 0 ∨ 2 < bits v 3 0 → Refuses (.numericsLevelReq a v) s) ∧
    (bits v 3 0 = 1 ∨ bits v 3 0 = 2 → Takes (.numericsLevelReq a v) s fun e =>
      e.cob.level = true ∧ e.fld Fld.COB_NUMERICS_LEVEL_REQ_LEVEL = bits v 3 0 ∧ e.fld Fld.COB_NUMERICS_LEVEL_REQ_EPOCH = bits v 31 16 ∧
      e.fld Fld.COB_NUMERICS_LEVEL_APPLIED_LEVEL = d.fld Fld.COB_NUMERICS_LEVEL_APPLIED_LEVEL ∧ rest e)

/-! ### The block as a whole -/

/-- A step takes the command at the front of the queue and is that command's effect on the state with the queue's rest. -/
def Obligations.StepRunsFrontCommand : Prop :=
  ∀ (s : State) (c : Instr) (rest : List Instr), s.pending = c :: rest → step s = exec c { s with pending := rest }

/-- With no command waiting a step goes on. One nanosecond of fabric time passes; where no boundary falls due at the new time and nothing
waits at the host port, nothing else changes but a priority pause, which is lifted once its buffer is empty (the model's choice, logs 1
and 112). -/
def Obligations.EmptyQueueIdles : Prop :=
  ∀ s : State, s.pending = [] →
    (∃ t, step s = .next t ∧ t.pending = []) ∧
    (s.dev.slew = 0 → HostQuiet s.dev → s.dev.host.remote = [] → s.dev.flag Fld.FT_STATUS_HOLDOVER = false → s.dev.counterOn = false →
      let later : Dev := { s.dev with now := s.dev.now + 1, phase := (s.dev.phase + 1) % 5000, out := [] }
      later.boundaries = later →
      (s.dev.host.paused = false → step s = .next { s with dev := later }) ∧
      (s.dev.host.paused = true → step s = .next { s with dev := { later with host := { later.host with paused := false }, out := [.pause false] } }))

/-- Every well-formed command completes in every state and leaves the queue alone; one that names a unit the device lacks faults,
and only such a one does. -/
def Obligations.WellFormedCommandsRun : Prop :=
  ∀ (i : Instr) (s : State),
    if i.wf then ∃ t, exec i s = .next t ∧ t.pending = s.pending else exec i s = .fault .noSuchUnit

/-- A queue of well-formed commands stays one with every step, and no step of it stops; n steps serve its first n commands in order.
-/
def Obligations.QueueStaysWellFormed : Prop :=
  let inv := fun (s : State) => ∀ c ∈ s.pending, c.wf = true
  (∀ s, inv s → ∃ t, step s = .next t ∧ inv t) ∧
  ∀ (n : Nat) (s : State), inv s → n ≤ s.pending.length → ∃ t, stepsTo n s t ∧ t.pending = s.pending.drop n

/-- The device right after reset: an empty queue, no byte of memory listed, every core EMPTY with its registers zero, its banks
powered but for the gates of the reset value, and every register of the register space at its reset value. -/
def Obligations.ResetState : Prop :=
  let d := State.reset.dev
  State.reset.pending = [] ∧ Memory.wf d.mem = true ∧ d.mem = [] ∧ d.memErr = [] ∧
  (∀ off, d.reg off = resetOf off) ∧ (∀ c o, (d.core c).reg o = coreReset o) ∧
  (∀ c, (d.core c).log.state = .empty ∧ (d.core c).log.pc = 0 ∧ (d.core c).log.imem = [] ∧ (d.core c).log.spad = [] ∧
    (∀ n, (d.core c).log.sreg n = 0) ∧ (∀ n, (d.core c).log.vreg n = 0)) ∧
  d.stepState = 0 ∧ d.step.inForce = 0 ∧ d.now = 0 ∧ d.cob.log = [] ∧ d.cks.objs = []

/-- Memory in its canonical form (rising addresses, no zero byte listed) keeps it under every command that reads, writes, corrects,
fills or copies it on its own: READ and WRITE packets, the memory controllers' own work and the Checkpoint Store's. -/
def Obligations.MemoryKeepsItsForm : Prop :=
  ∀ s : State, Memory.wf s.dev.mem = true →
    let keeps := fun (i : Instr) => Completes i s fun e => Memory.wf e.mem = true
    (∀ k, k < 20 → keeps (.scrubAccess (.mem k)) ∧ keeps (.scrubLapEnd (.mem k)) ∧
      (∀ bad, keeps (.memFillEnd k bad)) ∧ (∀ ok, keeps (.memTrainingEnd k ok)) ∧
      (∀ i, i < (if k < 16 then 256 else 64) → keeps (.remapCopyEnd (.mem k) i)) ∧
      (∀ block, block < memBlocks k → keeps (.flipMaskApply (.mem k) block))) ∧
    (∀ node p, nodeOk node = true → node ≠ cobNode → keeps (.write node p) ∧ keeps (.read node p)) ∧
    keeps .cksRingStart ∧ (∀ i, keeps (.cksWrite i) ∧ keeps (.cksRead i) ∧ keeps (.cksDelete i) ∧ keeps (.cksStat i) ∧
      keeps (.cksRequestComplete i))
end

