-- ==== Sys2Proof/Laws/Maps.lean ====
section
/-!
SUPPORT. Sparse maps: what a key reads as after a write, and that a write keeps the canonical form.
-/
namespace Sys2Proof

theorem NMap.get_del_self {α : Type} (d : α) (m : NMap α) (k : Nat) : NMap.get d (NMap.del m k) k = d := by
  induction m with
  | nil => rfl
  | cons e m ih => simp only [NMap.del]; split <;> simp_all [NMap.get]

theorem NMap.get_del_of_ne {α : Type} (d : α) (m : NMap α) {k j : Nat} (h : j ≠ k) :
    NMap.get d (NMap.del m k) j = NMap.get d m j := by
  induction m with
  | nil => rfl
  | cons e m ih =>
    simp only [NMap.del]
    split
    · next e1 => rw [ih]; simp [NMap.get, e1, Ne.symm h]
    · simp only [NMap.get, ih]

theorem NMap.get_put_self {α : Type} (d : α) (m : NMap α) (k : Nat) (v : α) :
    NMap.get d (NMap.put m k v) k = v := by
  induction m with
  | nil => simp [NMap.put, NMap.get]
  | cons e m ih =>
    simp only [NMap.put]
    split
    · simp [NMap.get]
    · split
      · simp [NMap.get]
      · next h1 h2 => simp [NMap.get, h2, ih]

theorem NMap.get_put_of_ne {α : Type} (d : α) (m : NMap α) {k j : Nat} (v : α) (h : j ≠ k) :
    NMap.get d (NMap.put m k v) j = NMap.get d m j := by
  induction m with
  | nil => simp [NMap.put, NMap.get, Ne.symm h]
  | cons e m ih =>
    simp only [NMap.put]
    split
    · simp [NMap.get, Ne.symm h]
    · split
      · next h1 h2 => simp [NMap.get, h2, Ne.symm h]
      · simp only [NMap.get, ih]

/-- A written key reads as what was written. -/
@[simp] theorem NMap.get_set_self {α : Type} [DecidableEq α] (d : α) (m : NMap α) (k : Nat) (v : α) :
    NMap.get d (NMap.set d m k v) k = v := by
  unfold NMap.set; split
  · next h => rw [NMap.get_del_self, h]
  · exact NMap.get_put_self d m k v

/-- Every other key reads as before, whatever it defaults to. -/
theorem NMap.get_set_of_ne {α : Type} [DecidableEq α] (e d : α) (m : NMap α) {k j : Nat} (v : α) (h : j ≠ k) :
    NMap.get e (NMap.set d m k v) j = NMap.get e m j := by
  unfold NMap.set; split
  · exact NMap.get_del_of_ne e m h
  · exact NMap.get_put_of_ne e m v h

/-- Both at once. -/
theorem NMap.get_set {α : Type} [DecidableEq α] (d : α) (m : NMap α) (k j : Nat) (v : α) :
    NMap.get d (NMap.set d m k v) j = if j = k then v else NMap.get d m j := by
  split
  · next h => rw [h, NMap.get_set_self]
  · next h => exact NMap.get_set_of_ne d d m v h

/-! ### The canonical form -/

/-- `lo` is below the first key. -/
def NMap.above {α : Type} (lo : Nat) : NMap α → Prop
  | [] => True
  | (i, _) :: _ => lo < i

theorem NMap.wf_cons {α : Type} [DecidableEq α] (d : α) (i : Nat) (x : α) (m : NMap α) :
    NMap.wf d ((i, x) :: m) = true ↔ x ≠ d ∧ NMap.above i m ∧ NMap.wf d m = true := by
  cases m with
  | nil => simp [NMap.wf, NMap.above]
  | cons e m => obtain ⟨j, y⟩ := e; simp [NMap.wf, NMap.above, and_assoc]

theorem NMap.above_trans {α : Type} {lo i : Nat} (h : lo < i) : ∀ {m : NMap α}, NMap.above i m → NMap.above lo m
  | [], _ => trivial
  | (_, _) :: _, h2 => Nat.lt_trans h h2

theorem NMap.wf_del {α : Type} [DecidableEq α] (d : α) (k : Nat) : ∀ m : NMap α, NMap.wf d m = true →
    NMap.wf d (NMap.del m k) = true ∧ ∀ lo, NMap.above lo m → NMap.above lo (NMap.del m k)
  | [], _ => ⟨rfl, fun _ h => h⟩
  | (i, x) :: m, h => by
    obtain ⟨hx, ha, hm⟩ := (NMap.wf_cons d i x m).1 h
    obtain ⟨h1, h2⟩ := NMap.wf_del d k m hm
    simp only [NMap.del]
    split
    · exact ⟨h1, fun lo hl => h2 lo (NMap.above_trans hl ha)⟩
    · exact ⟨(NMap.wf_cons d i x _).2 ⟨hx, h2 i ha, h1⟩, fun lo hl => hl⟩

theorem NMap.wf_put {α : Type} [DecidableEq α] (d : α) (k : Nat) (v : α) (hv : v ≠ d) : ∀ m : NMap α,
    NMap.wf d m = true → NMap.wf d (NMap.put m k v) = true ∧
      ∀ lo, lo < k → NMap.above lo m → NMap.above lo (NMap.put m k v)
  | [], _ => ⟨by simp [NMap.put, NMap.wf, hv], fun _ h _ => h⟩
  | (i, x) :: m, h => by
    obtain ⟨hx, ha, hm⟩ := (NMap.wf_cons d i x m).1 h
    obtain ⟨h1, h2⟩ := NMap.wf_put d k v hv m hm
    simp only [NMap.put]
    split
    · next hk => exact ⟨(NMap.wf_cons d k v _).2 ⟨hv, hk, h⟩, fun lo hl _ => hl⟩
    · split
      · next hk => exact ⟨(NMap.wf_cons d k v m).2 ⟨hv, hk ▸ ha, hm⟩, fun lo hl _ => hl⟩
      · next h3 h4 => exact ⟨(NMap.wf_cons d i x _).2 ⟨hx, h2 i (by omega) ha, h1⟩, fun lo _ hl => hl⟩

/-- A write keeps the canonical form. -/
theorem NMap.wf_set {α : Type} [DecidableEq α] (d : α) (m : NMap α) (k : Nat) (v : α) (h : NMap.wf d m = true) :
    NMap.wf d (NMap.set d m k v) = true := by
  unfold NMap.set; split
  · exact (NMap.wf_del d k m h).1
  · next hv => exact (NMap.wf_put d k v hv m h).1

end Sys2Proof
end

