-- ==== Sys2Proof/Laws/State.lean ====
section
/-!
SUPPORT. What each named update of the state leaves alone, field by field, and what it reads back as: one lemma per field per
update, so that no proof unfolds a record update.
-/
namespace Sys2Proof.Machine

/-! ### The block -/

@[simp] theorem Dev.setReg_now (d : Dev) (o : Nat) (v : Word) : (d.setReg o v).now = d.now := rfl
@[simp] theorem Dev.setReg_slew (d : Dev) (o : Nat) (v : Word) : (d.setReg o v).slew = d.slew := rfl
@[simp] theorem Dev.setReg_phase (d : Dev) (o : Nat) (v : Word) : (d.setReg o v).phase = d.phase := rfl
@[simp] theorem Dev.setReg_fresh (d : Dev) (o : Nat) (v : Word) : (d.setReg o v).fresh = d.fresh := rfl
@[simp] theorem Dev.setReg_nextTxn (d : Dev) (o : Nat) (v : Word) : (d.setReg o v).nextTxn = d.nextTxn := rfl
@[simp] theorem Dev.setReg_out (d : Dev) (o : Nat) (v : Word) : (d.setReg o v).out = d.out := rfl
@[simp] theorem Dev.setReg_cores (d : Dev) (o : Nat) (v : Word) : (d.setReg o v).cores = d.cores := rfl
@[simp] theorem Dev.setReg_gws (d : Dev) (o : Nat) (v : Word) : (d.setReg o v).gws = d.gws := rfl
@[simp] theorem Dev.setReg_routers (d : Dev) (o : Nat) (v : Word) : (d.setReg o v).routers = d.routers := rfl
@[simp] theorem Dev.setReg_mems (d : Dev) (o : Nat) (v : Word) : (d.setReg o v).mems = d.mems := rfl
@[simp] theorem Dev.setReg_ports (d : Dev) (o : Nat) (v : Word) : (d.setReg o v).ports = d.ports := rfl
@[simp] theorem Dev.setReg_mem (d : Dev) (o : Nat) (v : Word) : (d.setReg o v).mem = d.mem := rfl
@[simp] theorem Dev.setReg_memErr (d : Dev) (o : Nat) (v : Word) : (d.setReg o v).memErr = d.memErr := rfl
@[simp] theorem Dev.setReg_memFold (d : Dev) (o : Nat) (v : Word) : (d.setReg o v).memFold = d.memFold := rfl
@[simp] theorem Dev.setReg_memReach (d : Dev) (o : Nat) (v : Word) : (d.setReg o v).memReach = d.memReach := rfl
@[simp] theorem Dev.setReg_w1c (d : Dev) (o : Nat) (v : Word) : (d.setReg o v).w1c = d.w1c := rfl
@[simp] theorem Dev.setReg_arrived (d : Dev) (o : Nat) (v : Word) : (d.setReg o v).arrived = d.arrived := rfl
@[simp] theorem Dev.setReg_sendq (d : Dev) (o : Nat) (v : Word) : (d.setReg o v).sendq = d.sendq := rfl
@[simp] theorem Dev.setReg_map (d : Dev) (o : Nat) (v : Word) : (d.setReg o v).map = d.map := rfl
@[simp] theorem Dev.setReg_step (d : Dev) (o : Nat) (v : Word) : (d.setReg o v).step = d.step := rfl
@[simp] theorem Dev.setReg_heal (d : Dev) (o : Nat) (v : Word) : (d.setReg o v).heal = d.heal := rfl
@[simp] theorem Dev.setReg_cob (d : Dev) (o : Nat) (v : Word) : (d.setReg o v).cob = d.cob := rfl
@[simp] theorem Dev.setReg_host (d : Dev) (o : Nat) (v : Word) : (d.setReg o v).host = d.host := rfl
@[simp] theorem Dev.setReg_cks (d : Dev) (o : Nat) (v : Word) : (d.setReg o v).cks = d.cks := rfl
@[simp] theorem Dev.setReg_weir (d : Dev) (o : Nat) (v : Word) : (d.setReg o v).weir = d.weir := rfl
@[simp] theorem Dev.setReg_power (d : Dev) (o : Nat) (v : Word) : (d.setReg o v).power = d.power := rfl

@[simp] theorem Dev.setFld_now (d : Dev) (f : Fld) (v : Nat) : (d.setFld f v).now = d.now := rfl
@[simp] theorem Dev.setFld_slew (d : Dev) (f : Fld) (v : Nat) : (d.setFld f v).slew = d.slew := rfl
@[simp] theorem Dev.setFld_phase (d : Dev) (f : Fld) (v : Nat) : (d.setFld f v).phase = d.phase := rfl
@[simp] theorem Dev.setFld_fresh (d : Dev) (f : Fld) (v : Nat) : (d.setFld f v).fresh = d.fresh := rfl
@[simp] theorem Dev.setFld_nextTxn (d : Dev) (f : Fld) (v : Nat) : (d.setFld f v).nextTxn = d.nextTxn := rfl
@[simp] theorem Dev.setFld_out (d : Dev) (f : Fld) (v : Nat) : (d.setFld f v).out = d.out := rfl
@[simp] theorem Dev.setFld_cores (d : Dev) (f : Fld) (v : Nat) : (d.setFld f v).cores = d.cores := rfl
@[simp] theorem Dev.setFld_gws (d : Dev) (f : Fld) (v : Nat) : (d.setFld f v).gws = d.gws := rfl
@[simp] theorem Dev.setFld_routers (d : Dev) (f : Fld) (v : Nat) : (d.setFld f v).routers = d.routers := rfl
@[simp] theorem Dev.setFld_mems (d : Dev) (f : Fld) (v : Nat) : (d.setFld f v).mems = d.mems := rfl
@[simp] theorem Dev.setFld_ports (d : Dev) (f : Fld) (v : Nat) : (d.setFld f v).ports = d.ports := rfl
@[simp] theorem Dev.setFld_mem (d : Dev) (f : Fld) (v : Nat) : (d.setFld f v).mem = d.mem := rfl
@[simp] theorem Dev.setFld_memErr (d : Dev) (f : Fld) (v : Nat) : (d.setFld f v).memErr = d.memErr := rfl
@[simp] theorem Dev.setFld_memFold (d : Dev) (f : Fld) (v : Nat) : (d.setFld f v).memFold = d.memFold := rfl
@[simp] theorem Dev.setFld_memReach (d : Dev) (f : Fld) (v : Nat) : (d.setFld f v).memReach = d.memReach := rfl
@[simp] theorem Dev.setFld_w1c (d : Dev) (f : Fld) (v : Nat) : (d.setFld f v).w1c = d.w1c := rfl
@[simp] theorem Dev.setFld_arrived (d : Dev) (f : Fld) (v : Nat) : (d.setFld f v).arrived = d.arrived := rfl
@[simp] theorem Dev.setFld_sendq (d : Dev) (f : Fld) (v : Nat) : (d.setFld f v).sendq = d.sendq := rfl
@[simp] theorem Dev.setFld_map (d : Dev) (f : Fld) (v : Nat) : (d.setFld f v).map = d.map := rfl
@[simp] theorem Dev.setFld_step (d : Dev) (f : Fld) (v : Nat) : (d.setFld f v).step = d.step := rfl
@[simp] theorem Dev.setFld_heal (d : Dev) (f : Fld) (v : Nat) : (d.setFld f v).heal = d.heal := rfl
@[simp] theorem Dev.setFld_cob (d : Dev) (f : Fld) (v : Nat) : (d.setFld f v).cob = d.cob := rfl
@[simp] theorem Dev.setFld_host (d : Dev) (f : Fld) (v : Nat) : (d.setFld f v).host = d.host := rfl
@[simp] theorem Dev.setFld_cks (d : Dev) (f : Fld) (v : Nat) : (d.setFld f v).cks = d.cks := rfl
@[simp] theorem Dev.setFld_weir (d : Dev) (f : Fld) (v : Nat) : (d.setFld f v).weir = d.weir := rfl
@[simp] theorem Dev.setFld_power (d : Dev) (f : Fld) (v : Nat) : (d.setFld f v).power = d.power := rfl

@[simp] theorem Dev.addFld_now (d : Dev) (f : Fld) (n : Nat) : (d.addFld f n).now = d.now := rfl
@[simp] theorem Dev.addFld_slew (d : Dev) (f : Fld) (n : Nat) : (d.addFld f n).slew = d.slew := rfl
@[simp] theorem Dev.addFld_phase (d : Dev) (f : Fld) (n : Nat) : (d.addFld f n).phase = d.phase := rfl
@[simp] theorem Dev.addFld_fresh (d : Dev) (f : Fld) (n : Nat) : (d.addFld f n).fresh = d.fresh := rfl
@[simp] theorem Dev.addFld_nextTxn (d : Dev) (f : Fld) (n : Nat) : (d.addFld f n).nextTxn = d.nextTxn := rfl
@[simp] theorem Dev.addFld_out (d : Dev) (f : Fld) (n : Nat) : (d.addFld f n).out = d.out := rfl
@[simp] theorem Dev.addFld_cores (d : Dev) (f : Fld) (n : Nat) : (d.addFld f n).cores = d.cores := rfl
@[simp] theorem Dev.addFld_gws (d : Dev) (f : Fld) (n : Nat) : (d.addFld f n).gws = d.gws := rfl
@[simp] theorem Dev.addFld_routers (d : Dev) (f : Fld) (n : Nat) : (d.addFld f n).routers = d.routers := rfl
@[simp] theorem Dev.addFld_mems (d : Dev) (f : Fld) (n : Nat) : (d.addFld f n).mems = d.mems := rfl
@[simp] theorem Dev.addFld_ports (d : Dev) (f : Fld) (n : Nat) : (d.addFld f n).ports = d.ports := rfl
@[simp] theorem Dev.addFld_mem (d : Dev) (f : Fld) (n : Nat) : (d.addFld f n).mem = d.mem := rfl
@[simp] theorem Dev.addFld_memErr (d : Dev) (f : Fld) (n : Nat) : (d.addFld f n).memErr = d.memErr := rfl
@[simp] theorem Dev.addFld_memFold (d : Dev) (f : Fld) (n : Nat) : (d.addFld f n).memFold = d.memFold := rfl
@[simp] theorem Dev.addFld_memReach (d : Dev) (f : Fld) (n : Nat) : (d.addFld f n).memReach = d.memReach := rfl
@[simp] theorem Dev.addFld_w1c (d : Dev) (f : Fld) (n : Nat) : (d.addFld f n).w1c = d.w1c := rfl
@[simp] theorem Dev.addFld_arrived (d : Dev) (f : Fld) (n : Nat) : (d.addFld f n).arrived = d.arrived := rfl
@[simp] theorem Dev.addFld_sendq (d : Dev) (f : Fld) (n : Nat) : (d.addFld f n).sendq = d.sendq := rfl
@[simp] theorem Dev.addFld_map (d : Dev) (f : Fld) (n : Nat) : (d.addFld f n).map = d.map := rfl
@[simp] theorem Dev.addFld_step (d : Dev) (f : Fld) (n : Nat) : (d.addFld f n).step = d.step := rfl
@[simp] theorem Dev.addFld_heal (d : Dev) (f : Fld) (n : Nat) : (d.addFld f n).heal = d.heal := rfl
@[simp] theorem Dev.addFld_cob (d : Dev) (f : Fld) (n : Nat) : (d.addFld f n).cob = d.cob := rfl
@[simp] theorem Dev.addFld_host (d : Dev) (f : Fld) (n : Nat) : (d.addFld f n).host = d.host := rfl
@[simp] theorem Dev.addFld_cks (d : Dev) (f : Fld) (n : Nat) : (d.addFld f n).cks = d.cks := rfl
@[simp] theorem Dev.addFld_weir (d : Dev) (f : Fld) (n : Nat) : (d.addFld f n).weir = d.weir := rfl
@[simp] theorem Dev.addFld_power (d : Dev) (f : Fld) (n : Nat) : (d.addFld f n).power = d.power := rfl

@[simp] theorem Dev.setCore_now (d : Dev) (c : Nat) (k : Core) : (d.setCore c k).now = d.now := rfl
@[simp] theorem Dev.setCore_slew (d : Dev) (c : Nat) (k : Core) : (d.setCore c k).slew = d.slew := rfl
@[simp] theorem Dev.setCore_phase (d : Dev) (c : Nat) (k : Core) : (d.setCore c k).phase = d.phase := rfl
@[simp] theorem Dev.setCore_fresh (d : Dev) (c : Nat) (k : Core) : (d.setCore c k).fresh = d.fresh := rfl
@[simp] theorem Dev.setCore_nextTxn (d : Dev) (c : Nat) (k : Core) : (d.setCore c k).nextTxn = d.nextTxn := rfl
@[simp] theorem Dev.setCore_out (d : Dev) (c : Nat) (k : Core) : (d.setCore c k).out = d.out := rfl
@[simp] theorem Dev.setCore_regs (d : Dev) (c : Nat) (k : Core) : (d.setCore c k).regs = d.regs := rfl
@[simp] theorem Dev.setCore_gws (d : Dev) (c : Nat) (k : Core) : (d.setCore c k).gws = d.gws := rfl
@[simp] theorem Dev.setCore_routers (d : Dev) (c : Nat) (k : Core) : (d.setCore c k).routers = d.routers := rfl
@[simp] theorem Dev.setCore_mems (d : Dev) (c : Nat) (k : Core) : (d.setCore c k).mems = d.mems := rfl
@[simp] theorem Dev.setCore_ports (d : Dev) (c : Nat) (k : Core) : (d.setCore c k).ports = d.ports := rfl
@[simp] theorem Dev.setCore_mem (d : Dev) (c : Nat) (k : Core) : (d.setCore c k).mem = d.mem := rfl
@[simp] theorem Dev.setCore_memErr (d : Dev) (c : Nat) (k : Core) : (d.setCore c k).memErr = d.memErr := rfl
@[simp] theorem Dev.setCore_memFold (d : Dev) (c : Nat) (k : Core) : (d.setCore c k).memFold = d.memFold := rfl
@[simp] theorem Dev.setCore_memReach (d : Dev) (c : Nat) (k : Core) : (d.setCore c k).memReach = d.memReach := rfl
@[simp] theorem Dev.setCore_w1c (d : Dev) (c : Nat) (k : Core) : (d.setCore c k).w1c = d.w1c := rfl
@[simp] theorem Dev.setCore_arrived (d : Dev) (c : Nat) (k : Core) : (d.setCore c k).arrived = d.arrived := rfl
@[simp] theorem Dev.setCore_sendq (d : Dev) (c : Nat) (k : Core) : (d.setCore c k).sendq = d.sendq := rfl
@[simp] theorem Dev.setCore_map (d : Dev) (c : Nat) (k : Core) : (d.setCore c k).map = d.map := rfl
@[simp] theorem Dev.setCore_step (d : Dev) (c : Nat) (k : Core) : (d.setCore c k).step = d.step := rfl
@[simp] theorem Dev.setCore_heal (d : Dev) (c : Nat) (k : Core) : (d.setCore c k).heal = d.heal := rfl
@[simp] theorem Dev.setCore_cob (d : Dev) (c : Nat) (k : Core) : (d.setCore c k).cob = d.cob := rfl
@[simp] theorem Dev.setCore_host (d : Dev) (c : Nat) (k : Core) : (d.setCore c k).host = d.host := rfl
@[simp] theorem Dev.setCore_cks (d : Dev) (c : Nat) (k : Core) : (d.setCore c k).cks = d.cks := rfl
@[simp] theorem Dev.setCore_weir (d : Dev) (c : Nat) (k : Core) : (d.setCore c k).weir = d.weir := rfl
@[simp] theorem Dev.setCore_power (d : Dev) (c : Nat) (k : Core) : (d.setCore c k).power = d.power := rfl

@[simp] theorem Dev.modCore_now (d : Dev) (c : Nat) (f : Core → Core) : (d.modCore c f).now = d.now := rfl
@[simp] theorem Dev.modCore_slew (d : Dev) (c : Nat) (f : Core → Core) : (d.modCore c f).slew = d.slew := rfl
@[simp] theorem Dev.modCore_phase (d : Dev) (c : Nat) (f : Core → Core) : (d.modCore c f).phase = d.phase := rfl
@[simp] theorem Dev.modCore_fresh (d : Dev) (c : Nat) (f : Core → Core) : (d.modCore c f).fresh = d.fresh := rfl
@[simp] theorem Dev.modCore_nextTxn (d : Dev) (c : Nat) (f : Core → Core) : (d.modCore c f).nextTxn = d.nextTxn := rfl
@[simp] theorem Dev.modCore_out (d : Dev) (c : Nat) (f : Core → Core) : (d.modCore c f).out = d.out := rfl
@[simp] theorem Dev.modCore_regs (d : Dev) (c : Nat) (f : Core → Core) : (d.modCore c f).regs = d.regs := rfl
@[simp] theorem Dev.modCore_gws (d : Dev) (c : Nat) (f : Core → Core) : (d.modCore c f).gws = d.gws := rfl
@[simp] theorem Dev.modCore_routers (d : Dev) (c : Nat) (f : Core → Core) : (d.modCore c f).routers = d.routers := rfl
@[simp] theorem Dev.modCore_mems (d : Dev) (c : Nat) (f : Core → Core) : (d.modCore c f).mems = d.mems := rfl
@[simp] theorem Dev.modCore_ports (d : Dev) (c : Nat) (f : Core → Core) : (d.modCore c f).ports = d.ports := rfl
@[simp] theorem Dev.modCore_mem (d : Dev) (c : Nat) (f : Core → Core) : (d.modCore c f).mem = d.mem := rfl
@[simp] theorem Dev.modCore_memErr (d : Dev) (c : Nat) (f : Core → Core) : (d.modCore c f).memErr = d.memErr := rfl
@[simp] theorem Dev.modCore_memFold (d : Dev) (c : Nat) (f : Core → Core) : (d.modCore c f).memFold = d.memFold := rfl
@[simp] theorem Dev.modCore_memReach (d : Dev) (c : Nat) (f : Core → Core) : (d.modCore c f).memReach = d.memReach := rfl
@[simp] theorem Dev.modCore_w1c (d : Dev) (c : Nat) (f : Core → Core) : (d.modCore c f).w1c = d.w1c := rfl
@[simp] theorem Dev.modCore_arrived (d : Dev) (c : Nat) (f : Core → Core) : (d.modCore c f).arrived = d.arrived := rfl
@[simp] theorem Dev.modCore_sendq (d : Dev) (c : Nat) (f : Core → Core) : (d.modCore c f).sendq = d.sendq := rfl
@[simp] theorem Dev.modCore_map (d : Dev) (c : Nat) (f : Core → Core) : (d.modCore c f).map = d.map := rfl
@[simp] theorem Dev.modCore_step (d : Dev) (c : Nat) (f : Core → Core) : (d.modCore c f).step = d.step := rfl
@[simp] theorem Dev.modCore_heal (d : Dev) (c : Nat) (f : Core → Core) : (d.modCore c f).heal = d.heal := rfl
@[simp] theorem Dev.modCore_cob (d : Dev) (c : Nat) (f : Core → Core) : (d.modCore c f).cob = d.cob := rfl
@[simp] theorem Dev.modCore_host (d : Dev) (c : Nat) (f : Core → Core) : (d.modCore c f).host = d.host := rfl
@[simp] theorem Dev.modCore_cks (d : Dev) (c : Nat) (f : Core → Core) : (d.modCore c f).cks = d.cks := rfl
@[simp] theorem Dev.modCore_weir (d : Dev) (c : Nat) (f : Core → Core) : (d.modCore c f).weir = d.weir := rfl
@[simp] theorem Dev.modCore_power (d : Dev) (c : Nat) (f : Core → Core) : (d.modCore c f).power = d.power := rfl

@[simp] theorem Dev.modLog_now (d : Dev) (c : Nat) (f : LCore → LCore) : (d.modLog c f).now = d.now := rfl
@[simp] theorem Dev.modLog_slew (d : Dev) (c : Nat) (f : LCore → LCore) : (d.modLog c f).slew = d.slew := rfl
@[simp] theorem Dev.modLog_phase (d : Dev) (c : Nat) (f : LCore → LCore) : (d.modLog c f).phase = d.phase := rfl
@[simp] theorem Dev.modLog_fresh (d : Dev) (c : Nat) (f : LCore → LCore) : (d.modLog c f).fresh = d.fresh := rfl
@[simp] theorem Dev.modLog_nextTxn (d : Dev) (c : Nat) (f : LCore → LCore) : (d.modLog c f).nextTxn = d.nextTxn := rfl
@[simp] theorem Dev.modLog_out (d : Dev) (c : Nat) (f : LCore → LCore) : (d.modLog c f).out = d.out := rfl
@[simp] theorem Dev.modLog_regs (d : Dev) (c : Nat) (f : LCore → LCore) : (d.modLog c f).regs = d.regs := rfl
@[simp] theorem Dev.modLog_gws (d : Dev) (c : Nat) (f : LCore → LCore) : (d.modLog c f).gws = d.gws := rfl
@[simp] theorem Dev.modLog_routers (d : Dev) (c : Nat) (f : LCore → LCore) : (d.modLog c f).routers = d.routers := rfl
@[simp] theorem Dev.modLog_mems (d : Dev) (c : Nat) (f : LCore → LCore) : (d.modLog c f).mems = d.mems := rfl
@[simp] theorem Dev.modLog_ports (d : Dev) (c : Nat) (f : LCore → LCore) : (d.modLog c f).ports = d.ports := rfl
@[simp] theorem Dev.modLog_mem (d : Dev) (c : Nat) (f : LCore → LCore) : (d.modLog c f).mem = d.mem := rfl
@[simp] theorem Dev.modLog_memErr (d : Dev) (c : Nat) (f : LCore → LCore) : (d.modLog c f).memErr = d.memErr := rfl
@[simp] theorem Dev.modLog_memFold (d : Dev) (c : Nat) (f : LCore → LCore) : (d.modLog c f).memFold = d.memFold := rfl
@[simp] theorem Dev.modLog_memReach (d : Dev) (c : Nat) (f : LCore → LCore) : (d.modLog c f).memReach = d.memReach := rfl
@[simp] theorem Dev.modLog_w1c (d : Dev) (c : Nat) (f : LCore → LCore) : (d.modLog c f).w1c = d.w1c := rfl
@[simp] theorem Dev.modLog_arrived (d : Dev) (c : Nat) (f : LCore → LCore) : (d.modLog c f).arrived = d.arrived := rfl
@[simp] theorem Dev.modLog_sendq (d : Dev) (c : Nat) (f : LCore → LCore) : (d.modLog c f).sendq = d.sendq := rfl
@[simp] theorem Dev.modLog_map (d : Dev) (c : Nat) (f : LCore → LCore) : (d.modLog c f).map = d.map := rfl
@[simp] theorem Dev.modLog_step (d : Dev) (c : Nat) (f : LCore → LCore) : (d.modLog c f).step = d.step := rfl
@[simp] theorem Dev.modLog_heal (d : Dev) (c : Nat) (f : LCore → LCore) : (d.modLog c f).heal = d.heal := rfl
@[simp] theorem Dev.modLog_cob (d : Dev) (c : Nat) (f : LCore → LCore) : (d.modLog c f).cob = d.cob := rfl
@[simp] theorem Dev.modLog_host (d : Dev) (c : Nat) (f : LCore → LCore) : (d.modLog c f).host = d.host := rfl
@[simp] theorem Dev.modLog_cks (d : Dev) (c : Nat) (f : LCore → LCore) : (d.modLog c f).cks = d.cks := rfl
@[simp] theorem Dev.modLog_weir (d : Dev) (c : Nat) (f : LCore → LCore) : (d.modLog c f).weir = d.weir := rfl
@[simp] theorem Dev.modLog_power (d : Dev) (c : Nat) (f : LCore → LCore) : (d.modLog c f).power = d.power := rfl

@[simp] theorem Dev.setGw_now (d : Dev) (r : Nat) (g : Gateway) : (d.setGw r g).now = d.now := rfl
@[simp] theorem Dev.setGw_slew (d : Dev) (r : Nat) (g : Gateway) : (d.setGw r g).slew = d.slew := rfl
@[simp] theorem Dev.setGw_phase (d : Dev) (r : Nat) (g : Gateway) : (d.setGw r g).phase = d.phase := rfl
@[simp] theorem Dev.setGw_fresh (d : Dev) (r : Nat) (g : Gateway) : (d.setGw r g).fresh = d.fresh := rfl
@[simp] theorem Dev.setGw_nextTxn (d : Dev) (r : Nat) (g : Gateway) : (d.setGw r g).nextTxn = d.nextTxn := rfl
@[simp] theorem Dev.setGw_out (d : Dev) (r : Nat) (g : Gateway) : (d.setGw r g).out = d.out := rfl
@[simp] theorem Dev.setGw_regs (d : Dev) (r : Nat) (g : Gateway) : (d.setGw r g).regs = d.regs := rfl
@[simp] theorem Dev.setGw_cores (d : Dev) (r : Nat) (g : Gateway) : (d.setGw r g).cores = d.cores := rfl
@[simp] theorem Dev.setGw_routers (d : Dev) (r : Nat) (g : Gateway) : (d.setGw r g).routers = d.routers := rfl
@[simp] theorem Dev.setGw_mems (d : Dev) (r : Nat) (g : Gateway) : (d.setGw r g).mems = d.mems := rfl
@[simp] theorem Dev.setGw_ports (d : Dev) (r : Nat) (g : Gateway) : (d.setGw r g).ports = d.ports := rfl
@[simp] theorem Dev.setGw_mem (d : Dev) (r : Nat) (g : Gateway) : (d.setGw r g).mem = d.mem := rfl
@[simp] theorem Dev.setGw_memErr (d : Dev) (r : Nat) (g : Gateway) : (d.setGw r g).memErr = d.memErr := rfl
@[simp] theorem Dev.setGw_memFold (d : Dev) (r : Nat) (g : Gateway) : (d.setGw r g).memFold = d.memFold := rfl
@[simp] theorem Dev.setGw_memReach (d : Dev) (r : Nat) (g : Gateway) : (d.setGw r g).memReach = d.memReach := rfl
@[simp] theorem Dev.setGw_w1c (d : Dev) (r : Nat) (g : Gateway) : (d.setGw r g).w1c = d.w1c := rfl
@[simp] theorem Dev.setGw_arrived (d : Dev) (r : Nat) (g : Gateway) : (d.setGw r g).arrived = d.arrived := rfl
@[simp] theorem Dev.setGw_sendq (d : Dev) (r : Nat) (g : Gateway) : (d.setGw r g).sendq = d.sendq := rfl
@[simp] theorem Dev.setGw_map (d : Dev) (r : Nat) (g : Gateway) : (d.setGw r g).map = d.map := rfl
@[simp] theorem Dev.setGw_step (d : Dev) (r : Nat) (g : Gateway) : (d.setGw r g).step = d.step := rfl
@[simp] theorem Dev.setGw_heal (d : Dev) (r : Nat) (g : Gateway) : (d.setGw r g).heal = d.heal := rfl
@[simp] theorem Dev.setGw_cob (d : Dev) (r : Nat) (g : Gateway) : (d.setGw r g).cob = d.cob := rfl
@[simp] theorem Dev.setGw_host (d : Dev) (r : Nat) (g : Gateway) : (d.setGw r g).host = d.host := rfl
@[simp] theorem Dev.setGw_cks (d : Dev) (r : Nat) (g : Gateway) : (d.setGw r g).cks = d.cks := rfl
@[simp] theorem Dev.setGw_weir (d : Dev) (r : Nat) (g : Gateway) : (d.setGw r g).weir = d.weir := rfl
@[simp] theorem Dev.setGw_power (d : Dev) (r : Nat) (g : Gateway) : (d.setGw r g).power = d.power := rfl

@[simp] theorem Dev.setRouter_now (d : Dev) (r : Nat) (x : Router) : (d.setRouter r x).now = d.now := rfl
@[simp] theorem Dev.setRouter_slew (d : Dev) (r : Nat) (x : Router) : (d.setRouter r x).slew = d.slew := rfl
@[simp] theorem Dev.setRouter_phase (d : Dev) (r : Nat) (x : Router) : (d.setRouter r x).phase = d.phase := rfl
@[simp] theorem Dev.setRouter_fresh (d : Dev) (r : Nat) (x : Router) : (d.setRouter r x).fresh = d.fresh := rfl
@[simp] theorem Dev.setRouter_nextTxn (d : Dev) (r : Nat) (x : Router) : (d.setRouter r x).nextTxn = d.nextTxn := rfl
@[simp] theorem Dev.setRouter_out (d : Dev) (r : Nat) (x : Router) : (d.setRouter r x).out = d.out := rfl
@[simp] theorem Dev.setRouter_regs (d : Dev) (r : Nat) (x : Router) : (d.setRouter r x).regs = d.regs := rfl
@[simp] theorem Dev.setRouter_cores (d : Dev) (r : Nat) (x : Router) : (d.setRouter r x).cores = d.cores := rfl
@[simp] theorem Dev.setRouter_gws (d : Dev) (r : Nat) (x : Router) : (d.setRouter r x).gws = d.gws := rfl
@[simp] theorem Dev.setRouter_mems (d : Dev) (r : Nat) (x : Router) : (d.setRouter r x).mems = d.mems := rfl
@[simp] theorem Dev.setRouter_ports (d : Dev) (r : Nat) (x : Router) : (d.setRouter r x).ports = d.ports := rfl
@[simp] theorem Dev.setRouter_mem (d : Dev) (r : Nat) (x : Router) : (d.setRouter r x).mem = d.mem := rfl
@[simp] theorem Dev.setRouter_memErr (d : Dev) (r : Nat) (x : Router) : (d.setRouter r x).memErr = d.memErr := rfl
@[simp] theorem Dev.setRouter_memFold (d : Dev) (r : Nat) (x : Router) : (d.setRouter r x).memFold = d.memFold := rfl
@[simp] theorem Dev.setRouter_memReach (d : Dev) (r : Nat) (x : Router) : (d.setRouter r x).memReach = d.memReach := rfl
@[simp] theorem Dev.setRouter_w1c (d : Dev) (r : Nat) (x : Router) : (d.setRouter r x).w1c = d.w1c := rfl
@[simp] theorem Dev.setRouter_arrived (d : Dev) (r : Nat) (x : Router) : (d.setRouter r x).arrived = d.arrived := rfl
@[simp] theorem Dev.setRouter_sendq (d : Dev) (r : Nat) (x : Router) : (d.setRouter r x).sendq = d.sendq := rfl
@[simp] theorem Dev.setRouter_map (d : Dev) (r : Nat) (x : Router) : (d.setRouter r x).map = d.map := rfl
@[simp] theorem Dev.setRouter_step (d : Dev) (r : Nat) (x : Router) : (d.setRouter r x).step = d.step := rfl
@[simp] theorem Dev.setRouter_heal (d : Dev) (r : Nat) (x : Router) : (d.setRouter r x).heal = d.heal := rfl
@[simp] theorem Dev.setRouter_cob (d : Dev) (r : Nat) (x : Router) : (d.setRouter r x).cob = d.cob := rfl
@[simp] theorem Dev.setRouter_host (d : Dev) (r : Nat) (x : Router) : (d.setRouter r x).host = d.host := rfl
@[simp] theorem Dev.setRouter_cks (d : Dev) (r : Nat) (x : Router) : (d.setRouter r x).cks = d.cks := rfl
@[simp] theorem Dev.setRouter_weir (d : Dev) (r : Nat) (x : Router) : (d.setRouter r x).weir = d.weir := rfl
@[simp] theorem Dev.setRouter_power (d : Dev) (r : Nat) (x : Router) : (d.setRouter r x).power = d.power := rfl

@[simp] theorem Dev.setMemc_now (d : Dev) (k : Nat) (m : MemCtl) : (d.setMemc k m).now = d.now := rfl
@[simp] theorem Dev.setMemc_slew (d : Dev) (k : Nat) (m : MemCtl) : (d.setMemc k m).slew = d.slew := rfl
@[simp] theorem Dev.setMemc_phase (d : Dev) (k : Nat) (m : MemCtl) : (d.setMemc k m).phase = d.phase := rfl
@[simp] theorem Dev.setMemc_fresh (d : Dev) (k : Nat) (m : MemCtl) : (d.setMemc k m).fresh = d.fresh := rfl
@[simp] theorem Dev.setMemc_nextTxn (d : Dev) (k : Nat) (m : MemCtl) : (d.setMemc k m).nextTxn = d.nextTxn := rfl
@[simp] theorem Dev.setMemc_out (d : Dev) (k : Nat) (m : MemCtl) : (d.setMemc k m).out = d.out := rfl
@[simp] theorem Dev.setMemc_regs (d : Dev) (k : Nat) (m : MemCtl) : (d.setMemc k m).regs = d.regs := rfl
@[simp] theorem Dev.setMemc_cores (d : Dev) (k : Nat) (m : MemCtl) : (d.setMemc k m).cores = d.cores := rfl
@[simp] theorem Dev.setMemc_gws (d : Dev) (k : Nat) (m : MemCtl) : (d.setMemc k m).gws = d.gws := rfl
@[simp] theorem Dev.setMemc_routers (d : Dev) (k : Nat) (m : MemCtl) : (d.setMemc k m).routers = d.routers := rfl
@[simp] theorem Dev.setMemc_ports (d : Dev) (k : Nat) (m : MemCtl) : (d.setMemc k m).ports = d.ports := rfl
@[simp] theorem Dev.setMemc_mem (d : Dev) (k : Nat) (m : MemCtl) : (d.setMemc k m).mem = d.mem := rfl
@[simp] theorem Dev.setMemc_memErr (d : Dev) (k : Nat) (m : MemCtl) : (d.setMemc k m).memErr = d.memErr := rfl
@[simp] theorem Dev.setMemc_memFold (d : Dev) (k : Nat) (m : MemCtl) : (d.setMemc k m).memFold = d.memFold := rfl
@[simp] theorem Dev.setMemc_memReach (d : Dev) (k : Nat) (m : MemCtl) : (d.setMemc k m).memReach = d.memReach := rfl
@[simp] theorem Dev.setMemc_w1c (d : Dev) (k : Nat) (m : MemCtl) : (d.setMemc k m).w1c = d.w1c := rfl
@[simp] theorem Dev.setMemc_arrived (d : Dev) (k : Nat) (m : MemCtl) : (d.setMemc k m).arrived = d.arrived := rfl
@[simp] theorem Dev.setMemc_sendq (d : Dev) (k : Nat) (m : MemCtl) : (d.setMemc k m).sendq = d.sendq := rfl
@[simp] theorem Dev.setMemc_map (d : Dev) (k : Nat) (m : MemCtl) : (d.setMemc k m).map = d.map := rfl
@[simp] theorem Dev.setMemc_step (d : Dev) (k : Nat) (m : MemCtl) : (d.setMemc k m).step = d.step := rfl
@[simp] theorem Dev.setMemc_heal (d : Dev) (k : Nat) (m : MemCtl) : (d.setMemc k m).heal = d.heal := rfl
@[simp] theorem Dev.setMemc_cob (d : Dev) (k : Nat) (m : MemCtl) : (d.setMemc k m).cob = d.cob := rfl
@[simp] theorem Dev.setMemc_host (d : Dev) (k : Nat) (m : MemCtl) : (d.setMemc k m).host = d.host := rfl
@[simp] theorem Dev.setMemc_cks (d : Dev) (k : Nat) (m : MemCtl) : (d.setMemc k m).cks = d.cks := rfl
@[simp] theorem Dev.setMemc_weir (d : Dev) (k : Nat) (m : MemCtl) : (d.setMemc k m).weir = d.weir := rfl
@[simp] theorem Dev.setMemc_power (d : Dev) (k : Nat) (m : MemCtl) : (d.setMemc k m).power = d.power := rfl

@[simp] theorem Dev.setPort_now (d : Dev) (p : Nat) (x : Port) : (d.setPort p x).now = d.now := rfl
@[simp] theorem Dev.setPort_slew (d : Dev) (p : Nat) (x : Port) : (d.setPort p x).slew = d.slew := rfl
@[simp] theorem Dev.setPort_phase (d : Dev) (p : Nat) (x : Port) : (d.setPort p x).phase = d.phase := rfl
@[simp] theorem Dev.setPort_fresh (d : Dev) (p : Nat) (x : Port) : (d.setPort p x).fresh = d.fresh := rfl
@[simp] theorem Dev.setPort_nextTxn (d : Dev) (p : Nat) (x : Port) : (d.setPort p x).nextTxn = d.nextTxn := rfl
@[simp] theorem Dev.setPort_out (d : Dev) (p : Nat) (x : Port) : (d.setPort p x).out = d.out := rfl
@[simp] theorem Dev.setPort_regs (d : Dev) (p : Nat) (x : Port) : (d.setPort p x).regs = d.regs := rfl
@[simp] theorem Dev.setPort_cores (d : Dev) (p : Nat) (x : Port) : (d.setPort p x).cores = d.cores := rfl
@[simp] theorem Dev.setPort_gws (d : Dev) (p : Nat) (x : Port) : (d.setPort p x).gws = d.gws := rfl
@[simp] theorem Dev.setPort_routers (d : Dev) (p : Nat) (x : Port) : (d.setPort p x).routers = d.routers := rfl
@[simp] theorem Dev.setPort_mems (d : Dev) (p : Nat) (x : Port) : (d.setPort p x).mems = d.mems := rfl
@[simp] theorem Dev.setPort_mem (d : Dev) (p : Nat) (x : Port) : (d.setPort p x).mem = d.mem := rfl
@[simp] theorem Dev.setPort_memErr (d : Dev) (p : Nat) (x : Port) : (d.setPort p x).memErr = d.memErr := rfl
@[simp] theorem Dev.setPort_memFold (d : Dev) (p : Nat) (x : Port) : (d.setPort p x).memFold = d.memFold := rfl
@[simp] theorem Dev.setPort_memReach (d : Dev) (p : Nat) (x : Port) : (d.setPort p x).memReach = d.memReach := rfl
@[simp] theorem Dev.setPort_w1c (d : Dev) (p : Nat) (x : Port) : (d.setPort p x).w1c = d.w1c := rfl
@[simp] theorem Dev.setPort_arrived (d : Dev) (p : Nat) (x : Port) : (d.setPort p x).arrived = d.arrived := rfl
@[simp] theorem Dev.setPort_sendq (d : Dev) (p : Nat) (x : Port) : (d.setPort p x).sendq = d.sendq := rfl
@[simp] theorem Dev.setPort_map (d : Dev) (p : Nat) (x : Port) : (d.setPort p x).map = d.map := rfl
@[simp] theorem Dev.setPort_step (d : Dev) (p : Nat) (x : Port) : (d.setPort p x).step = d.step := rfl
@[simp] theorem Dev.setPort_heal (d : Dev) (p : Nat) (x : Port) : (d.setPort p x).heal = d.heal := rfl
@[simp] theorem Dev.setPort_cob (d : Dev) (p : Nat) (x : Port) : (d.setPort p x).cob = d.cob := rfl
@[simp] theorem Dev.setPort_host (d : Dev) (p : Nat) (x : Port) : (d.setPort p x).host = d.host := rfl
@[simp] theorem Dev.setPort_cks (d : Dev) (p : Nat) (x : Port) : (d.setPort p x).cks = d.cks := rfl
@[simp] theorem Dev.setPort_weir (d : Dev) (p : Nat) (x : Port) : (d.setPort p x).weir = d.weir := rfl
@[simp] theorem Dev.setPort_power (d : Dev) (p : Nat) (x : Port) : (d.setPort p x).power = d.power := rfl

@[simp] theorem Dev.emit_now (d : Dev) (o : Out) : (d.emit o).now = d.now := rfl
@[simp] theorem Dev.emit_slew (d : Dev) (o : Out) : (d.emit o).slew = d.slew := rfl
@[simp] theorem Dev.emit_phase (d : Dev) (o : Out) : (d.emit o).phase = d.phase := rfl
@[simp] theorem Dev.emit_fresh (d : Dev) (o : Out) : (d.emit o).fresh = d.fresh := rfl
@[simp] theorem Dev.emit_nextTxn (d : Dev) (o : Out) : (d.emit o).nextTxn = d.nextTxn := rfl
@[simp] theorem Dev.emit_regs (d : Dev) (o : Out) : (d.emit o).regs = d.regs := rfl
@[simp] theorem Dev.emit_cores (d : Dev) (o : Out) : (d.emit o).cores = d.cores := rfl
@[simp] theorem Dev.emit_gws (d : Dev) (o : Out) : (d.emit o).gws = d.gws := rfl
@[simp] theorem Dev.emit_routers (d : Dev) (o : Out) : (d.emit o).routers = d.routers := rfl
@[simp] theorem Dev.emit_mems (d : Dev) (o : Out) : (d.emit o).mems = d.mems := rfl
@[simp] theorem Dev.emit_ports (d : Dev) (o : Out) : (d.emit o).ports = d.ports := rfl
@[simp] theorem Dev.emit_mem (d : Dev) (o : Out) : (d.emit o).mem = d.mem := rfl
@[simp] theorem Dev.emit_memErr (d : Dev) (o : Out) : (d.emit o).memErr = d.memErr := rfl
@[simp] theorem Dev.emit_memFold (d : Dev) (o : Out) : (d.emit o).memFold = d.memFold := rfl
@[simp] theorem Dev.emit_memReach (d : Dev) (o : Out) : (d.emit o).memReach = d.memReach := rfl
@[simp] theorem Dev.emit_w1c (d : Dev) (o : Out) : (d.emit o).w1c = d.w1c := rfl
@[simp] theorem Dev.emit_arrived (d : Dev) (o : Out) : (d.emit o).arrived = d.arrived := rfl
@[simp] theorem Dev.emit_sendq (d : Dev) (o : Out) : (d.emit o).sendq = d.sendq := rfl
@[simp] theorem Dev.emit_map (d : Dev) (o : Out) : (d.emit o).map = d.map := rfl
@[simp] theorem Dev.emit_step (d : Dev) (o : Out) : (d.emit o).step = d.step := rfl
@[simp] theorem Dev.emit_heal (d : Dev) (o : Out) : (d.emit o).heal = d.heal := rfl
@[simp] theorem Dev.emit_cob (d : Dev) (o : Out) : (d.emit o).cob = d.cob := rfl
@[simp] theorem Dev.emit_host (d : Dev) (o : Out) : (d.emit o).host = d.host := rfl
@[simp] theorem Dev.emit_cks (d : Dev) (o : Out) : (d.emit o).cks = d.cks := rfl
@[simp] theorem Dev.emit_weir (d : Dev) (o : Out) : (d.emit o).weir = d.weir := rfl
@[simp] theorem Dev.emit_power (d : Dev) (o : Out) : (d.emit o).power = d.power := rfl

@[simp] theorem Dev.event_now (d : Dev) (e : Event) : (d.event e).now = d.now := rfl
@[simp] theorem Dev.event_slew (d : Dev) (e : Event) : (d.event e).slew = d.slew := rfl
@[simp] theorem Dev.event_phase (d : Dev) (e : Event) : (d.event e).phase = d.phase := rfl
@[simp] theorem Dev.event_fresh (d : Dev) (e : Event) : (d.event e).fresh = d.fresh := rfl
@[simp] theorem Dev.event_nextTxn (d : Dev) (e : Event) : (d.event e).nextTxn = d.nextTxn := rfl
@[simp] theorem Dev.event_out (d : Dev) (e : Event) : (d.event e).out = d.out := rfl
@[simp] theorem Dev.event_regs (d : Dev) (e : Event) : (d.event e).regs = d.regs := rfl
@[simp] theorem Dev.event_cores (d : Dev) (e : Event) : (d.event e).cores = d.cores := rfl
@[simp] theorem Dev.event_gws (d : Dev) (e : Event) : (d.event e).gws = d.gws := rfl
@[simp] theorem Dev.event_routers (d : Dev) (e : Event) : (d.event e).routers = d.routers := rfl
@[simp] theorem Dev.event_mems (d : Dev) (e : Event) : (d.event e).mems = d.mems := rfl
@[simp] theorem Dev.event_ports (d : Dev) (e : Event) : (d.event e).ports = d.ports := rfl
@[simp] theorem Dev.event_mem (d : Dev) (e : Event) : (d.event e).mem = d.mem := rfl
@[simp] theorem Dev.event_memErr (d : Dev) (e : Event) : (d.event e).memErr = d.memErr := rfl
@[simp] theorem Dev.event_memFold (d : Dev) (e : Event) : (d.event e).memFold = d.memFold := rfl
@[simp] theorem Dev.event_memReach (d : Dev) (e : Event) : (d.event e).memReach = d.memReach := rfl
@[simp] theorem Dev.event_w1c (d : Dev) (e : Event) : (d.event e).w1c = d.w1c := rfl
@[simp] theorem Dev.event_arrived (d : Dev) (e : Event) : (d.event e).arrived = d.arrived := rfl
@[simp] theorem Dev.event_sendq (d : Dev) (e : Event) : (d.event e).sendq = d.sendq := rfl
@[simp] theorem Dev.event_map (d : Dev) (e : Event) : (d.event e).map = d.map := rfl
@[simp] theorem Dev.event_step (d : Dev) (e : Event) : (d.event e).step = d.step := rfl
@[simp] theorem Dev.event_heal (d : Dev) (e : Event) : (d.event e).heal = d.heal := rfl
@[simp] theorem Dev.event_host (d : Dev) (e : Event) : (d.event e).host = d.host := rfl
@[simp] theorem Dev.event_cks (d : Dev) (e : Event) : (d.event e).cks = d.cks := rfl
@[simp] theorem Dev.event_weir (d : Dev) (e : Event) : (d.event e).weir = d.weir := rfl
@[simp] theorem Dev.event_power (d : Dev) (e : Event) : (d.event e).power = d.power := rfl

@[simp] theorem Dev.alert_now (d : Dev) (i : Nat) : (d.alert i).now = d.now := rfl
@[simp] theorem Dev.alert_slew (d : Dev) (i : Nat) : (d.alert i).slew = d.slew := rfl
@[simp] theorem Dev.alert_phase (d : Dev) (i : Nat) : (d.alert i).phase = d.phase := rfl
@[simp] theorem Dev.alert_fresh (d : Dev) (i : Nat) : (d.alert i).fresh = d.fresh := rfl
@[simp] theorem Dev.alert_nextTxn (d : Dev) (i : Nat) : (d.alert i).nextTxn = d.nextTxn := rfl
@[simp] theorem Dev.alert_out (d : Dev) (i : Nat) : (d.alert i).out = d.out := rfl
@[simp] theorem Dev.alert_regs (d : Dev) (i : Nat) : (d.alert i).regs = d.regs := rfl
@[simp] theorem Dev.alert_cores (d : Dev) (i : Nat) : (d.alert i).cores = d.cores := rfl
@[simp] theorem Dev.alert_gws (d : Dev) (i : Nat) : (d.alert i).gws = d.gws := rfl
@[simp] theorem Dev.alert_routers (d : Dev) (i : Nat) : (d.alert i).routers = d.routers := rfl
@[simp] theorem Dev.alert_mems (d : Dev) (i : Nat) : (d.alert i).mems = d.mems := rfl
@[simp] theorem Dev.alert_ports (d : Dev) (i : Nat) : (d.alert i).ports = d.ports := rfl
@[simp] theorem Dev.alert_mem (d : Dev) (i : Nat) : (d.alert i).mem = d.mem := rfl
@[simp] theorem Dev.alert_memErr (d : Dev) (i : Nat) : (d.alert i).memErr = d.memErr := rfl
@[simp] theorem Dev.alert_memFold (d : Dev) (i : Nat) : (d.alert i).memFold = d.memFold := rfl
@[simp] theorem Dev.alert_memReach (d : Dev) (i : Nat) : (d.alert i).memReach = d.memReach := rfl
@[simp] theorem Dev.alert_w1c (d : Dev) (i : Nat) : (d.alert i).w1c = d.w1c := rfl
@[simp] theorem Dev.alert_arrived (d : Dev) (i : Nat) : (d.alert i).arrived = d.arrived := rfl
@[simp] theorem Dev.alert_sendq (d : Dev) (i : Nat) : (d.alert i).sendq = d.sendq := rfl
@[simp] theorem Dev.alert_map (d : Dev) (i : Nat) : (d.alert i).map = d.map := rfl
@[simp] theorem Dev.alert_step (d : Dev) (i : Nat) : (d.alert i).step = d.step := rfl
@[simp] theorem Dev.alert_heal (d : Dev) (i : Nat) : (d.alert i).heal = d.heal := rfl
@[simp] theorem Dev.alert_cob (d : Dev) (i : Nat) : (d.alert i).cob = d.cob := rfl
@[simp] theorem Dev.alert_host (d : Dev) (i : Nat) : (d.alert i).host = d.host := rfl
@[simp] theorem Dev.alert_cks (d : Dev) (i : Nat) : (d.alert i).cks = d.cks := rfl
@[simp] theorem Dev.alert_weir (d : Dev) (i : Nat) : (d.alert i).weir = d.weir := rfl

@[simp] theorem Dev.enqueue_now (d : Dev) (r port : Nat) (p : Packet) : (d.enqueue r port p).now = d.now := rfl
@[simp] theorem Dev.enqueue_slew (d : Dev) (r port : Nat) (p : Packet) : (d.enqueue r port p).slew = d.slew := rfl
@[simp] theorem Dev.enqueue_phase (d : Dev) (r port : Nat) (p : Packet) : (d.enqueue r port p).phase = d.phase := rfl
@[simp] theorem Dev.enqueue_fresh (d : Dev) (r port : Nat) (p : Packet) : (d.enqueue r port p).fresh = d.fresh := rfl
@[simp] theorem Dev.enqueue_nextTxn (d : Dev) (r port : Nat) (p : Packet) : (d.enqueue r port p).nextTxn = d.nextTxn := rfl
@[simp] theorem Dev.enqueue_out (d : Dev) (r port : Nat) (p : Packet) : (d.enqueue r port p).out = d.out := rfl
@[simp] theorem Dev.enqueue_regs (d : Dev) (r port : Nat) (p : Packet) : (d.enqueue r port p).regs = d.regs := rfl
@[simp] theorem Dev.enqueue_cores (d : Dev) (r port : Nat) (p : Packet) : (d.enqueue r port p).cores = d.cores := rfl
@[simp] theorem Dev.enqueue_gws (d : Dev) (r port : Nat) (p : Packet) : (d.enqueue r port p).gws = d.gws := rfl
@[simp] theorem Dev.enqueue_mems (d : Dev) (r port : Nat) (p : Packet) : (d.enqueue r port p).mems = d.mems := rfl
@[simp] theorem Dev.enqueue_ports (d : Dev) (r port : Nat) (p : Packet) : (d.enqueue r port p).ports = d.ports := rfl
@[simp] theorem Dev.enqueue_mem (d : Dev) (r port : Nat) (p : Packet) : (d.enqueue r port p).mem = d.mem := rfl
@[simp] theorem Dev.enqueue_memErr (d : Dev) (r port : Nat) (p : Packet) : (d.enqueue r port p).memErr = d.memErr := rfl
@[simp] theorem Dev.enqueue_memFold (d : Dev) (r port : Nat) (p : Packet) : (d.enqueue r port p).memFold = d.memFold := rfl
@[simp] theorem Dev.enqueue_memReach (d : Dev) (r port : Nat) (p : Packet) : (d.enqueue r port p).memReach = d.memReach := rfl
@[simp] theorem Dev.enqueue_w1c (d : Dev) (r port : Nat) (p : Packet) : (d.enqueue r port p).w1c = d.w1c := rfl
@[simp] theorem Dev.enqueue_arrived (d : Dev) (r port : Nat) (p : Packet) : (d.enqueue r port p).arrived = d.arrived := rfl
@[simp] theorem Dev.enqueue_sendq (d : Dev) (r port : Nat) (p : Packet) : (d.enqueue r port p).sendq = d.sendq := rfl
@[simp] theorem Dev.enqueue_map (d : Dev) (r port : Nat) (p : Packet) : (d.enqueue r port p).map = d.map := rfl
@[simp] theorem Dev.enqueue_step (d : Dev) (r port : Nat) (p : Packet) : (d.enqueue r port p).step = d.step := rfl
@[simp] theorem Dev.enqueue_heal (d : Dev) (r port : Nat) (p : Packet) : (d.enqueue r port p).heal = d.heal := rfl
@[simp] theorem Dev.enqueue_cob (d : Dev) (r port : Nat) (p : Packet) : (d.enqueue r port p).cob = d.cob := rfl
@[simp] theorem Dev.enqueue_host (d : Dev) (r port : Nat) (p : Packet) : (d.enqueue r port p).host = d.host := rfl
@[simp] theorem Dev.enqueue_cks (d : Dev) (r port : Nat) (p : Packet) : (d.enqueue r port p).cks = d.cks := rfl
@[simp] theorem Dev.enqueue_weir (d : Dev) (r port : Nat) (p : Packet) : (d.enqueue r port p).weir = d.weir := rfl
@[simp] theorem Dev.enqueue_power (d : Dev) (r port : Nat) (p : Packet) : (d.enqueue r port p).power = d.power := rfl

@[simp] theorem Dev.markW1c_now (d : Dev) (o lo m : Nat) : (d.markW1c o lo m).now = d.now := rfl
@[simp] theorem Dev.markW1c_slew (d : Dev) (o lo m : Nat) : (d.markW1c o lo m).slew = d.slew := rfl
@[simp] theorem Dev.markW1c_phase (d : Dev) (o lo m : Nat) : (d.markW1c o lo m).phase = d.phase := rfl
@[simp] theorem Dev.markW1c_fresh (d : Dev) (o lo m : Nat) : (d.markW1c o lo m).fresh = d.fresh := rfl
@[simp] theorem Dev.markW1c_nextTxn (d : Dev) (o lo m : Nat) : (d.markW1c o lo m).nextTxn = d.nextTxn := rfl
@[simp] theorem Dev.markW1c_out (d : Dev) (o lo m : Nat) : (d.markW1c o lo m).out = d.out := rfl
@[simp] theorem Dev.markW1c_regs (d : Dev) (o lo m : Nat) : (d.markW1c o lo m).regs = d.regs := rfl
@[simp] theorem Dev.markW1c_cores (d : Dev) (o lo m : Nat) : (d.markW1c o lo m).cores = d.cores := rfl
@[simp] theorem Dev.markW1c_gws (d : Dev) (o lo m : Nat) : (d.markW1c o lo m).gws = d.gws := rfl
@[simp] theorem Dev.markW1c_routers (d : Dev) (o lo m : Nat) : (d.markW1c o lo m).routers = d.routers := rfl
@[simp] theorem Dev.markW1c_mems (d : Dev) (o lo m : Nat) : (d.markW1c o lo m).mems = d.mems := rfl
@[simp] theorem Dev.markW1c_ports (d : Dev) (o lo m : Nat) : (d.markW1c o lo m).ports = d.ports := rfl
@[simp] theorem Dev.markW1c_mem (d : Dev) (o lo m : Nat) : (d.markW1c o lo m).mem = d.mem := rfl
@[simp] theorem Dev.markW1c_memErr (d : Dev) (o lo m : Nat) : (d.markW1c o lo m).memErr = d.memErr := rfl
@[simp] theorem Dev.markW1c_memFold (d : Dev) (o lo m : Nat) : (d.markW1c o lo m).memFold = d.memFold := rfl
@[simp] theorem Dev.markW1c_memReach (d : Dev) (o lo m : Nat) : (d.markW1c o lo m).memReach = d.memReach := rfl
@[simp] theorem Dev.markW1c_arrived (d : Dev) (o lo m : Nat) : (d.markW1c o lo m).arrived = d.arrived := rfl
@[simp] theorem Dev.markW1c_sendq (d : Dev) (o lo m : Nat) : (d.markW1c o lo m).sendq = d.sendq := rfl
@[simp] theorem Dev.markW1c_map (d : Dev) (o lo m : Nat) : (d.markW1c o lo m).map = d.map := rfl
@[simp] theorem Dev.markW1c_step (d : Dev) (o lo m : Nat) : (d.markW1c o lo m).step = d.step := rfl
@[simp] theorem Dev.markW1c_heal (d : Dev) (o lo m : Nat) : (d.markW1c o lo m).heal = d.heal := rfl
@[simp] theorem Dev.markW1c_cob (d : Dev) (o lo m : Nat) : (d.markW1c o lo m).cob = d.cob := rfl
@[simp] theorem Dev.markW1c_host (d : Dev) (o lo m : Nat) : (d.markW1c o lo m).host = d.host := rfl
@[simp] theorem Dev.markW1c_cks (d : Dev) (o lo m : Nat) : (d.markW1c o lo m).cks = d.cks := rfl
@[simp] theorem Dev.markW1c_weir (d : Dev) (o lo m : Nat) : (d.markW1c o lo m).weir = d.weir := rfl
@[simp] theorem Dev.markW1c_power (d : Dev) (o lo m : Nat) : (d.markW1c o lo m).power = d.power := rfl

@[simp] theorem Dev.latch_now (d : Dev) (f : Fld) : (d.latch f).now = d.now := rfl
@[simp] theorem Dev.latch_slew (d : Dev) (f : Fld) : (d.latch f).slew = d.slew := rfl
@[simp] theorem Dev.latch_phase (d : Dev) (f : Fld) : (d.latch f).phase = d.phase := rfl
@[simp] theorem Dev.latch_fresh (d : Dev) (f : Fld) : (d.latch f).fresh = d.fresh := rfl
@[simp] theorem Dev.latch_nextTxn (d : Dev) (f : Fld) : (d.latch f).nextTxn = d.nextTxn := rfl
@[simp] theorem Dev.latch_out (d : Dev) (f : Fld) : (d.latch f).out = d.out := rfl
@[simp] theorem Dev.latch_cores (d : Dev) (f : Fld) : (d.latch f).cores = d.cores := rfl
@[simp] theorem Dev.latch_gws (d : Dev) (f : Fld) : (d.latch f).gws = d.gws := rfl
@[simp] theorem Dev.latch_routers (d : Dev) (f : Fld) : (d.latch f).routers = d.routers := rfl
@[simp] theorem Dev.latch_mems (d : Dev) (f : Fld) : (d.latch f).mems = d.mems := rfl
@[simp] theorem Dev.latch_ports (d : Dev) (f : Fld) : (d.latch f).ports = d.ports := rfl
@[simp] theorem Dev.latch_mem (d : Dev) (f : Fld) : (d.latch f).mem = d.mem := rfl
@[simp] theorem Dev.latch_memErr (d : Dev) (f : Fld) : (d.latch f).memErr = d.memErr := rfl
@[simp] theorem Dev.latch_memFold (d : Dev) (f : Fld) : (d.latch f).memFold = d.memFold := rfl
@[simp] theorem Dev.latch_memReach (d : Dev) (f : Fld) : (d.latch f).memReach = d.memReach := rfl
@[simp] theorem Dev.latch_arrived (d : Dev) (f : Fld) : (d.latch f).arrived = d.arrived := rfl
@[simp] theorem Dev.latch_sendq (d : Dev) (f : Fld) : (d.latch f).sendq = d.sendq := rfl
@[simp] theorem Dev.latch_map (d : Dev) (f : Fld) : (d.latch f).map = d.map := rfl
@[simp] theorem Dev.latch_step (d : Dev) (f : Fld) : (d.latch f).step = d.step := rfl
@[simp] theorem Dev.latch_heal (d : Dev) (f : Fld) : (d.latch f).heal = d.heal := rfl
@[simp] theorem Dev.latch_cob (d : Dev) (f : Fld) : (d.latch f).cob = d.cob := rfl
@[simp] theorem Dev.latch_host (d : Dev) (f : Fld) : (d.latch f).host = d.host := rfl
@[simp] theorem Dev.latch_cks (d : Dev) (f : Fld) : (d.latch f).cks = d.cks := rfl
@[simp] theorem Dev.latch_weir (d : Dev) (f : Fld) : (d.latch f).weir = d.weir := rfl
@[simp] theorem Dev.latch_power (d : Dev) (f : Fld) : (d.latch f).power = d.power := rfl

@[simp] theorem Dev.setSend_now (d : Dev) (n vc : Nat) (l : List (Entry × Packet)) : (d.setSend n vc l).now = d.now := rfl
@[simp] theorem Dev.setSend_slew (d : Dev) (n vc : Nat) (l : List (Entry × Packet)) : (d.setSend n vc l).slew = d.slew := rfl
@[simp] theorem Dev.setSend_phase (d : Dev) (n vc : Nat) (l : List (Entry × Packet)) : (d.setSend n vc l).phase = d.phase := rfl
@[simp] theorem Dev.setSend_fresh (d : Dev) (n vc : Nat) (l : List (Entry × Packet)) : (d.setSend n vc l).fresh = d.fresh := rfl
@[simp] theorem Dev.setSend_nextTxn (d : Dev) (n vc : Nat) (l : List (Entry × Packet)) : (d.setSend n vc l).nextTxn = d.nextTxn := rfl
@[simp] theorem Dev.setSend_out (d : Dev) (n vc : Nat) (l : List (Entry × Packet)) : (d.setSend n vc l).out = d.out := rfl
@[simp] theorem Dev.setSend_regs (d : Dev) (n vc : Nat) (l : List (Entry × Packet)) : (d.setSend n vc l).regs = d.regs := rfl
@[simp] theorem Dev.setSend_cores (d : Dev) (n vc : Nat) (l : List (Entry × Packet)) : (d.setSend n vc l).cores = d.cores := rfl
@[simp] theorem Dev.setSend_gws (d : Dev) (n vc : Nat) (l : List (Entry × Packet)) : (d.setSend n vc l).gws = d.gws := rfl
@[simp] theorem Dev.setSend_routers (d : Dev) (n vc : Nat) (l : List (Entry × Packet)) : (d.setSend n vc l).routers = d.routers := rfl
@[simp] theorem Dev.setSend_mems (d : Dev) (n vc : Nat) (l : List (Entry × Packet)) : (d.setSend n vc l).mems = d.mems := rfl
@[simp] theorem Dev.setSend_ports (d : Dev) (n vc : Nat) (l : List (Entry × Packet)) : (d.setSend n vc l).ports = d.ports := rfl
@[simp] theorem Dev.setSend_mem (d : Dev) (n vc : Nat) (l : List (Entry × Packet)) : (d.setSend n vc l).mem = d.mem := rfl
@[simp] theorem Dev.setSend_memErr (d : Dev) (n vc : Nat) (l : List (Entry × Packet)) : (d.setSend n vc l).memErr = d.memErr := rfl
@[simp] theorem Dev.setSend_memFold (d : Dev) (n vc : Nat) (l : List (Entry × Packet)) : (d.setSend n vc l).memFold = d.memFold := rfl
@[simp] theorem Dev.setSend_memReach (d : Dev) (n vc : Nat) (l : List (Entry × Packet)) : (d.setSend n vc l).memReach = d.memReach := rfl
@[simp] theorem Dev.setSend_w1c (d : Dev) (n vc : Nat) (l : List (Entry × Packet)) : (d.setSend n vc l).w1c = d.w1c := rfl
@[simp] theorem Dev.setSend_arrived (d : Dev) (n vc : Nat) (l : List (Entry × Packet)) : (d.setSend n vc l).arrived = d.arrived := rfl
@[simp] theorem Dev.setSend_map (d : Dev) (n vc : Nat) (l : List (Entry × Packet)) : (d.setSend n vc l).map = d.map := rfl
@[simp] theorem Dev.setSend_step (d : Dev) (n vc : Nat) (l : List (Entry × Packet)) : (d.setSend n vc l).step = d.step := rfl
@[simp] theorem Dev.setSend_heal (d : Dev) (n vc : Nat) (l : List (Entry × Packet)) : (d.setSend n vc l).heal = d.heal := rfl
@[simp] theorem Dev.setSend_cob (d : Dev) (n vc : Nat) (l : List (Entry × Packet)) : (d.setSend n vc l).cob = d.cob := rfl
@[simp] theorem Dev.setSend_host (d : Dev) (n vc : Nat) (l : List (Entry × Packet)) : (d.setSend n vc l).host = d.host := rfl
@[simp] theorem Dev.setSend_cks (d : Dev) (n vc : Nat) (l : List (Entry × Packet)) : (d.setSend n vc l).cks = d.cks := rfl
@[simp] theorem Dev.setSend_weir (d : Dev) (n vc : Nat) (l : List (Entry × Packet)) : (d.setSend n vc l).weir = d.weir := rfl
@[simp] theorem Dev.setSend_power (d : Dev) (n vc : Nat) (l : List (Entry × Packet)) : (d.setSend n vc l).power = d.power := rfl

@[simp] theorem Dev.park_now (d : Dev) (n : Nat) (p : Packet) : (d.park n p).now = d.now := rfl
@[simp] theorem Dev.park_slew (d : Dev) (n : Nat) (p : Packet) : (d.park n p).slew = d.slew := rfl
@[simp] theorem Dev.park_phase (d : Dev) (n : Nat) (p : Packet) : (d.park n p).phase = d.phase := rfl
@[simp] theorem Dev.park_fresh (d : Dev) (n : Nat) (p : Packet) : (d.park n p).fresh = d.fresh := rfl
@[simp] theorem Dev.park_nextTxn (d : Dev) (n : Nat) (p : Packet) : (d.park n p).nextTxn = d.nextTxn := rfl
@[simp] theorem Dev.park_out (d : Dev) (n : Nat) (p : Packet) : (d.park n p).out = d.out := rfl
@[simp] theorem Dev.park_regs (d : Dev) (n : Nat) (p : Packet) : (d.park n p).regs = d.regs := rfl
@[simp] theorem Dev.park_cores (d : Dev) (n : Nat) (p : Packet) : (d.park n p).cores = d.cores := rfl
@[simp] theorem Dev.park_gws (d : Dev) (n : Nat) (p : Packet) : (d.park n p).gws = d.gws := rfl
@[simp] theorem Dev.park_routers (d : Dev) (n : Nat) (p : Packet) : (d.park n p).routers = d.routers := rfl
@[simp] theorem Dev.park_mems (d : Dev) (n : Nat) (p : Packet) : (d.park n p).mems = d.mems := rfl
@[simp] theorem Dev.park_ports (d : Dev) (n : Nat) (p : Packet) : (d.park n p).ports = d.ports := rfl
@[simp] theorem Dev.park_mem (d : Dev) (n : Nat) (p : Packet) : (d.park n p).mem = d.mem := rfl
@[simp] theorem Dev.park_memErr (d : Dev) (n : Nat) (p : Packet) : (d.park n p).memErr = d.memErr := rfl
@[simp] theorem Dev.park_memFold (d : Dev) (n : Nat) (p : Packet) : (d.park n p).memFold = d.memFold := rfl
@[simp] theorem Dev.park_memReach (d : Dev) (n : Nat) (p : Packet) : (d.park n p).memReach = d.memReach := rfl
@[simp] theorem Dev.park_w1c (d : Dev) (n : Nat) (p : Packet) : (d.park n p).w1c = d.w1c := rfl
@[simp] theorem Dev.park_sendq (d : Dev) (n : Nat) (p : Packet) : (d.park n p).sendq = d.sendq := rfl
@[simp] theorem Dev.park_map (d : Dev) (n : Nat) (p : Packet) : (d.park n p).map = d.map := rfl
@[simp] theorem Dev.park_step (d : Dev) (n : Nat) (p : Packet) : (d.park n p).step = d.step := rfl
@[simp] theorem Dev.park_heal (d : Dev) (n : Nat) (p : Packet) : (d.park n p).heal = d.heal := rfl
@[simp] theorem Dev.park_cob (d : Dev) (n : Nat) (p : Packet) : (d.park n p).cob = d.cob := rfl
@[simp] theorem Dev.park_host (d : Dev) (n : Nat) (p : Packet) : (d.park n p).host = d.host := rfl
@[simp] theorem Dev.park_cks (d : Dev) (n : Nat) (p : Packet) : (d.park n p).cks = d.cks := rfl
@[simp] theorem Dev.park_weir (d : Dev) (n : Nat) (p : Packet) : (d.park n p).weir = d.weir := rfl
@[simp] theorem Dev.park_power (d : Dev) (n : Nat) (p : Packet) : (d.park n p).power = d.power := rfl

@[simp] theorem Dev.take_now (d : Dev) (n : Nat) (p : Packet) : (d.take n p).now = d.now := rfl
@[simp] theorem Dev.take_slew (d : Dev) (n : Nat) (p : Packet) : (d.take n p).slew = d.slew := rfl
@[simp] theorem Dev.take_phase (d : Dev) (n : Nat) (p : Packet) : (d.take n p).phase = d.phase := rfl
@[simp] theorem Dev.take_fresh (d : Dev) (n : Nat) (p : Packet) : (d.take n p).fresh = d.fresh := rfl
@[simp] theorem Dev.take_nextTxn (d : Dev) (n : Nat) (p : Packet) : (d.take n p).nextTxn = d.nextTxn := rfl
@[simp] theorem Dev.take_out (d : Dev) (n : Nat) (p : Packet) : (d.take n p).out = d.out := rfl
@[simp] theorem Dev.take_regs (d : Dev) (n : Nat) (p : Packet) : (d.take n p).regs = d.regs := rfl
@[simp] theorem Dev.take_cores (d : Dev) (n : Nat) (p : Packet) : (d.take n p).cores = d.cores := rfl
@[simp] theorem Dev.take_gws (d : Dev) (n : Nat) (p : Packet) : (d.take n p).gws = d.gws := rfl
@[simp] theorem Dev.take_routers (d : Dev) (n : Nat) (p : Packet) : (d.take n p).routers = d.routers := rfl
@[simp] theorem Dev.take_mems (d : Dev) (n : Nat) (p : Packet) : (d.take n p).mems = d.mems := rfl
@[simp] theorem Dev.take_ports (d : Dev) (n : Nat) (p : Packet) : (d.take n p).ports = d.ports := rfl
@[simp] theorem Dev.take_mem (d : Dev) (n : Nat) (p : Packet) : (d.take n p).mem = d.mem := rfl
@[simp] theorem Dev.take_memErr (d : Dev) (n : Nat) (p : Packet) : (d.take n p).memErr = d.memErr := rfl
@[simp] theorem Dev.take_memFold (d : Dev) (n : Nat) (p : Packet) : (d.take n p).memFold = d.memFold := rfl
@[simp] theorem Dev.take_memReach (d : Dev) (n : Nat) (p : Packet) : (d.take n p).memReach = d.memReach := rfl
@[simp] theorem Dev.take_w1c (d : Dev) (n : Nat) (p : Packet) : (d.take n p).w1c = d.w1c := rfl
@[simp] theorem Dev.take_sendq (d : Dev) (n : Nat) (p : Packet) : (d.take n p).sendq = d.sendq := rfl
@[simp] theorem Dev.take_map (d : Dev) (n : Nat) (p : Packet) : (d.take n p).map = d.map := rfl
@[simp] theorem Dev.take_step (d : Dev) (n : Nat) (p : Packet) : (d.take n p).step = d.step := rfl
@[simp] theorem Dev.take_heal (d : Dev) (n : Nat) (p : Packet) : (d.take n p).heal = d.heal := rfl
@[simp] theorem Dev.take_cob (d : Dev) (n : Nat) (p : Packet) : (d.take n p).cob = d.cob := rfl
@[simp] theorem Dev.take_host (d : Dev) (n : Nat) (p : Packet) : (d.take n p).host = d.host := rfl
@[simp] theorem Dev.take_cks (d : Dev) (n : Nat) (p : Packet) : (d.take n p).cks = d.cks := rfl
@[simp] theorem Dev.take_weir (d : Dev) (n : Nat) (p : Packet) : (d.take n p).weir = d.weir := rfl
@[simp] theorem Dev.take_power (d : Dev) (n : Nat) (p : Packet) : (d.take n p).power = d.power := rfl

@[simp] theorem Dev.addDue_now (d : Dev) (x : StepDue) : (d.addDue x).now = d.now := rfl
@[simp] theorem Dev.addDue_slew (d : Dev) (x : StepDue) : (d.addDue x).slew = d.slew := rfl
@[simp] theorem Dev.addDue_phase (d : Dev) (x : StepDue) : (d.addDue x).phase = d.phase := rfl
@[simp] theorem Dev.addDue_fresh (d : Dev) (x : StepDue) : (d.addDue x).fresh = d.fresh := rfl
@[simp] theorem Dev.addDue_nextTxn (d : Dev) (x : StepDue) : (d.addDue x).nextTxn = d.nextTxn := rfl
@[simp] theorem Dev.addDue_out (d : Dev) (x : StepDue) : (d.addDue x).out = d.out := rfl
@[simp] theorem Dev.addDue_regs (d : Dev) (x : StepDue) : (d.addDue x).regs = d.regs := rfl
@[simp] theorem Dev.addDue_cores (d : Dev) (x : StepDue) : (d.addDue x).cores = d.cores := rfl
@[simp] theorem Dev.addDue_gws (d : Dev) (x : StepDue) : (d.addDue x).gws = d.gws := rfl
@[simp] theorem Dev.addDue_routers (d : Dev) (x : StepDue) : (d.addDue x).routers = d.routers := rfl
@[simp] theorem Dev.addDue_mems (d : Dev) (x : StepDue) : (d.addDue x).mems = d.mems := rfl
@[simp] theorem Dev.addDue_ports (d : Dev) (x : StepDue) : (d.addDue x).ports = d.ports := rfl
@[simp] theorem Dev.addDue_mem (d : Dev) (x : StepDue) : (d.addDue x).mem = d.mem := rfl
@[simp] theorem Dev.addDue_memErr (d : Dev) (x : StepDue) : (d.addDue x).memErr = d.memErr := rfl
@[simp] theorem Dev.addDue_memFold (d : Dev) (x : StepDue) : (d.addDue x).memFold = d.memFold := rfl
@[simp] theorem Dev.addDue_memReach (d : Dev) (x : StepDue) : (d.addDue x).memReach = d.memReach := rfl
@[simp] theorem Dev.addDue_w1c (d : Dev) (x : StepDue) : (d.addDue x).w1c = d.w1c := rfl
@[simp] theorem Dev.addDue_arrived (d : Dev) (x : StepDue) : (d.addDue x).arrived = d.arrived := rfl
@[simp] theorem Dev.addDue_sendq (d : Dev) (x : StepDue) : (d.addDue x).sendq = d.sendq := rfl
@[simp] theorem Dev.addDue_map (d : Dev) (x : StepDue) : (d.addDue x).map = d.map := rfl
@[simp] theorem Dev.addDue_heal (d : Dev) (x : StepDue) : (d.addDue x).heal = d.heal := rfl
@[simp] theorem Dev.addDue_cob (d : Dev) (x : StepDue) : (d.addDue x).cob = d.cob := rfl
@[simp] theorem Dev.addDue_host (d : Dev) (x : StepDue) : (d.addDue x).host = d.host := rfl
@[simp] theorem Dev.addDue_cks (d : Dev) (x : StepDue) : (d.addDue x).cks = d.cks := rfl
@[simp] theorem Dev.addDue_weir (d : Dev) (x : StepDue) : (d.addDue x).weir = d.weir := rfl
@[simp] theorem Dev.addDue_power (d : Dev) (x : StepDue) : (d.addDue x).power = d.power := rfl

/-! ### The logical core -/

@[simp] theorem LCore.setS_state (l : LCore) (n : Nat) (x : Word) : (l.setS n x).state = l.state := rfl
@[simp] theorem LCore.setS_v (l : LCore) (n : Nat) (x : Word) : (l.setS n x).v = l.v := rfl
@[simp] theorem LCore.setS_p (l : LCore) (n : Nat) (x : Word) : (l.setS n x).p = l.p := rfl
@[simp] theorem LCore.setS_lc (l : LCore) (n : Nat) (x : Word) : (l.setS n x).lc = l.lc := rfl
@[simp] theorem LCore.setS_loops (l : LCore) (n : Nat) (x : Word) : (l.setS n x).loops = l.loops := rfl
@[simp] theorem LCore.setS_sc (l : LCore) (n : Nat) (x : Word) : (l.setS n x).sc = l.sc := rfl
@[simp] theorem LCore.setS_pc (l : LCore) (n : Nat) (x : Word) : (l.setS n x).pc = l.pc := rfl
@[simp] theorem LCore.setS_ctPend (l : LCore) (n : Nat) (x : Word) : (l.setS n x).ctPend = l.ctPend := rfl
@[simp] theorem LCore.setS_ctStat (l : LCore) (n : Nat) (x : Word) : (l.setS n x).ctStat = l.ctStat := rfl
@[simp] theorem LCore.setS_tiles (l : LCore) (n : Nat) (x : Word) : (l.setS n x).tiles = l.tiles := rfl
@[simp] theorem LCore.setS_imem (l : LCore) (n : Nat) (x : Word) : (l.setS n x).imem = l.imem := rfl
@[simp] theorem LCore.setS_badPar (l : LCore) (n : Nat) (x : Word) : (l.setS n x).badPar = l.badPar := rfl
@[simp] theorem LCore.setS_load (l : LCore) (n : Nat) (x : Word) : (l.setS n x).load = l.load := rfl
@[simp] theorem LCore.setS_step (l : LCore) (n : Nat) (x : Word) : (l.setS n x).step = l.step := rfl
@[simp] theorem LCore.setS_spad (l : LCore) (n : Nat) (x : Word) : (l.setS n x).spad = l.spad := rfl
@[simp] theorem LCore.setS_mq (l : LCore) (n : Nat) (x : Word) : (l.setS n x).mq = l.mq := rfl
@[simp] theorem LCore.setS_vu (l : LCore) (n : Nat) (x : Word) : (l.setS n x).vu = l.vu := rfl
@[simp] theorem LCore.setS_mu (l : LCore) (n : Nat) (x : Word) : (l.setS n x).mu = l.mu := rfl
@[simp] theorem LCore.setS_ops (l : LCore) (n : Nat) (x : Word) : (l.setS n x).ops = l.ops := rfl
@[simp] theorem LCore.setS_moves (l : LCore) (n : Nat) (x : Word) : (l.setS n x).moves = l.moves := rfl
@[simp] theorem LCore.setS_inq (l : LCore) (n : Nat) (x : Word) : (l.setS n x).inq = l.inq := rfl
@[simp] theorem LCore.setS_outq (l : LCore) (n : Nat) (x : Word) : (l.setS n x).outq = l.outq := rfl
@[simp] theorem LCore.setS_probe (l : LCore) (n : Nat) (x : Word) : (l.setS n x).probe = l.probe := rfl
@[simp] theorem LCore.setS_verdict (l : LCore) (n : Nat) (x : Word) : (l.setS n x).verdict = l.verdict := rfl
@[simp] theorem LCore.setS_regs (l : LCore) (n : Nat) (x : Word) : (l.setS n x).regs = l.regs := rfl

@[simp] theorem LCore.setV_state (l : LCore) (n : Nat) (x : Line) : (l.setV n x).state = l.state := rfl
@[simp] theorem LCore.setV_s (l : LCore) (n : Nat) (x : Line) : (l.setV n x).s = l.s := rfl
@[simp] theorem LCore.setV_p (l : LCore) (n : Nat) (x : Line) : (l.setV n x).p = l.p := rfl
@[simp] theorem LCore.setV_lc (l : LCore) (n : Nat) (x : Line) : (l.setV n x).lc = l.lc := rfl
@[simp] theorem LCore.setV_loops (l : LCore) (n : Nat) (x : Line) : (l.setV n x).loops = l.loops := rfl
@[simp] theorem LCore.setV_sc (l : LCore) (n : Nat) (x : Line) : (l.setV n x).sc = l.sc := rfl
@[simp] theorem LCore.setV_pc (l : LCore) (n : Nat) (x : Line) : (l.setV n x).pc = l.pc := rfl
@[simp] theorem LCore.setV_ctPend (l : LCore) (n : Nat) (x : Line) : (l.setV n x).ctPend = l.ctPend := rfl
@[simp] theorem LCore.setV_ctStat (l : LCore) (n : Nat) (x : Line) : (l.setV n x).ctStat = l.ctStat := rfl
@[simp] theorem LCore.setV_tiles (l : LCore) (n : Nat) (x : Line) : (l.setV n x).tiles = l.tiles := rfl
@[simp] theorem LCore.setV_imem (l : LCore) (n : Nat) (x : Line) : (l.setV n x).imem = l.imem := rfl
@[simp] theorem LCore.setV_badPar (l : LCore) (n : Nat) (x : Line) : (l.setV n x).badPar = l.badPar := rfl
@[simp] theorem LCore.setV_load (l : LCore) (n : Nat) (x : Line) : (l.setV n x).load = l.load := rfl
@[simp] theorem LCore.setV_step (l : LCore) (n : Nat) (x : Line) : (l.setV n x).step = l.step := rfl
@[simp] theorem LCore.setV_spad (l : LCore) (n : Nat) (x : Line) : (l.setV n x).spad = l.spad := rfl
@[simp] theorem LCore.setV_mq (l : LCore) (n : Nat) (x : Line) : (l.setV n x).mq = l.mq := rfl
@[simp] theorem LCore.setV_vu (l : LCore) (n : Nat) (x : Line) : (l.setV n x).vu = l.vu := rfl
@[simp] theorem LCore.setV_mu (l : LCore) (n : Nat) (x : Line) : (l.setV n x).mu = l.mu := rfl
@[simp] theorem LCore.setV_ops (l : LCore) (n : Nat) (x : Line) : (l.setV n x).ops = l.ops := rfl
@[simp] theorem LCore.setV_moves (l : LCore) (n : Nat) (x : Line) : (l.setV n x).moves = l.moves := rfl
@[simp] theorem LCore.setV_inq (l : LCore) (n : Nat) (x : Line) : (l.setV n x).inq = l.inq := rfl
@[simp] theorem LCore.setV_outq (l : LCore) (n : Nat) (x : Line) : (l.setV n x).outq = l.outq := rfl
@[simp] theorem LCore.setV_probe (l : LCore) (n : Nat) (x : Line) : (l.setV n x).probe = l.probe := rfl
@[simp] theorem LCore.setV_verdict (l : LCore) (n : Nat) (x : Line) : (l.setV n x).verdict = l.verdict := rfl
@[simp] theorem LCore.setV_regs (l : LCore) (n : Nat) (x : Line) : (l.setV n x).regs = l.regs := rfl

@[simp] theorem LCore.setLC_state (l : LCore) (n x : Nat) : (l.setLC n x).state = l.state := rfl
@[simp] theorem LCore.setLC_s (l : LCore) (n x : Nat) : (l.setLC n x).s = l.s := rfl
@[simp] theorem LCore.setLC_v (l : LCore) (n x : Nat) : (l.setLC n x).v = l.v := rfl
@[simp] theorem LCore.setLC_p (l : LCore) (n x : Nat) : (l.setLC n x).p = l.p := rfl
@[simp] theorem LCore.setLC_loops (l : LCore) (n x : Nat) : (l.setLC n x).loops = l.loops := rfl
@[simp] theorem LCore.setLC_sc (l : LCore) (n x : Nat) : (l.setLC n x).sc = l.sc := rfl
@[simp] theorem LCore.setLC_pc (l : LCore) (n x : Nat) : (l.setLC n x).pc = l.pc := rfl
@[simp] theorem LCore.setLC_ctPend (l : LCore) (n x : Nat) : (l.setLC n x).ctPend = l.ctPend := rfl
@[simp] theorem LCore.setLC_ctStat (l : LCore) (n x : Nat) : (l.setLC n x).ctStat = l.ctStat := rfl
@[simp] theorem LCore.setLC_tiles (l : LCore) (n x : Nat) : (l.setLC n x).tiles = l.tiles := rfl
@[simp] theorem LCore.setLC_imem (l : LCore) (n x : Nat) : (l.setLC n x).imem = l.imem := rfl
@[simp] theorem LCore.setLC_badPar (l : LCore) (n x : Nat) : (l.setLC n x).badPar = l.badPar := rfl
@[simp] theorem LCore.setLC_load (l : LCore) (n x : Nat) : (l.setLC n x).load = l.load := rfl
@[simp] theorem LCore.setLC_step (l : LCore) (n x : Nat) : (l.setLC n x).step = l.step := rfl
@[simp] theorem LCore.setLC_spad (l : LCore) (n x : Nat) : (l.setLC n x).spad = l.spad := rfl
@[simp] theorem LCore.setLC_mq (l : LCore) (n x : Nat) : (l.setLC n x).mq = l.mq := rfl
@[simp] theorem LCore.setLC_vu (l : LCore) (n x : Nat) : (l.setLC n x).vu = l.vu := rfl
@[simp] theorem LCore.setLC_mu (l : LCore) (n x : Nat) : (l.setLC n x).mu = l.mu := rfl
@[simp] theorem LCore.setLC_ops (l : LCore) (n x : Nat) : (l.setLC n x).ops = l.ops := rfl
@[simp] theorem LCore.setLC_moves (l : LCore) (n x : Nat) : (l.setLC n x).moves = l.moves := rfl
@[simp] theorem LCore.setLC_inq (l : LCore) (n x : Nat) : (l.setLC n x).inq = l.inq := rfl
@[simp] theorem LCore.setLC_outq (l : LCore) (n x : Nat) : (l.setLC n x).outq = l.outq := rfl
@[simp] theorem LCore.setLC_probe (l : LCore) (n x : Nat) : (l.setLC n x).probe = l.probe := rfl
@[simp] theorem LCore.setLC_verdict (l : LCore) (n x : Nat) : (l.setLC n x).verdict = l.verdict := rfl
@[simp] theorem LCore.setLC_regs (l : LCore) (n x : Nat) : (l.setLC n x).regs = l.regs := rfl

@[simp] theorem LCore.setTile_state (l : LCore) (n : Nat) (x : Tile) : (l.setTile n x).state = l.state := rfl
@[simp] theorem LCore.setTile_s (l : LCore) (n : Nat) (x : Tile) : (l.setTile n x).s = l.s := rfl
@[simp] theorem LCore.setTile_v (l : LCore) (n : Nat) (x : Tile) : (l.setTile n x).v = l.v := rfl
@[simp] theorem LCore.setTile_p (l : LCore) (n : Nat) (x : Tile) : (l.setTile n x).p = l.p := rfl
@[simp] theorem LCore.setTile_lc (l : LCore) (n : Nat) (x : Tile) : (l.setTile n x).lc = l.lc := rfl
@[simp] theorem LCore.setTile_loops (l : LCore) (n : Nat) (x : Tile) : (l.setTile n x).loops = l.loops := rfl
@[simp] theorem LCore.setTile_sc (l : LCore) (n : Nat) (x : Tile) : (l.setTile n x).sc = l.sc := rfl
@[simp] theorem LCore.setTile_pc (l : LCore) (n : Nat) (x : Tile) : (l.setTile n x).pc = l.pc := rfl
@[simp] theorem LCore.setTile_ctPend (l : LCore) (n : Nat) (x : Tile) : (l.setTile n x).ctPend = l.ctPend := rfl
@[simp] theorem LCore.setTile_ctStat (l : LCore) (n : Nat) (x : Tile) : (l.setTile n x).ctStat = l.ctStat := rfl
@[simp] theorem LCore.setTile_imem (l : LCore) (n : Nat) (x : Tile) : (l.setTile n x).imem = l.imem := rfl
@[simp] theorem LCore.setTile_badPar (l : LCore) (n : Nat) (x : Tile) : (l.setTile n x).badPar = l.badPar := rfl
@[simp] theorem LCore.setTile_load (l : LCore) (n : Nat) (x : Tile) : (l.setTile n x).load = l.load := rfl
@[simp] theorem LCore.setTile_step (l : LCore) (n : Nat) (x : Tile) : (l.setTile n x).step = l.step := rfl
@[simp] theorem LCore.setTile_spad (l : LCore) (n : Nat) (x : Tile) : (l.setTile n x).spad = l.spad := rfl
@[simp] theorem LCore.setTile_mq (l : LCore) (n : Nat) (x : Tile) : (l.setTile n x).mq = l.mq := rfl
@[simp] theorem LCore.setTile_vu (l : LCore) (n : Nat) (x : Tile) : (l.setTile n x).vu = l.vu := rfl
@[simp] theorem LCore.setTile_mu (l : LCore) (n : Nat) (x : Tile) : (l.setTile n x).mu = l.mu := rfl
@[simp] theorem LCore.setTile_ops (l : LCore) (n : Nat) (x : Tile) : (l.setTile n x).ops = l.ops := rfl
@[simp] theorem LCore.setTile_moves (l : LCore) (n : Nat) (x : Tile) : (l.setTile n x).moves = l.moves := rfl
@[simp] theorem LCore.setTile_inq (l : LCore) (n : Nat) (x : Tile) : (l.setTile n x).inq = l.inq := rfl
@[simp] theorem LCore.setTile_outq (l : LCore) (n : Nat) (x : Tile) : (l.setTile n x).outq = l.outq := rfl
@[simp] theorem LCore.setTile_probe (l : LCore) (n : Nat) (x : Tile) : (l.setTile n x).probe = l.probe := rfl
@[simp] theorem LCore.setTile_verdict (l : LCore) (n : Nat) (x : Tile) : (l.setTile n x).verdict = l.verdict := rfl
@[simp] theorem LCore.setTile_regs (l : LCore) (n : Nat) (x : Tile) : (l.setTile n x).regs = l.regs := rfl

@[simp] theorem LCore.pendSet_state (l : LCore) (t : Nat) (b : Bool) : (l.pendSet t b).state = l.state := rfl
@[simp] theorem LCore.pendSet_s (l : LCore) (t : Nat) (b : Bool) : (l.pendSet t b).s = l.s := rfl
@[simp] theorem LCore.pendSet_v (l : LCore) (t : Nat) (b : Bool) : (l.pendSet t b).v = l.v := rfl
@[simp] theorem LCore.pendSet_p (l : LCore) (t : Nat) (b : Bool) : (l.pendSet t b).p = l.p := rfl
@[simp] theorem LCore.pendSet_lc (l : LCore) (t : Nat) (b : Bool) : (l.pendSet t b).lc = l.lc := rfl
@[simp] theorem LCore.pendSet_loops (l : LCore) (t : Nat) (b : Bool) : (l.pendSet t b).loops = l.loops := rfl
@[simp] theorem LCore.pendSet_sc (l : LCore) (t : Nat) (b : Bool) : (l.pendSet t b).sc = l.sc := rfl
@[simp] theorem LCore.pendSet_pc (l : LCore) (t : Nat) (b : Bool) : (l.pendSet t b).pc = l.pc := rfl
@[simp] theorem LCore.pendSet_ctStat (l : LCore) (t : Nat) (b : Bool) : (l.pendSet t b).ctStat = l.ctStat := rfl
@[simp] theorem LCore.pendSet_tiles (l : LCore) (t : Nat) (b : Bool) : (l.pendSet t b).tiles = l.tiles := rfl
@[simp] theorem LCore.pendSet_imem (l : LCore) (t : Nat) (b : Bool) : (l.pendSet t b).imem = l.imem := rfl
@[simp] theorem LCore.pendSet_badPar (l : LCore) (t : Nat) (b : Bool) : (l.pendSet t b).badPar = l.badPar := rfl
@[simp] theorem LCore.pendSet_load (l : LCore) (t : Nat) (b : Bool) : (l.pendSet t b).load = l.load := rfl
@[simp] theorem LCore.pendSet_step (l : LCore) (t : Nat) (b : Bool) : (l.pendSet t b).step = l.step := rfl
@[simp] theorem LCore.pendSet_spad (l : LCore) (t : Nat) (b : Bool) : (l.pendSet t b).spad = l.spad := rfl
@[simp] theorem LCore.pendSet_mq (l : LCore) (t : Nat) (b : Bool) : (l.pendSet t b).mq = l.mq := rfl
@[simp] theorem LCore.pendSet_vu (l : LCore) (t : Nat) (b : Bool) : (l.pendSet t b).vu = l.vu := rfl
@[simp] theorem LCore.pendSet_mu (l : LCore) (t : Nat) (b : Bool) : (l.pendSet t b).mu = l.mu := rfl
@[simp] theorem LCore.pendSet_ops (l : LCore) (t : Nat) (b : Bool) : (l.pendSet t b).ops = l.ops := rfl
@[simp] theorem LCore.pendSet_moves (l : LCore) (t : Nat) (b : Bool) : (l.pendSet t b).moves = l.moves := rfl
@[simp] theorem LCore.pendSet_inq (l : LCore) (t : Nat) (b : Bool) : (l.pendSet t b).inq = l.inq := rfl
@[simp] theorem LCore.pendSet_outq (l : LCore) (t : Nat) (b : Bool) : (l.pendSet t b).outq = l.outq := rfl
@[simp] theorem LCore.pendSet_probe (l : LCore) (t : Nat) (b : Bool) : (l.pendSet t b).probe = l.probe := rfl
@[simp] theorem LCore.pendSet_verdict (l : LCore) (t : Nat) (b : Bool) : (l.pendSet t b).verdict = l.verdict := rfl
@[simp] theorem LCore.pendSet_regs (l : LCore) (t : Nat) (b : Bool) : (l.pendSet t b).regs = l.regs := rfl

@[simp] theorem LCore.tagDone_state (l : LCore) (t x : Nat) : (l.tagDone t x).state = l.state := rfl
@[simp] theorem LCore.tagDone_s (l : LCore) (t x : Nat) : (l.tagDone t x).s = l.s := rfl
@[simp] theorem LCore.tagDone_v (l : LCore) (t x : Nat) : (l.tagDone t x).v = l.v := rfl
@[simp] theorem LCore.tagDone_p (l : LCore) (t x : Nat) : (l.tagDone t x).p = l.p := rfl
@[simp] theorem LCore.tagDone_lc (l : LCore) (t x : Nat) : (l.tagDone t x).lc = l.lc := rfl
@[simp] theorem LCore.tagDone_loops (l : LCore) (t x : Nat) : (l.tagDone t x).loops = l.loops := rfl
@[simp] theorem LCore.tagDone_sc (l : LCore) (t x : Nat) : (l.tagDone t x).sc = l.sc := rfl
@[simp] theorem LCore.tagDone_pc (l : LCore) (t x : Nat) : (l.tagDone t x).pc = l.pc := rfl
@[simp] theorem LCore.tagDone_tiles (l : LCore) (t x : Nat) : (l.tagDone t x).tiles = l.tiles := rfl
@[simp] theorem LCore.tagDone_imem (l : LCore) (t x : Nat) : (l.tagDone t x).imem = l.imem := rfl
@[simp] theorem LCore.tagDone_badPar (l : LCore) (t x : Nat) : (l.tagDone t x).badPar = l.badPar := rfl
@[simp] theorem LCore.tagDone_load (l : LCore) (t x : Nat) : (l.tagDone t x).load = l.load := rfl
@[simp] theorem LCore.tagDone_step (l : LCore) (t x : Nat) : (l.tagDone t x).step = l.step := rfl
@[simp] theorem LCore.tagDone_spad (l : LCore) (t x : Nat) : (l.tagDone t x).spad = l.spad := rfl
@[simp] theorem LCore.tagDone_mq (l : LCore) (t x : Nat) : (l.tagDone t x).mq = l.mq := rfl
@[simp] theorem LCore.tagDone_vu (l : LCore) (t x : Nat) : (l.tagDone t x).vu = l.vu := rfl
@[simp] theorem LCore.tagDone_mu (l : LCore) (t x : Nat) : (l.tagDone t x).mu = l.mu := rfl
@[simp] theorem LCore.tagDone_ops (l : LCore) (t x : Nat) : (l.tagDone t x).ops = l.ops := rfl
@[simp] theorem LCore.tagDone_moves (l : LCore) (t x : Nat) : (l.tagDone t x).moves = l.moves := rfl
@[simp] theorem LCore.tagDone_inq (l : LCore) (t x : Nat) : (l.tagDone t x).inq = l.inq := rfl
@[simp] theorem LCore.tagDone_outq (l : LCore) (t x : Nat) : (l.tagDone t x).outq = l.outq := rfl
@[simp] theorem LCore.tagDone_probe (l : LCore) (t x : Nat) : (l.tagDone t x).probe = l.probe := rfl
@[simp] theorem LCore.tagDone_verdict (l : LCore) (t x : Nat) : (l.tagDone t x).verdict = l.verdict := rfl
@[simp] theorem LCore.tagDone_regs (l : LCore) (t x : Nat) : (l.tagDone t x).regs = l.regs := rfl

@[simp] theorem LCore.setP_state (l : LCore) (n : Nat) (x : BitVec 16) : (l.setP n x).state = l.state := by
  unfold LCore.setP; split <;> rfl
@[simp] theorem LCore.setP_s (l : LCore) (n : Nat) (x : BitVec 16) : (l.setP n x).s = l.s := by
  unfold LCore.setP; split <;> rfl
@[simp] theorem LCore.setP_v (l : LCore) (n : Nat) (x : BitVec 16) : (l.setP n x).v = l.v := by
  unfold LCore.setP; split <;> rfl
@[simp] theorem LCore.setP_lc (l : LCore) (n : Nat) (x : BitVec 16) : (l.setP n x).lc = l.lc := by
  unfold LCore.setP; split <;> rfl
@[simp] theorem LCore.setP_loops (l : LCore) (n : Nat) (x : BitVec 16) : (l.setP n x).loops = l.loops := by
  unfold LCore.setP; split <;> rfl
@[simp] theorem LCore.setP_sc (l : LCore) (n : Nat) (x : BitVec 16) : (l.setP n x).sc = l.sc := by
  unfold LCore.setP; split <;> rfl
@[simp] theorem LCore.setP_pc (l : LCore) (n : Nat) (x : BitVec 16) : (l.setP n x).pc = l.pc := by
  unfold LCore.setP; split <;> rfl
@[simp] theorem LCore.setP_ctPend (l : LCore) (n : Nat) (x : BitVec 16) : (l.setP n x).ctPend = l.ctPend := by
  unfold LCore.setP; split <;> rfl
@[simp] theorem LCore.setP_ctStat (l : LCore) (n : Nat) (x : BitVec 16) : (l.setP n x).ctStat = l.ctStat := by
  unfold LCore.setP; split <;> rfl
@[simp] theorem LCore.setP_tiles (l : LCore) (n : Nat) (x : BitVec 16) : (l.setP n x).tiles = l.tiles := by
  unfold LCore.setP; split <;> rfl
@[simp] theorem LCore.setP_imem (l : LCore) (n : Nat) (x : BitVec 16) : (l.setP n x).imem = l.imem := by
  unfold LCore.setP; split <;> rfl
@[simp] theorem LCore.setP_badPar (l : LCore) (n : Nat) (x : BitVec 16) : (l.setP n x).badPar = l.badPar := by
  unfold LCore.setP; split <;> rfl
@[simp] theorem LCore.setP_load (l : LCore) (n : Nat) (x : BitVec 16) : (l.setP n x).load = l.load := by
  unfold LCore.setP; split <;> rfl
@[simp] theorem LCore.setP_step (l : LCore) (n : Nat) (x : BitVec 16) : (l.setP n x).step = l.step := by
  unfold LCore.setP; split <;> rfl
@[simp] theorem LCore.setP_spad (l : LCore) (n : Nat) (x : BitVec 16) : (l.setP n x).spad = l.spad := by
  unfold LCore.setP; split <;> rfl
@[simp] theorem LCore.setP_mq (l : LCore) (n : Nat) (x : BitVec 16) : (l.setP n x).mq = l.mq := by
  unfold LCore.setP; split <;> rfl
@[simp] theorem LCore.setP_vu (l : LCore) (n : Nat) (x : BitVec 16) : (l.setP n x).vu = l.vu := by
  unfold LCore.setP; split <;> rfl
@[simp] theorem LCore.setP_mu (l : LCore) (n : Nat) (x : BitVec 16) : (l.setP n x).mu = l.mu := by
  unfold LCore.setP; split <;> rfl
@[simp] theorem LCore.setP_ops (l : LCore) (n : Nat) (x : BitVec 16) : (l.setP n x).ops = l.ops := by
  unfold LCore.setP; split <;> rfl
@[simp] theorem LCore.setP_moves (l : LCore) (n : Nat) (x : BitVec 16) : (l.setP n x).moves = l.moves := by
  unfold LCore.setP; split <;> rfl
@[simp] theorem LCore.setP_inq (l : LCore) (n : Nat) (x : BitVec 16) : (l.setP n x).inq = l.inq := by
  unfold LCore.setP; split <;> rfl
@[simp] theorem LCore.setP_outq (l : LCore) (n : Nat) (x : BitVec 16) : (l.setP n x).outq = l.outq := by
  unfold LCore.setP; split <;> rfl
@[simp] theorem LCore.setP_probe (l : LCore) (n : Nat) (x : BitVec 16) : (l.setP n x).probe = l.probe := by
  unfold LCore.setP; split <;> rfl
@[simp] theorem LCore.setP_verdict (l : LCore) (n : Nat) (x : BitVec 16) : (l.setP n x).verdict = l.verdict := by
  unfold LCore.setP; split <;> rfl
@[simp] theorem LCore.setP_regs (l : LCore) (n : Nat) (x : BitVec 16) : (l.setP n x).regs = l.regs := by
  unfold LCore.setP; split <;> rfl

@[simp] theorem LCore.advance_state (l : LCore) (n : Nat) (t : Option Nat) : (l.advance n t).state = l.state := by
  cases t <;> rfl
@[simp] theorem LCore.advance_s (l : LCore) (n : Nat) (t : Option Nat) : (l.advance n t).s = l.s := by
  cases t <;> rfl
@[simp] theorem LCore.advance_v (l : LCore) (n : Nat) (t : Option Nat) : (l.advance n t).v = l.v := by
  cases t <;> rfl
@[simp] theorem LCore.advance_p (l : LCore) (n : Nat) (t : Option Nat) : (l.advance n t).p = l.p := by
  cases t <;> rfl
@[simp] theorem LCore.advance_sc (l : LCore) (n : Nat) (t : Option Nat) : (l.advance n t).sc = l.sc := by
  cases t <;> rfl
@[simp] theorem LCore.advance_ctPend (l : LCore) (n : Nat) (t : Option Nat) : (l.advance n t).ctPend = l.ctPend := by
  cases t <;> rfl
@[simp] theorem LCore.advance_ctStat (l : LCore) (n : Nat) (t : Option Nat) : (l.advance n t).ctStat = l.ctStat := by
  cases t <;> rfl
@[simp] theorem LCore.advance_tiles (l : LCore) (n : Nat) (t : Option Nat) : (l.advance n t).tiles = l.tiles := by
  cases t <;> rfl
@[simp] theorem LCore.advance_imem (l : LCore) (n : Nat) (t : Option Nat) : (l.advance n t).imem = l.imem := by
  cases t <;> rfl
@[simp] theorem LCore.advance_badPar (l : LCore) (n : Nat) (t : Option Nat) : (l.advance n t).badPar = l.badPar := by
  cases t <;> rfl
@[simp] theorem LCore.advance_load (l : LCore) (n : Nat) (t : Option Nat) : (l.advance n t).load = l.load := by
  cases t <;> rfl
@[simp] theorem LCore.advance_step (l : LCore) (n : Nat) (t : Option Nat) : (l.advance n t).step = l.step := by
  cases t <;> rfl
@[simp] theorem LCore.advance_spad (l : LCore) (n : Nat) (t : Option Nat) : (l.advance n t).spad = l.spad := by
  cases t <;> rfl
@[simp] theorem LCore.advance_mq (l : LCore) (n : Nat) (t : Option Nat) : (l.advance n t).mq = l.mq := by
  cases t <;> rfl
@[simp] theorem LCore.advance_vu (l : LCore) (n : Nat) (t : Option Nat) : (l.advance n t).vu = l.vu := by
  cases t <;> rfl
@[simp] theorem LCore.advance_mu (l : LCore) (n : Nat) (t : Option Nat) : (l.advance n t).mu = l.mu := by
  cases t <;> rfl
@[simp] theorem LCore.advance_ops (l : LCore) (n : Nat) (t : Option Nat) : (l.advance n t).ops = l.ops := by
  cases t <;> rfl
@[simp] theorem LCore.advance_moves (l : LCore) (n : Nat) (t : Option Nat) : (l.advance n t).moves = l.moves := by
  cases t <;> rfl
@[simp] theorem LCore.advance_inq (l : LCore) (n : Nat) (t : Option Nat) : (l.advance n t).inq = l.inq := by
  cases t <;> rfl
@[simp] theorem LCore.advance_outq (l : LCore) (n : Nat) (t : Option Nat) : (l.advance n t).outq = l.outq := by
  cases t <;> rfl
@[simp] theorem LCore.advance_probe (l : LCore) (n : Nat) (t : Option Nat) : (l.advance n t).probe = l.probe := by
  cases t <;> rfl
@[simp] theorem LCore.advance_verdict (l : LCore) (n : Nat) (t : Option Nat) : (l.advance n t).verdict = l.verdict := by
  cases t <;> rfl
@[simp] theorem LCore.advance_regs (l : LCore) (n : Nat) (t : Option Nat) : (l.advance n t).regs = l.regs := by
  cases t <;> rfl

@[simp] theorem LCore.newStep_state (l : LCore) (n : Nat) : (l.newStep n).state = l.state := by
  unfold LCore.newStep; split <;> rfl
@[simp] theorem LCore.newStep_s (l : LCore) (n : Nat) : (l.newStep n).s = l.s := by
  unfold LCore.newStep; split <;> rfl
@[simp] theorem LCore.newStep_v (l : LCore) (n : Nat) : (l.newStep n).v = l.v := by
  unfold LCore.newStep; split <;> rfl
@[simp] theorem LCore.newStep_p (l : LCore) (n : Nat) : (l.newStep n).p = l.p := by
  unfold LCore.newStep; split <;> rfl
@[simp] theorem LCore.newStep_lc (l : LCore) (n : Nat) : (l.newStep n).lc = l.lc := by
  unfold LCore.newStep; split <;> rfl
@[simp] theorem LCore.newStep_loops (l : LCore) (n : Nat) : (l.newStep n).loops = l.loops := by
  unfold LCore.newStep; split <;> rfl
@[simp] theorem LCore.newStep_sc (l : LCore) (n : Nat) : (l.newStep n).sc = l.sc := by
  unfold LCore.newStep; split <;> rfl
@[simp] theorem LCore.newStep_pc (l : LCore) (n : Nat) : (l.newStep n).pc = l.pc := by
  unfold LCore.newStep; split <;> rfl
@[simp] theorem LCore.newStep_ctPend (l : LCore) (n : Nat) : (l.newStep n).ctPend = l.ctPend := by
  unfold LCore.newStep; split <;> rfl
@[simp] theorem LCore.newStep_ctStat (l : LCore) (n : Nat) : (l.newStep n).ctStat = l.ctStat := by
  unfold LCore.newStep; split <;> rfl
@[simp] theorem LCore.newStep_imem (l : LCore) (n : Nat) : (l.newStep n).imem = l.imem := by
  unfold LCore.newStep; split <;> rfl
@[simp] theorem LCore.newStep_badPar (l : LCore) (n : Nat) : (l.newStep n).badPar = l.badPar := by
  unfold LCore.newStep; split <;> rfl
@[simp] theorem LCore.newStep_load (l : LCore) (n : Nat) : (l.newStep n).load = l.load := by
  unfold LCore.newStep; split <;> rfl
@[simp] theorem LCore.newStep_spad (l : LCore) (n : Nat) : (l.newStep n).spad = l.spad := by
  unfold LCore.newStep; split <;> rfl
@[simp] theorem LCore.newStep_mq (l : LCore) (n : Nat) : (l.newStep n).mq = l.mq := by
  unfold LCore.newStep; split <;> rfl
@[simp] theorem LCore.newStep_vu (l : LCore) (n : Nat) : (l.newStep n).vu = l.vu := by
  unfold LCore.newStep; split <;> rfl
@[simp] theorem LCore.newStep_mu (l : LCore) (n : Nat) : (l.newStep n).mu = l.mu := by
  unfold LCore.newStep; split <;> rfl
@[simp] theorem LCore.newStep_ops (l : LCore) (n : Nat) : (l.newStep n).ops = l.ops := by
  unfold LCore.newStep; split <;> rfl
@[simp] theorem LCore.newStep_moves (l : LCore) (n : Nat) : (l.newStep n).moves = l.moves := by
  unfold LCore.newStep; split <;> rfl
@[simp] theorem LCore.newStep_inq (l : LCore) (n : Nat) : (l.newStep n).inq = l.inq := by
  unfold LCore.newStep; split <;> rfl
@[simp] theorem LCore.newStep_outq (l : LCore) (n : Nat) : (l.newStep n).outq = l.outq := by
  unfold LCore.newStep; split <;> rfl
@[simp] theorem LCore.newStep_probe (l : LCore) (n : Nat) : (l.newStep n).probe = l.probe := by
  unfold LCore.newStep; split <;> rfl
@[simp] theorem LCore.newStep_verdict (l : LCore) (n : Nat) : (l.newStep n).verdict = l.verdict := by
  unfold LCore.newStep; split <;> rfl
@[simp] theorem LCore.newStep_regs (l : LCore) (n : Nat) : (l.newStep n).regs = l.regs := by
  unfold LCore.newStep; split <;> rfl

/-! ### Reading back -/

@[simp] theorem Dev.reg_setReg_self (d : Dev) (o : Nat) (v : Word) : (d.setReg o v).reg o = v := NMap.get_set_self _ _ _ _
theorem Dev.reg_setReg (d : Dev) (o p : Nat) (v : Word) : (d.setReg o v).reg p = if p = o then v else d.reg p := by
  by_cases h : p = o
  · subst h; simp
  · rw [if_neg h]; exact NMap.get_set_of_ne _ _ _ _ h
theorem Dev.reg_setReg_of_ne (d : Dev) {o p : Nat} (v : Word) (h : p ≠ o) : (d.setReg o v).reg p = d.reg p := by
  simp [Dev.reg_setReg, h]

@[simp] theorem Dev.core_setCore_self (d : Dev) (c : Nat) (k : Core) : (d.setCore c k).core c = k := NMap.get_set_self _ _ _ _
theorem Dev.core_setCore (d : Dev) (c j : Nat) (k : Core) : (d.setCore c k).core j = if j = c then k else d.core j :=
  NMap.get_set _ _ _ _ _
@[simp] theorem Dev.core_modCore_self (d : Dev) (c : Nat) (f : Core → Core) : (d.modCore c f).core c = f (d.core c) := by
  simp [Dev.modCore]
theorem Dev.core_modCore (d : Dev) (c j : Nat) (f : Core → Core) :
    (d.modCore c f).core j = if j = c then f (d.core c) else d.core j := Dev.core_setCore _ _ _ _
@[simp] theorem Dev.core_modLog_self (d : Dev) (c : Nat) (f : LCore → LCore) :
    (d.modLog c f).core c = { d.core c with log := f (d.core c).log } := by simp [Dev.modLog]
theorem Dev.core_modLog (d : Dev) (c j : Nat) (f : LCore → LCore) :
    (d.modLog c f).core j = if j = c then { d.core c with log := f (d.core c).log } else d.core j :=
  Dev.core_modCore _ _ _ _
theorem Dev.core_modLog_of_ne (d : Dev) {c j : Nat} (f : LCore → LCore) (h : j ≠ c) : (d.modLog c f).core j = d.core j := by
  simp [Dev.core_modLog, h]

@[simp] theorem Dev.gw_setGw_self (d : Dev) (r : Nat) (g : Gateway) : (d.setGw r g).gw r = g := NMap.get_set_self _ _ _ _
theorem Dev.gw_setGw (d : Dev) (r j : Nat) (g : Gateway) : (d.setGw r g).gw j = if j = r then g else d.gw j :=
  NMap.get_set _ _ _ _ _
@[simp] theorem Dev.router_setRouter_self (d : Dev) (r : Nat) (x : Router) : (d.setRouter r x).router r = x :=
  NMap.get_set_self _ _ _ _
theorem Dev.router_setRouter (d : Dev) (r j : Nat) (x : Router) :
    (d.setRouter r x).router j = if j = r then x else d.router j := NMap.get_set _ _ _ _ _
@[simp] theorem Dev.memc_setMemc_self (d : Dev) (k : Nat) (m : MemCtl) : (d.setMemc k m).memc k = m :=
  NMap.get_set_self _ _ _ _
theorem Dev.memc_setMemc (d : Dev) (k j : Nat) (m : MemCtl) : (d.setMemc k m).memc j = if j = k then m else d.memc j :=
  NMap.get_set _ _ _ _ _
@[simp] theorem Dev.port_setPort_self (d : Dev) (p : Nat) (x : Port) : (d.setPort p x).port p = x := NMap.get_set_self _ _ _ _
theorem Dev.port_setPort (d : Dev) (p j : Nat) (x : Port) : (d.setPort p x).port j = if j = p then x else d.port j :=
  NMap.get_set _ _ _ _ _

@[simp] theorem LCore.sreg_setS_self (l : LCore) (n : Nat) (x : Word) : (l.setS n x).sreg n = x := NMap.get_set_self _ _ _ _
theorem LCore.sreg_setS (l : LCore) (n j : Nat) (x : Word) : (l.setS n x).sreg j = if j = n then x else l.sreg j :=
  NMap.get_set _ _ _ _ _
@[simp] theorem LCore.vreg_setV_self (l : LCore) (n : Nat) (x : Line) : (l.setV n x).vreg n = x := NMap.get_set_self _ _ _ _
theorem LCore.vreg_setV (l : LCore) (n j : Nat) (x : Line) : (l.setV n x).vreg j = if j = n then x else l.vreg j :=
  NMap.get_set _ _ _ _ _
/-- p0 discards a write; every other predicate register takes it. -/
theorem LCore.preg_setP (l : LCore) (n j : Nat) (x : BitVec 16) :
    (l.setP n x).preg j = if j = n ∧ n ≠ 0 then x else l.preg j := by
  unfold LCore.setP LCore.preg
  by_cases hn : n = 0
  · simp [hn]
  · by_cases hj : j = n
    · simp [hn, hj]
    · by_cases h0 : j = 0
      · simp [h0, Ne.symm hn]
      · simp [hn, hj, h0, NMap.get_set_of_ne _ _ _ _ hj]
theorem LCore.tile_setTile (l : LCore) (n j : Nat) (x : Tile) : (l.setTile n x).tile j = if j = n then x else l.tile j :=
  NMap.get_set _ _ _ _ _
theorem LCore.loopCtr_setLC (l : LCore) (n j x : Nat) :
    (l.setLC n x).loopCtr j = if j = n then x % 2 ^ 20 else l.loopCtr j := NMap.get_set _ _ _ _ _
@[simp] theorem LCore.tagStatus_tagDone (l : LCore) (t x : Nat) : (l.tagDone t x).tagStatus t = x := NMap.get_set_self _ _ _ _

/-! ### A step's outcome -/

/-- What every command's effect has in common. -/
theorem effect_eq (f : Dev → Dev) (s : State) :
    effect f s = .next { pending := s.pending, dev := f { s.dev with out := [] } } := rfl
/-- A command to a unit the device has runs its effect. -/
theorem onUnit_true (f : Dev → Dev) (s : State) :
    onUnit true f s = .next { pending := s.pending, dev := f { s.dev with out := [] } } := rfl
theorem onUnit_of {ok : Bool} (f : Dev → Dev) (s : State) (h : ok = true) :
    onUnit ok f s = .next { pending := s.pending, dev := f { s.dev with out := [] } } := by rw [h]; rfl
/-- Whatever it does, a command to a unit keeps the queue and never refuses. -/
theorem onUnit_cases (ok : Bool) (f : Dev → Dev) (s : State) :
    (onUnit ok f s = .next { pending := s.pending, dev := f { s.dev with out := [] } } ∧ ok = true) ∨
    (onUnit ok f s = .fault .noSuchUnit ∧ ok = false) := by cases ok <;> simp [onUnit, effect]

end Sys2Proof.Machine
end

