-- ==== Sys2Proof/Laws/Bits.lean ====
section
/-!
SUPPORT. Bit fields: what a field reads as after a write of itself or of another field of its register.
-/
namespace Sys2Proof.Machine

theorem bits_testBit {w : Nat} (x : BitVec w) (hi lo b : Nat) :
    (bits x hi lo).testBit b = (decide (b < hi + 1 - lo) && x.getLsbD (lo + b)) := by
  unfold bits
  rw [Nat.testBit_mod_two_pow, Nat.testBit_div_two_pow, BitVec.testBit_toNat]
  simp [Nat.add_comm]

theorem bits_lt {w : Nat} (x : BitVec w) (hi lo : Nat) : bits x hi lo < 2 ^ (hi + 1 - lo) := Nat.mod_lt _ (Nat.two_pow_pos _)

theorem putBits_getLsbD (x : Word) (hi lo v j : Nat) (hj : j < 64) :
    (putBits x hi lo v).getLsbD j = if lo ≤ j ∧ j < hi + 1 then v.testBit (j - lo) else x.getLsbD j := by
  simp only [putBits, BitVec.getLsbD_or, BitVec.getLsbD_and, BitVec.getLsbD_not, BitVec.getLsbD_ofNat, hj, decide_true,
    Bool.true_and, Nat.testBit_mul_two_pow, Nat.testBit_two_pow_sub_one]
  by_cases h1 : lo ≤ j
  · by_cases h2 : j < hi + 1
    · have : j - lo < hi + 1 - lo := by omega
      simp [h1, h2, this]
    · have : ¬ j - lo < hi + 1 - lo := by omega
      simp [h1, h2, this]
  · simp [h1]

/-- A written field reads as what was written, cut to its width. -/
theorem bits_putBits (x : Word) (hi lo v : Nat) (h : hi < 64) : bits (putBits x hi lo v) hi lo = v % 2 ^ (hi + 1 - lo) := by
  apply Nat.eq_of_testBit_eq
  intro b
  rw [bits_testBit, Nat.testBit_mod_two_pow]
  by_cases hb : b < hi + 1 - lo
  · rw [putBits_getLsbD _ _ _ _ _ (by omega), if_pos (by omega)]
    simp [hb]
  · simp [hb]

/-- A field apart from the written one reads as before. -/
theorem bits_putBits_apart (x : Word) (hi lo v hi' lo' : Nat) (h : hi' < 64) (ha : hi' < lo ∨ hi < lo') :
    bits (putBits x hi lo v) hi' lo' = bits x hi' lo' := by
  apply Nat.eq_of_testBit_eq
  intro b
  rw [bits_testBit, bits_testBit]
  by_cases hb : b < hi' + 1 - lo'
  · rw [putBits_getLsbD _ _ _ _ _ (by omega), if_neg (by omega)]
  · simp [hb]

theorem Core.reg_setReg_self (k : Core) (o : Nat) (v : Word) : (k.setReg o v).reg o = v := by
  unfold Core.setReg Core.reg
  split <;> simp
theorem Core.reg_setReg_of_ne (k : Core) {o p : Nat} (v : Word) (h : p ≠ o) : (k.setReg o v).reg p = k.reg p := by
  unfold Core.setReg Core.reg
  split
  · split
    · exact NMap.get_set_of_ne _ _ _ _ h
    · rfl
  · split
    · rfl
    · exact NMap.get_set_of_ne _ _ _ _ h

theorem Core.fld_setFld_self (k : Core) (f : Fld) (v : Nat) (h : f.hi < 64) : (k.setFld f v).fld f = v % 2 ^ (f.hi + 1 - f.lo) := by
  unfold Core.fld Core.setFld
  rw [Core.reg_setReg_self]
  exact bits_putBits _ _ _ _ h
theorem Core.fld_setFld_of_ne (k : Core) {f g : Fld} (v : Nat) (h : g.off ≠ f.off) : (k.setFld f v).fld g = k.fld g := by
  unfold Core.fld Core.setFld
  rw [Core.reg_setReg_of_ne _ _ h]
theorem Core.fld_setFld_apart (k : Core) {f g : Fld} (v : Nat) (hg : g.hi < 64) (h : g.hi < f.lo ∨ f.hi < g.lo) :
    (k.setFld f v).fld g = k.fld g := by
  by_cases e : g.off = f.off
  · unfold Core.fld Core.setFld
    rw [e, Core.reg_setReg_self]
    exact bits_putBits_apart _ _ _ _ _ _ hg h
  · exact Core.fld_setFld_of_ne k v e

theorem Dev.fld_setFld_self (d : Dev) (f : Fld) (v : Nat) (h : f.hi < 64) : (d.setFld f v).fld f = v % 2 ^ (f.hi + 1 - f.lo) := by
  unfold Dev.fld Dev.setFld
  rw [Dev.reg_setReg_self]
  exact bits_putBits _ _ _ _ h
theorem Dev.fld_setFld_of_ne (d : Dev) {f g : Fld} (v : Nat) (h : g.off ≠ f.off) : (d.setFld f v).fld g = d.fld g := by
  unfold Dev.fld Dev.setFld
  rw [Dev.reg_setReg_of_ne _ _ h]
theorem Dev.fld_setFld_apart (d : Dev) {f g : Fld} (v : Nat) (hg : g.hi < 64) (h : g.hi < f.lo ∨ f.hi < g.lo) :
    (d.setFld f v).fld g = d.fld g := by
  by_cases e : g.off = f.off
  · unfold Dev.fld Dev.setFld
    rw [e, Dev.reg_setReg_self]
    exact bits_putBits_apart _ _ _ _ _ _ hg h
  · exact Dev.fld_setFld_of_ne d v e

/-- A register write of a core reaches no other part of it. -/
theorem Core.setReg_parts (k : Core) (o : Nat) (v : Word) : ∃ a b, k.setReg o v =
    { log := { k.log with regs := a }, sil := { k.sil with regs := b } } := by
  unfold Core.setReg
  split
  · exact ⟨_, k.sil.regs, rfl⟩
  · exact ⟨k.log.regs, _, rfl⟩

end Sys2Proof.Machine
end

