-- ==== Sys2Proof/Laws/Issue.lean ====
section
/-!
SUPPORT. What an issue attempt can do: counting, taking words and firing leave everything alone but the core's own queues, edge
streams and counters; and when a core issues.
-/
namespace Sys2Proof.Machine

/-- A fold keeps what every step keeps. -/
theorem foldl_keep {α β γ : Type} (p : α → γ) (f : α → β → α) (h : ∀ a b, p (f a b) = p a) (l : List β) (a : α) :
    p (l.foldl f a) = p a := by
  induction l generalizing a with
  | nil => rfl
  | cons b l ih => rw [List.foldl_cons, ih, h]

/-- A fold keeps a relation that holds of itself and follows every step. -/
theorem foldl_rel {α β : Type} (R : α → Prop) (f : α → β → α) (l : List β) (h : ∀ a b, b ∈ l → R a → R (f a b)) (a : α)
    (ha : R a) : R (l.foldl f a) := by
  induction l generalizing a with
  | nil => exact ha
  | cons b l ih =>
    exact ih (fun a x hx => h a x (List.mem_cons_of_mem b hx)) (f a b) (h a b List.mem_cons_self ha)

/-! ### Counting -/

/-- `e` is `d` but for counter registers. -/
def CountsTo (d e : Dev) : Prop :=
  ∃ rs, e = { d with regs := rs } ∧ ∀ off x, isCounter off = false → NMap.get x rs off = NMap.get x d.regs off

theorem CountsTo.refl (d : Dev) : CountsTo d d := ⟨d.regs, rfl, fun _ _ _ => rfl⟩
theorem CountsTo.trans {d e f : Dev} (h : CountsTo d e) (k : CountsTo e f) : CountsTo d f := by
  obtain ⟨r1, rfl, h1⟩ := h
  obtain ⟨r2, rfl, h2⟩ := k
  exact ⟨r2, rfl, fun off x hc => (h2 off x hc).trans (h1 off x hc)⟩
theorem CountsTo.setReg (d : Dev) (o : Nat) (v : Word) (ho : isCounter o = true) : CountsTo d (d.setReg o v) := by
  refine ⟨_, rfl, fun off x hc => NMap.get_set_of_ne x _ _ _ ?_⟩
  intro e
  rw [e, ho] at hc
  exact absurd hc (by decide)
theorem CountsTo.reg {d e : Dev} (h : CountsTo d e) (off : Nat) (hc : isCounter off = false) : e.reg off = d.reg off := by
  obtain ⟨rs, rfl, h⟩ := h
  exact h off _ hc

theorem Dev.tallyAt_counts (d : Dev) (base cnt n : Nat) (ok : Word → Bool)
    (hb : ∀ o, base ≤ o → o < base + 16 * cnt → (o - base) % 16 = 0 → isCounter (o + 8) = true) :
    CountsTo d (d.tallyAt base cnt n ok) := by
  unfold Dev.tallyAt
  refine foldl_rel (CountsTo d) _ _ ?_ d (CountsTo.refl d)
  intro a o ho ha
  obtain ⟨x, _, hx⟩ := List.mem_filterMap.1 ho
  refine ha.trans (CountsTo.setReg _ _ _ ?_)
  split at hx
  · next h =>
    simp only [Bool.and_eq_true, decide_eq_true_eq, beq_iff_eq, Option.some.injEq] at h hx
    subst hx
    exact hb _ h.1.1.1.1 h.1.1.1.2 h.1.1.2
  · cases hx

/-- Counting touches counter registers alone. -/
theorem Dev.tally_counts (d : Dev) (code kind unit r n : Nat) (hr : r < 104) : CountsTo d (d.tally code kind unit r n) := by
  have dev : ∀ o, 0x0E000000 ≤ o → o < 0x0E000000 + 16 * 64 → (o - 0x0E000000) % 16 = 0 → isCounter (o + 8) = true := by
    intro o h1 h2 h3
    simp only [isCounter, Bool.or_eq_true, Bool.and_eq_true, decide_eq_true_eq]
    omega
  have clu : ∀ o, cluBase r + 0xB000 ≤ o → o < cluBase r + 0xB000 + 16 * 8 → (o - (cluBase r + 0xB000)) % 16 = 0 →
      isCounter (o + 8) = true := by
    intro o h1 h2 h3
    simp only [isCounter, cluBase, Bool.or_eq_true, Bool.and_eq_true, decide_eq_true_eq] at *
    omega
  unfold Dev.tally
  split
  · exact CountsTo.refl d
  · simp only []
    split
    · exact (Dev.tallyAt_counts d _ _ n _ clu).trans (Dev.tallyAt_counts _ _ _ n _ dev)
    · exact Dev.tallyAt_counts d _ _ n _ dev

/-- `e` is `d` but for registers. -/
def RegsOnly (d e : Dev) : Prop := ∃ rs, e = { d with regs := rs }
theorem RegsOnly.refl (d : Dev) : RegsOnly d d := ⟨d.regs, rfl⟩
theorem RegsOnly.trans {d e f : Dev} (h : RegsOnly d e) (k : RegsOnly e f) : RegsOnly d f := by
  obtain ⟨r1, rfl⟩ := h
  obtain ⟨r2, rfl⟩ := k
  exact ⟨r2, rfl⟩
theorem RegsOnly.setReg (d : Dev) (o : Nat) (v : Word) : RegsOnly d (d.setReg o v) := ⟨_, rfl⟩

theorem Dev.tallyAt_regsOnly (d : Dev) (base cnt n : Nat) (ok : Word → Bool) : RegsOnly d (d.tallyAt base cnt n ok) := by
  unfold Dev.tallyAt
  exact foldl_rel (RegsOnly d) _ _ (fun a o _ ha => ha.trans (RegsOnly.setReg _ _ _)) d (RegsOnly.refl d)

theorem Dev.tally_regsOnly (d : Dev) (code kind unit r n : Nat) : RegsOnly d (d.tally code kind unit r n) := by
  unfold Dev.tally
  split
  · exact RegsOnly.refl d
  · simp only []
    split
    · exact (Dev.tallyAt_regsOnly d _ _ n _).trans (Dev.tallyAt_regsOnly _ _ _ n _)
    · exact Dev.tallyAt_regsOnly d _ _ n _

@[simp] theorem Dev.tally_now (d : Dev) (a b u r n : Nat) : (d.tally a b u r n).now = d.now := by
  obtain ⟨rs, h⟩ := Dev.tally_regsOnly d a b u r n; rw [h]
@[simp] theorem Dev.tally_slew (d : Dev) (a b u r n : Nat) : (d.tally a b u r n).slew = d.slew := by
  obtain ⟨rs, h⟩ := Dev.tally_regsOnly d a b u r n; rw [h]
@[simp] theorem Dev.tally_phase (d : Dev) (a b u r n : Nat) : (d.tally a b u r n).phase = d.phase := by
  obtain ⟨rs, h⟩ := Dev.tally_regsOnly d a b u r n; rw [h]
@[simp] theorem Dev.tally_fresh (d : Dev) (a b u r n : Nat) : (d.tally a b u r n).fresh = d.fresh := by
  obtain ⟨rs, h⟩ := Dev.tally_regsOnly d a b u r n; rw [h]
@[simp] theorem Dev.tally_nextTxn (d : Dev) (a b u r n : Nat) : (d.tally a b u r n).nextTxn = d.nextTxn := by
  obtain ⟨rs, h⟩ := Dev.tally_regsOnly d a b u r n; rw [h]
@[simp] theorem Dev.tally_out (d : Dev) (a b u r n : Nat) : (d.tally a b u r n).out = d.out := by
  obtain ⟨rs, h⟩ := Dev.tally_regsOnly d a b u r n; rw [h]
@[simp] theorem Dev.tally_cores (d : Dev) (a b u r n : Nat) : (d.tally a b u r n).cores = d.cores := by
  obtain ⟨rs, h⟩ := Dev.tally_regsOnly d a b u r n; rw [h]
@[simp] theorem Dev.tally_gws (d : Dev) (a b u r n : Nat) : (d.tally a b u r n).gws = d.gws := by
  obtain ⟨rs, h⟩ := Dev.tally_regsOnly d a b u r n; rw [h]
@[simp] theorem Dev.tally_routers (d : Dev) (a b u r n : Nat) : (d.tally a b u r n).routers = d.routers := by
  obtain ⟨rs, h⟩ := Dev.tally_regsOnly d a b u r n; rw [h]
@[simp] theorem Dev.tally_mems (d : Dev) (a b u r n : Nat) : (d.tally a b u r n).mems = d.mems := by
  obtain ⟨rs, h⟩ := Dev.tally_regsOnly d a b u r n; rw [h]
@[simp] theorem Dev.tally_ports (d : Dev) (a b u r n : Nat) : (d.tally a b u r n).ports = d.ports := by
  obtain ⟨rs, h⟩ := Dev.tally_regsOnly d a b u r n; rw [h]
@[simp] theorem Dev.tally_mem (d : Dev) (a b u r n : Nat) : (d.tally a b u r n).mem = d.mem := by
  obtain ⟨rs, h⟩ := Dev.tally_regsOnly d a b u r n; rw [h]
@[simp] theorem Dev.tally_memErr (d : Dev) (a b u r n : Nat) : (d.tally a b u r n).memErr = d.memErr := by
  obtain ⟨rs, h⟩ := Dev.tally_regsOnly d a b u r n; rw [h]
@[simp] theorem Dev.tally_arrived (d : Dev) (a b u r n : Nat) : (d.tally a b u r n).arrived = d.arrived := by
  obtain ⟨rs, h⟩ := Dev.tally_regsOnly d a b u r n; rw [h]
@[simp] theorem Dev.tally_map (d : Dev) (a b u r n : Nat) : (d.tally a b u r n).map = d.map := by
  obtain ⟨rs, h⟩ := Dev.tally_regsOnly d a b u r n; rw [h]
@[simp] theorem Dev.tally_step (d : Dev) (a b u r n : Nat) : (d.tally a b u r n).step = d.step := by
  obtain ⟨rs, h⟩ := Dev.tally_regsOnly d a b u r n; rw [h]
@[simp] theorem Dev.tally_heal (d : Dev) (a b u r n : Nat) : (d.tally a b u r n).heal = d.heal := by
  obtain ⟨rs, h⟩ := Dev.tally_regsOnly d a b u r n; rw [h]
@[simp] theorem Dev.tally_cob (d : Dev) (a b u r n : Nat) : (d.tally a b u r n).cob = d.cob := by
  obtain ⟨rs, h⟩ := Dev.tally_regsOnly d a b u r n; rw [h]
@[simp] theorem Dev.tally_host (d : Dev) (a b u r n : Nat) : (d.tally a b u r n).host = d.host := by
  obtain ⟨rs, h⟩ := Dev.tally_regsOnly d a b u r n; rw [h]
@[simp] theorem Dev.tally_cks (d : Dev) (a b u r n : Nat) : (d.tally a b u r n).cks = d.cks := by
  obtain ⟨rs, h⟩ := Dev.tally_regsOnly d a b u r n; rw [h]
@[simp] theorem Dev.tally_weir (d : Dev) (a b u r n : Nat) : (d.tally a b u r n).weir = d.weir := by
  obtain ⟨rs, h⟩ := Dev.tally_regsOnly d a b u r n; rw [h]
@[simp] theorem Dev.tally_power (d : Dev) (a b u r n : Nat) : (d.tally a b u r n).power = d.power := by
  obtain ⟨rs, h⟩ := Dev.tally_regsOnly d a b u r n; rw [h]
@[simp] theorem Dev.tally_core (d : Dev) (a b u r n j : Nat) : (d.tally a b u r n).core j = d.core j := by
  simp [Dev.core]

theorem routerOf_lt {c : Nat} (h : c < numCores) : routerOf c < 104 := by
  unfold numCores at h; unfold routerOf; omega

/-! ### An instruction of one core -/

theorem CoreOnly.refl (c : Nat) (d : Dev) : CoreOnly c d d := by constructor <;> simp

theorem CoreOnly.trans {c : Nat} {d e f : Dev} (h : CoreOnly c d e) (k : CoreOnly c e f) : CoreOnly c d f where
  cores j hj := (k.cores j hj).trans (h.cores j hj)
  mem := by simp only [k.mem, h.mem, and_self]
  regs o ho := (k.regs o ho).trans (h.regs o ho)
  time := by simp only [k.time, h.time, and_self]
  net := by simp only [k.net, h.net, and_self]
  engines j := (k.engines j).trans (h.engines j)
  control := by simp only [k.control, h.control, and_self]
  around := by simp only [k.around, h.around, and_self]

theorem CoreOnly.setCore (c : Nat) (d : Dev) (k : Core) : CoreOnly c d (d.setCore c k) :=
  { CoreOnly.refl c d with cores := fun j hj => by simp [Dev.core_setCore, hj] }
theorem CoreOnly.modCore (c : Nat) (d : Dev) (f : Core → Core) : CoreOnly c d (d.modCore c f) := CoreOnly.setCore c d _
theorem CoreOnly.modLog (c : Nat) (d : Dev) (f : LCore → LCore) : CoreOnly c d (d.modLog c f) := CoreOnly.setCore c d _
theorem CoreOnly.emit (c : Nat) (d : Dev) (o : Out) : CoreOnly c d (d.emit o) := { CoreOnly.refl c d with }
theorem CoreOnly.counts (c : Nat) {d e : Dev} (h : CountsTo d e) : CoreOnly c d e := by
  have hr := h.reg
  obtain ⟨rs, rfl, _⟩ := h
  exact { CoreOnly.refl c d with regs := hr }
theorem CoreOnly.setEdge (c : Nat) (d : Dev) (e b st : Nat) (x : Edge) : CoreOnly c d (d.setEdge e b st x) := by
  refine { CoreOnly.refl c d with engines := fun k => ?_ }
  unfold Dev.setEdge
  simp only [Dev.memc_setMemc]
  split
  · next h => rw [h]
  · rfl
theorem CoreOnly.cleared (c : Nat) (d : Dev) : CoreOnly c d { d with out := [] } := { CoreOnly.refl c d with }

theorem CoreOnly.giveCredit (c c' q n g : Nat) (d : Dev) : CoreOnly c d (d.giveCredit c' q n g) := by
  unfold Dev.giveCredit
  split
  · simp only []
    split
    · exact CoreOnly.setEdge _ _ _ _ _ _
    · exact CoreOnly.refl _ _
  · exact CoreOnly.emit _ _ _

theorem CoreOnly.edgeArrival (c e b : Nat) (w : StitchWord) (d : Dev) : CoreOnly c d (d.edgeArrival e b w) := by
  unfold Dev.edgeArrival
  simp only []
  split
  · exact CoreOnly.setEdge _ _ _ _ _ _
  · exact CoreOnly.emit _ _ _

@[simp] theorem Dev.setEdge_core (d : Dev) (e b st c : Nat) (x : Edge) : (d.setEdge e b st x).core c = d.core c := rfl
@[simp] theorem Dev.emit_core (d : Dev) (o : Out) (c : Nat) : (d.emit o).core c = d.core c := rfl
@[simp] theorem Dev.giveCredit_core (d : Dev) (c q n g j : Nat) : (d.giveCredit c q n g).core j = d.core j := by
  unfold Dev.giveCredit
  split
  · simp only []
    split <;> rfl
  · rfl
@[simp] theorem Dev.edgeArrival_core (d : Dev) (e b : Nat) (w : StitchWord) (j : Nat) : (d.edgeArrival e b w).core j = d.core j := by
  unfold Dev.edgeArrival
  simp only []
  split <;> rfl
theorem CoreOnly.popQueue (c q : Nat) (d : Dev) : CoreOnly c d (d.popQueue c q) := by
  unfold Dev.popQueue
  exact foldl_rel (CoreOnly c d) _ _ (fun a w _ h => h.trans (CoreOnly.giveCredit _ _ _ _ _ _)) _ (CoreOnly.setCore _ _ _)

theorem CoreOnly.takeLocal (c q n : Nat) (d : Dev) : CoreOnly c d (d.takeLocal c q n) := by
  induction n generalizing d with
  | zero => exact CoreOnly.popQueue c q d
  | succ n ih =>
    simp only [Dev.takeLocal]
    split
    · exact (CoreOnly.setCore _ _ _).trans (ih _)
    · exact CoreOnly.popQueue c q d

/-- A core but for its inbound queues. -/
def OnlyQueues (k m : Core) : Prop := ∃ x, m = { k with log := { k.log with inq := x } }

theorem OnlyQueues.trans {k m n : Core} (h : OnlyQueues k m) (g : OnlyQueues m n) : OnlyQueues k n := by
  obtain ⟨x, rfl⟩ := h
  obtain ⟨y, rfl⟩ := g
  exact ⟨y, rfl⟩

theorem Dev.popQueue_core (d : Dev) (c q : Nat) : OnlyQueues (d.core c) ((d.popQueue c q).core c) := by
  unfold Dev.popQueue
  simp only []
  refine foldl_rel (fun e : Dev => OnlyQueues (d.core c) (e.core c)) _ _ (fun a w _ h => by simpa using h) _ ?_
  exact ⟨_, by simp [Core.setInQ]; rfl⟩

theorem Dev.takeLocal_core (d : Dev) (c q n : Nat) : OnlyQueues (d.core c) ((d.takeLocal c q n).core c) := by
  induction n generalizing d with
  | zero => exact Dev.popQueue_core d c q
  | succ n ih =>
    simp only [Dev.takeLocal]
    split
    · exact OnlyQueues.trans ⟨_, by simp [Core.setInQ]; rfl⟩ (ih _)
    · exact Dev.popQueue_core d c q

/-! ### Firing -/

/-- A core as an instruction without another effect leaves it before it acts: inbound queues and the discard count alone differ. -/
structure Untouched (k m : Core) : Prop where
  state : m.log.state = k.log.state
  keeps : LogKeeps [] [] 0 0 k.log m.log
  spad  : m.log.spad = k.log.spad
  flow  : m.log.lc = k.log.lc ∧ m.log.loops = k.log.loops ∧ m.log.pc = k.log.pc
  banks : m.sil.powered = k.sil.powered ∧ m.sil.waking = k.sil.waking ∧ m.sil.errs = k.sil.errs
  rest  : m.log.outq = k.log.outq ∧ m.log.badPar = k.log.badPar ∧ m.log.load = k.log.load ∧ m.log.probe = k.log.probe ∧
    m.log.verdict = k.log.verdict
  regs  : ∀ o, o ≠ Fld.CORE_STITCH_DISCARD_TAKEN.off → m.reg o = k.reg o

theorem LogKeeps.refl (l : LCore) : LogKeeps [] [] 0 0 l l :=
  ⟨fun _ _ => rfl, fun _ _ => rfl, rfl, fun _ => ⟨rfl, rfl, rfl⟩, ⟨rfl, rfl, rfl, rfl, rfl, rfl⟩, fun _ _ => rfl, ⟨rfl, rfl, rfl⟩⟩
theorem LogKeeps.of_same {l m : LCore} (h1 : m.s = l.s) (h2 : m.v = l.v) (h3 : m.p = l.p)
    (h4 : ∀ n, (m.tile n).elems = (l.tile n).elems ∧ (m.tile n).isInt = (l.tile n).isInt ∧ (m.tile n).sat = (l.tile n).sat)
    (h5 : m.vu = l.vu ∧ m.mu = l.mu ∧ m.ops = l.ops ∧ m.moves = l.moves ∧ m.ctPend = l.ctPend ∧ m.ctStat = l.ctStat)
    (h6 : m.spad = l.spad) (h7 : m.imem = l.imem ∧ m.mq = l.mq ∧ m.sc = l.sc) : LogKeeps [] [] 0 0 l m :=
  ⟨fun _ _ => by simp [LCore.sreg, h1], fun _ _ => by simp [LCore.vreg, h2], h3, h4, h5, fun _ _ => by rw [h6], h7⟩
theorem LogKeeps.trans {ss vs : List Nat} {lo hi : Nat} {k l m : LCore} (h : LogKeeps [] [] 0 0 k l) (g : LogKeeps ss vs lo hi l m) :
    LogKeeps ss vs lo hi k m where
  scalars n hn := (g.scalars n hn).trans (h.scalars n List.not_mem_nil)
  vectors n hn := (g.vectors n hn).trans (h.vectors n List.not_mem_nil)
  preds := g.preds.trans h.preds
  tiles n := ⟨(g.tiles n).1.trans (h.tiles n).1, (g.tiles n).2.1.trans (h.tiles n).2.1, (g.tiles n).2.2.trans (h.tiles n).2.2⟩
  flight := ⟨g.flight.1.trans h.flight.1, g.flight.2.1.trans h.flight.2.1, g.flight.2.2.1.trans h.flight.2.2.1,
    g.flight.2.2.2.1.trans h.flight.2.2.2.1, g.flight.2.2.2.2.1.trans h.flight.2.2.2.2.1,
    g.flight.2.2.2.2.2.trans h.flight.2.2.2.2.2⟩
  spad a ha := (g.spad a ha).trans (h.spad a (by omega))
  memory := ⟨g.memory.1.trans h.memory.1, g.memory.2.1.trans h.memory.2.1, g.memory.2.2.trans h.memory.2.2⟩

theorem Untouched.refl (k : Core) : Untouched k k :=
  ⟨rfl, LogKeeps.refl _, rfl, ⟨rfl, rfl, rfl⟩, ⟨rfl, rfl, rfl⟩, ⟨rfl, rfl, rfl, rfl, rfl⟩, fun _ _ => rfl⟩
theorem Untouched.trans {k l m : Core} (h : Untouched k l) (g : Untouched l m) : Untouched k m :=
  ⟨g.state.trans h.state, h.keeps.trans g.keeps, g.spad.trans h.spad,
    ⟨g.flow.1.trans h.flow.1, g.flow.2.1.trans h.flow.2.1, g.flow.2.2.trans h.flow.2.2⟩,
    ⟨g.banks.1.trans h.banks.1, g.banks.2.1.trans h.banks.2.1, g.banks.2.2.trans h.banks.2.2⟩,
    ⟨g.rest.1.trans h.rest.1, g.rest.2.1.trans h.rest.2.1, g.rest.2.2.1.trans h.rest.2.2.1,
      g.rest.2.2.2.1.trans h.rest.2.2.2.1, g.rest.2.2.2.2.trans h.rest.2.2.2.2⟩,
    fun o ho => (g.regs o ho).trans (h.regs o ho)⟩
theorem OnlyQueues.untouched {k m : Core} (h : OnlyQueues k m) : Untouched k m := by
  obtain ⟨x, rfl⟩ := h
  exact ⟨rfl, LogKeeps.of_same rfl rfl rfl (fun _ => ⟨rfl, rfl, rfl⟩) ⟨rfl, rfl, rfl, rfl, rfl, rfl⟩ rfl ⟨rfl, rfl, rfl⟩, rfl,
    ⟨rfl, rfl, rfl⟩, ⟨rfl, rfl, rfl⟩, ⟨rfl, rfl, rfl, rfl, rfl⟩, fun _ _ => rfl⟩
theorem Untouched.discard (k : Core) (v : Word) : Untouched k (k.setReg Fld.CORE_STITCH_DISCARD_TAKEN.off v) := by
  have h : ∀ o, o ≠ Fld.CORE_STITCH_DISCARD_TAKEN.off → (k.setReg Fld.CORE_STITCH_DISCARD_TAKEN.off v).reg o = k.reg o :=
    fun o ho => Core.reg_setReg_of_ne k v ho
  obtain ⟨a, b, e⟩ := Core.setReg_parts k Fld.CORE_STITCH_DISCARD_TAKEN.off v
  rw [e] at h ⊢
  exact ⟨rfl, LogKeeps.of_same rfl rfl rfl (fun _ => ⟨rfl, rfl, rfl⟩) ⟨rfl, rfl, rfl, rfl, rfl, rfl⟩ rfl ⟨rfl, rfl, rfl⟩, rfl,
    ⟨rfl, rfl, rfl⟩, ⟨rfl, rfl, rfl⟩, ⟨rfl, rfl, rfl, rfl, rfl⟩, h⟩

theorem LCore.newStep_tile (l : LCore) (n t : Nat) : ((l.newStep n).tile t).elems = (l.tile t).elems ∧
    ((l.newStep n).tile t).isInt = (l.tile t).isInt ∧ ((l.newStep n).tile t).sat = (l.tile t).sat := by
  have key : ∀ (ns : List Nat) (m : NMap Tile), let m' := ns.foldl (fun m t =>
      NMap.set {} m t { NMap.get {} m t with clears := 0, cleared := false }) m
      (NMap.get {} m' t).elems = (NMap.get {} m t).elems ∧ (NMap.get {} m' t).isInt = (NMap.get {} m t).isInt ∧
        (NMap.get {} m' t).sat = (NMap.get {} m t).sat := by
    intro ns
    induction ns with
    | nil => intro m; exact ⟨rfl, rfl, rfl⟩
    | cons a ns ih =>
      intro m
      simp only [List.foldl_cons]
      obtain ⟨h1, h2, h3⟩ := ih (NMap.set {} m a { NMap.get {} m a with clears := 0, cleared := false })
      rw [h1, h2, h3, NMap.get_set]
      split
      · next e => subst e; exact ⟨rfl, rfl, rfl⟩
      · exact ⟨rfl, rfl, rfl⟩
  unfold LCore.newStep LCore.tile
  split
  · exact ⟨rfl, rfl, rfl⟩
  · exact key _ _

theorem Untouched.newStep (k : Core) (n : Nat) : Untouched k
    { log := k.log.newStep n, sil := { k.sil with stall := 0, block := 0, blocked := false } } :=
  ⟨by simp, LogKeeps.of_same (by simp) (by simp) (by simp) (fun t => LCore.newStep_tile k.log n t) (by simp) (by simp) (by simp),
    by simp, by simp,
    ⟨rfl, rfl, rfl⟩, by simp, fun _ _ => by simp [Core.reg]⟩

theorem OpDef.takeWords_spec (o : OpDef) (i : Iss) (d : Dev) (hc : i.c < numCores) :
    CoreOnly i.c d (o.takeWords i d) ∧ Untouched (d.core i.c) ((o.takeWords i d).core i.c) := by
  have h1 : ∀ e : Dev, CoreOnly i.c d e ∧ Untouched (d.core i.c) (e.core i.c) → ∀ x : Nat × Nat,
      CoreOnly i.c d (match i.k.condStream x.1 x.2 with | some (q, n) => e.takeLocal i.c q n | none => e) ∧
      Untouched (d.core i.c)
        ((match i.k.condStream x.1 x.2 with | some (q, n) => e.takeLocal i.c q n | none => e).core i.c) := by
    intro e he x
    split
    · exact ⟨he.1.trans (CoreOnly.takeLocal _ _ _ _), he.2.trans (Dev.takeLocal_core _ _ _ _).untouched⟩
    · exact he
  have h2 := foldl_rel (fun e : Dev => CoreOnly i.c d e ∧ Untouched (d.core i.c) (e.core i.c)) _ (o.conds i.w)
    (fun e x _ he => h1 e he x) d ⟨CoreOnly.refl _ _, Untouched.refl _⟩
  unfold OpDef.takeWords
  simp only []
  split
  · exact h2
  · refine ⟨(h2.1.trans (CoreOnly.modCore _ _ _)).trans (CoreOnly.counts _ (Dev.tally_counts _ _ _ _ _ _ (routerOf_lt hc))), ?_⟩
    rw [Dev.tally_core, Dev.core_modCore_self]
    exact h2.2.trans (by unfold Core.addFld Core.setFld; exact Untouched.discard _ _)

/-- The state in which an issuing instruction acts: its first issue of a step noted, its words taken. -/
def OpDef.begun (o : OpDef) (i : Iss) (d : Dev) : Dev :=
  o.takeWords i (d.modCore i.c fun k =>
    { log := k.log.newStep d.stepNo, sil := { k.sil with stall := 0, block := 0, blocked := false } })

theorem OpDef.fire_eq (o : OpDef) (i : Iss) (d : Dev) (h : o.badWord i = none) :
    o.fire i d = ((o.run i (o.begun i d)).modLog i.c fun l => l.advance (o.last i) (o.next i)).tally 0x001 1 i.c (routerOf i.c) 1 := by
  simp only [OpDef.fire, h]
  rfl

theorem OpDef.begun_spec (o : OpDef) (i : Iss) (d : Dev) (hc : i.c < numCores) :
    CoreOnly i.c d (o.begun i d) ∧ Untouched (d.core i.c) ((o.begun i d).core i.c) := by
  have h := OpDef.takeWords_spec o i (d.modCore i.c fun k =>
    { log := k.log.newStep d.stepNo, sil := { k.sil with stall := 0, block := 0, blocked := false } }) hc
  refine ⟨(CoreOnly.modCore _ _ _).trans h.1, ?_⟩
  have h2 := h.2
  rw [Dev.core_modCore_self] at h2
  exact (Untouched.newStep _ _).trans h2

/-! ### Issuing -/

/-- An instruction that issues is the one at the pc of its core, of the opcode the command names, in a running core. -/
theorem OpDef.verdict_go {o : OpDef} {d : Dev} {c : Nat} {i : Iss} (h : o.verdict d c = .go i) :
    i = o.iss d c ∧ opcodeOf i.w = o.code ∧ d.coreState c = .running ∧ o.atPc i = [] ∧ o.held i = false ∧
      (∀ x ∈ o.conds i.w, x.2 ≤ i.k.counter x.1) ∧ (∀ t ∈ o.tags i.w, i.k.log.pending t = false) ∧
      (∀ r ∈ o.uses i.w, r ∉ i.k.log.inFlight) ∧ (∀ t ∈ o.tiles i.w, t ∉ i.k.log.tilesRead) ∧ sortErrs (o.late i) = [] := by
  unfold OpDef.verdict at h
  simp only [] at h
  split at h
  · cases h
  · next h0 =>
    split at h
    · cases h
    · split at h
      · cases h
      · split at h
        · cases h
        · split at h
          · cases h
          · next hop =>
            split at h
            · next hat =>
              unfold OpDef.ready at h
              split at h
              · cases h
              · next ha =>
                split at h
                · cases h
                · next hb =>
                  split at h
                  · cases h
                  · next hd =>
                    split at h
                    · cases h
                    · next hl =>
                      split at h
                      · cases h
                      · next hh =>
                        cases h
                        simp only [Bool.or_eq_true, not_or, Bool.not_eq_true, List.any_eq_false, List.contains_iff_mem,
                          decide_eq_true_eq, Nat.not_lt] at ha hb hd
                        refine ⟨rfl, by simpa using hop, ?_, hat, by simpa using hh, ha, hb, hd.1, hd.2, hl⟩
                        by_cases hr : d.coreState c = .running
                        · exact hr
                        · exact absurd (by simp [hr]) h0
            · exact absurd h (by simp)

/-- The parts of an issuing instruction are those of its core and of its word. -/
theorem OpDef.verdict_parts {o : OpDef} {d : Dev} {c : Nat} {i : Iss} (h : o.verdict d c = .go i) :
    i.c = c ∧ i.k = d.core c ∧ i.pc = (d.core c).log.pc ∧ i.w = NMap.get 0 (d.core c).log.imem (d.core c).log.pc ∧
      i.lid = d.lid c ∧ i.step = d.stepNo := by
  rw [(OpDef.verdict_go h).1]
  exact ⟨rfl, rfl, rfl, rfl, rfl, rfl⟩

/-- What the last command sent has no part in issuing. -/
theorem OpDef.verdict_out (o : OpDef) (d : Dev) (c : Nat) : o.verdict ({ d with out := [] }) c = o.verdict d c := rfl

/-- The command of an instruction that issues fires it. -/
theorem coreCmd_of_issues {o : OpDef} {c : Nat} {s : State} {i : Iss} (h : Issues o s c i) :
    coreCmd o c s = .next { pending := s.pending, dev := o.fire i { s.dev with out := [] } } := by
  unfold coreCmd
  rw [onUnit_of _ _ (by simpa using h.1)]
  unfold issue
  rw [OpDef.verdict_out, h.2.1]

/-- What an issuing instruction whose effect is `o.run` leaves: the terms of every completion of a core instruction. -/
theorem coreCmd_fires {o : OpDef} {c : Nat} {s : State} {i : Iss} (h : Issues o s c i) :
    ∃ b, CoreOnly c s.dev b ∧ Untouched (s.dev.core c) (b.core c) ∧ b = o.begun i ({ s.dev with out := [] }) ∧
      coreCmd o c s = .next
        { s with dev := ((o.run i b).modLog c fun l => l.advance (o.last i) (o.next i)).tally 0x001 1 c (routerOf c) 1 } := by
  have hc := (OpDef.verdict_parts h.2.1).1
  obtain ⟨h1, h2⟩ := OpDef.begun_spec o i { s.dev with out := [] } (by rw [hc]; exact h.1)
  rw [hc] at h1 h2
  refine ⟨_, (CoreOnly.cleared c s.dev).trans h1, h2, rfl, ?_⟩
  rw [coreCmd_of_issues h, OpDef.fire_eq _ _ _ h.2.2, hc]

/-- A completion of a core instruction, from what holds after its effect. -/
theorem Issues.completes {o : OpDef} {c : Nat} {s : State} {i : Iss} {mk : Nat → Instr} (h : Issues o s c i)
    (hx : ∀ c s, exec (mk c) s = coreCmd o c s) (P : Dev → Prop)
    (hP : ∀ b, CoreOnly c s.dev b → Untouched (s.dev.core c) (b.core c) → i.c = c → i.k = s.dev.core c →
      P (((o.run i b).modLog c fun l => l.advance (o.last i) (o.next i)).tally 0x001 1 c (routerOf c) 1)) :
    opcodeOf i.w = o.code ∧ Completes (mk c) s P := by
  obtain ⟨b, h1, h2, _, h3⟩ := coreCmd_fires h
  have hp := OpDef.verdict_parts h.2.1
  exact ⟨(OpDef.verdict_go h.2.1).2.1, _, (hx c s).trans h3, rfl, hP b h1 h2 hp.1 hp.2.1⟩

/-- What the advance and the count after an effect leave. -/
theorem CoreOnly.finish {c : Nat} {d e : Dev} (hc : c < numCores) (h : CoreOnly c d e) (f : LCore → LCore) :
    CoreOnly c d ((e.modLog c f).tally 0x001 1 c (routerOf c) 1) :=
  (h.trans (CoreOnly.modLog _ _ _)).trans (CoreOnly.counts _ (Dev.tally_counts _ _ _ _ _ _ (routerOf_lt hc)))

theorem LogKeeps.advance {ss vs : List Nat} {lo hi : Nat} {k l : LCore} (h : LogKeeps ss vs lo hi k l) (n : Nat)
    (t : Option Nat) : LogKeeps ss vs lo hi k (l.advance n t) :=
  ⟨fun m hm => by simpa [LCore.sreg] using h.scalars m hm, fun m hm => by simpa [LCore.vreg] using h.vectors m hm,
    by simpa using h.preds, fun m => by simpa [LCore.tile] using h.tiles m, by simpa using h.flight,
    fun a ha => by simpa using h.spad a ha, by simpa using h.memory⟩

theorem LogKeeps.setS {vs : List Nat} {lo hi : Nat} {k l : LCore} (h : LogKeeps [] vs lo hi k l) (n : Nat) (x : Word) :
    LogKeeps [n] vs lo hi k (l.setS n x) := by
  refine ⟨fun m hm => ?_, h.vectors, h.preds, h.tiles, h.flight, h.spad, h.memory⟩
  rw [LCore.sreg_setS, if_neg (by simpa using hm)]
  exact h.scalars m List.not_mem_nil

theorem LogKeeps.setV {ss : List Nat} {lo hi : Nat} {k l : LCore} (h : LogKeeps ss [] lo hi k l) (n : Nat) (x : Line) :
    LogKeeps ss [n] lo hi k (l.setV n x) := by
  refine ⟨h.scalars, fun m hm => ?_, h.preds, h.tiles, h.flight, h.spad, h.memory⟩
  rw [LCore.vreg_setV, if_neg (by simpa using hm)]
  exact h.vectors m List.not_mem_nil

theorem Goes.advance {k l : LCore} (h : l.lc = k.lc ∧ l.loops = k.loops ∧ l.pc = k.pc) (n : Nat) (t : Option Nat) :
    Goes k (l.advance n t) n t := by
  obtain ⟨h1, h2, _⟩ := h
  cases t <;> simp [Goes, LCore.advance, h1, h2]

/-- A core that issues is RUNNING. -/
theorem Issues.running {o : OpDef} {s : State} {c : Nat} {i : Iss} (h : Issues o s c i) : (s.dev.core c).log.state = .running := by
  have h1 := (OpDef.verdict_go h.2.1).2.2.1
  unfold Dev.coreState at h1
  simp only [] at h1
  split at h1
  · cases h1
  · split at h1
    · exact h1
    · cases h1

end Sys2Proof.Machine
end

