-- ==== Sys2Proof/Laws/Lanes.lean ====
section
/-!
SUPPORT. Lanes and bytes of a line: reading one back from a line built from a list.
-/
namespace Sys2Proof.Machine

/-- Digit k of a number built from the base-2^32 digits of a list. -/
theorem foldr_lanes : ∀ (l : List Lane) (k : Nat), k < l.length →
    l.foldr (fun x a => x.toNat + 2 ^ 32 * a) 0 / 2 ^ (32 * k) % 2 ^ 32 = (l.getD k 0).toNat
  | [], k, h => absurd h (Nat.not_lt_zero k)
  | x :: l, 0, _ => by
    rw [List.foldr_cons, Nat.mul_zero, Nat.pow_zero, Nat.div_one, Nat.add_mul_mod_self_left, Nat.mod_eq_of_lt x.isLt]
    rfl
  | x :: l, k + 1, h => by
    have e : (2 : Nat) ^ (32 * (k + 1)) = 2 ^ 32 * 2 ^ (32 * k) := by rw [Nat.mul_add, Nat.pow_add, Nat.mul_comm]
    rw [List.foldr_cons, e, ← Nat.div_div_eq_div_mul, Nat.add_mul_div_left _ _ (Nat.two_pow_pos 32),
      Nat.div_eq_of_lt x.isLt, Nat.zero_add, foldr_lanes l k (Nat.lt_of_succ_lt_succ h)]
    rfl

theorem mod_div_mod (a n m k : Nat) (h : k + m ≤ n) : a % 2 ^ n / 2 ^ k % 2 ^ m = a / 2 ^ k % 2 ^ m := by
  apply Nat.eq_of_testBit_eq
  intro b
  simp only [Nat.testBit_mod_two_pow, Nat.testBit_div_two_pow]
  by_cases hb : b < m
  · have : b + k < n := by omega
    simp [hb, this]
  · simp [hb]

/-- Lane j of a line built lane by lane. -/
theorem lane_ofLanes (f : Nat → Lane) (j : Nat) (hj : j < 16) : lane (ofLanes (perLane f)) j = f j := by
  apply BitVec.eq_of_toNat_eq
  have hl : (perLane f).take 16 = perLane f := List.take_of_length_le (by simp [perLane])
  have hg : (perLane f).getD j 0 = f j := by simp [perLane, hj]
  have h := foldr_lanes (perLane f) j (by simpa [perLane] using hj)
  rw [hg] at h
  unfold lane ofLanes
  rw [BitVec.extractLsb'_toNat, BitVec.toNat_ofNat, Nat.shiftRight_eq_div_pow, hl, mod_div_mod _ _ _ _ (by omega), h]

end Sys2Proof.Machine
end

