-- ==== Sys2Proof/Laws/Mem.lean ====
section
/-!
SUPPORT. The byte memory stays in its canonical form: every operation that reads, writes, corrects or fills memory keeps it, and what
such an operation does beside that leaves memory alone.
-/
namespace Sys2Proof.Machine

/-! ### Byte maps -/

theorem putBytes_wf : ∀ (bs : List Byte) (m : NMap Byte) (a : Nat), NMap.wf 0 m = true → NMap.wf 0 (putBytes m a bs) = true
  | [], _, _, h => h
  | b :: bs, m, a, h => putBytes_wf bs _ _ (NMap.wf_set 0 m a b h)

/-- What a run of writes leaves at a byte: the byte written there, or the old one. -/
theorem putBytes_get : ∀ (bs : List Byte) (m : NMap Byte) (a x : Nat),
    NMap.get 0 (putBytes m a bs) x = if a ≤ x ∧ x < a + bs.length then bs.getD (x - a) 0 else NMap.get 0 m x
  | [], m, a, x => by rw [putBytes, List.length_nil, if_neg (by omega)]
  | b :: bs, m, a, x => by
    rw [putBytes, putBytes_get bs, NMap.get_set]
    rcases Nat.lt_trichotomy x a with h | h | h
    · rw [if_neg (by omega), if_neg (by omega), if_neg (by omega)]
    · subst h
      rw [if_neg (by omega), if_pos rfl, if_pos (by simp only [List.length_cons]; omega), Nat.sub_self]
      rfl
    · rw [show x - a = (x - (a + 1)) + 1 by omega]
      by_cases hx : x < a + 1 + bs.length
      · rw [if_pos (by omega), if_pos (by simp only [List.length_cons]; omega)]
        rfl
      · rw [if_neg (by omega), if_neg (by omega), if_neg (by simp only [List.length_cons]; omega)]

theorem getBytes_get (m : NMap Byte) (a n i : Nat) (h : i < n) : (getBytes m a n)[i]? = some (NMap.get 0 m (a + i)) := by
  simp [getBytes, h]

theorem NMap.above_filter {α : Type} (p : Nat × α → Bool) (lo : Nat) : ∀ m : NMap α, (∀ d [DecidableEq α], NMap.wf d m = true →
    NMap.above lo m → NMap.above lo (m.filter p))
  | [], _, _, _, h => h
  | (i, x) :: m, d, _, h, ha => by
    obtain ⟨_, h2, h3⟩ := (NMap.wf_cons d i x m).1 h
    rw [List.filter_cons]
    split
    · exact ha
    · exact NMap.above_filter p lo m d h3 (NMap.above_trans ha h2)

theorem NMap.wf_filter {α : Type} [DecidableEq α] (d : α) (p : Nat × α → Bool) : ∀ m : NMap α, NMap.wf d m = true →
    NMap.wf d (m.filter p) = true
  | [], h => h
  | (i, x) :: m, h => by
    obtain ⟨h1, h2, h3⟩ := (NMap.wf_cons d i x m).1 h
    rw [List.filter_cons]
    split
    · exact (NMap.wf_cons d i x _).2 ⟨h1, NMap.above_filter p i m d h3 h2, NMap.wf_filter d p m h3⟩
    · exact NMap.wf_filter d p m h3

/-! ### What leaves memory alone -/

/-- A fold of updates that leave memory alone leaves it alone. -/
theorem foldl_mem {β : Type} (f : Dev → β → Dev) (h : ∀ d b, (f d b).mem = d.mem) (l : List β) (d : Dev) : (l.foldl f d).mem = d.mem :=
  foldl_keep Dev.mem f h l d

@[simp] theorem Dev.wantTest_mem (d : Dev) (kind unit sub code : Nat) : (d.wantTest kind unit sub code).mem = d.mem := by
  unfold Dev.wantTest; split <;> rfl
@[simp] theorem Dev.stopEngines_mem (d : Dev) : d.stopEngines.mem = d.mem := by
  unfold Dev.stopEngines
  refine foldl_mem _ (fun d k => ?_) _ _
  exact (foldl_mem _ (fun d r => Dev.setFld_mem _ _ _) _ _).trans (Dev.setMemc_mem _ _ _)
@[simp] theorem Dev.weltAbort_mem (d : Dev) : d.weltAbort.mem = d.mem := by
  unfold Dev.weltAbort; dsimp only; exact Dev.stopEngines_mem d
@[simp] theorem Dev.scheduleForce_mem (d : Dev) : d.scheduleForce.mem = d.mem := by
  unfold Dev.scheduleForce; split <;> rfl
@[simp] theorem Dev.endStep_mem (d : Dev) (st cause : Nat) : (d.endStep st cause).mem = d.mem := by
  unfold Dev.endStep
  dsimp only
  exact (Dev.scheduleForce_mem _).trans ((Dev.addDue_mem _ _).trans ((Dev.weltAbort_mem _).trans
    ((Dev.setFld_mem _ _ _).trans (Dev.setFld_mem _ _ _))))
theorem Dev.sendOne_mem {d e : Dev} {node vc : Nat} (h : d.sendOne node vc = some e) : e.mem = d.mem := by
  unfold Dev.sendOne at h
  dsimp only at h
  repeat' split at h
  all_goals cases h
  all_goals simp
theorem Dev.drainN_mem (node : Nat) : ∀ (n : Nat) (d : Dev), (d.drainN node n).mem = d.mem
  | 0, _ => rfl
  | n + 1, d => by
    unfold Dev.drainN
    split
    · next e h =>
      refine (Dev.drainN_mem node n e).trans ?_
      split at h
      · next h1 => cases h; exact Dev.sendOne_mem h1
      · exact Dev.sendOne_mem h
    · rfl
@[simp] theorem Dev.inject_mem (d : Dev) (node : Nat) (p : Packet) : (d.inject node p).mem = d.mem := by
  unfold Dev.inject Dev.send Dev.drain; exact (Dev.drainN_mem node _ _).trans (Dev.setSend_mem _ _ _ _)
@[simp] theorem Dev.lineCast_mem (d : Dev) (dim hi : Nat) (p : Packet) : (d.lineCast dim hi p).mem = d.mem := by
  simp [Dev.lineCast, apply_ite Dev.mem]
@[simp] theorem Dev.sendVerdict_mem (d : Dev) (dim step : Nat) (commit : Bool) : (d.sendVerdict dim step commit).mem = d.mem := by
  simp [Dev.sendVerdict]
@[simp] theorem Dev.passVerdict_mem (d : Dev) (step : Nat) (commit : Bool) : (d.passVerdict step commit).mem = d.mem := by
  simp [Dev.passVerdict, apply_ite Dev.mem]
@[simp] theorem Dev.sendFail_mem (d : Dev) (step : Nat) : (d.sendFail step).mem = d.mem := by
  unfold Dev.sendFail; split <;> simp
@[simp] theorem Dev.ownFail_mem (d : Dev) : d.ownFail.mem = d.mem := by
  unfold Dev.ownFail; split
  · rfl
  · exact Dev.sendFail_mem _ _
@[simp] theorem Dev.lateVerdict_mem (d : Dev) (x : Late) (commit : Bool) : (d.lateVerdict x commit).mem = d.mem := by
  unfold Dev.lateVerdict; split <;> rfl
@[simp] theorem Dev.verdict_mem (d : Dev) (step : Nat) (commit : Bool) : (d.verdict step commit).mem = d.mem := by
  unfold Dev.verdict
  dsimp only
  repeat' split
  all_goals simp
@[simp] theorem Dev.decideStep_mem (d : Dev) (step : Nat) (commit : Bool) : (d.decideStep step commit).mem = d.mem := by
  simp [Dev.decideStep, apply_ite Dev.mem]
@[simp] theorem Dev.passFail_mem (d : Dev) (step : Nat) : (d.passFail step).mem = d.mem := by
  simp [Dev.passFail, apply_ite Dev.mem]
@[simp] theorem Dev.failSeal_mem (d : Dev) : d.failSeal.mem = d.mem := by
  simp [Dev.failSeal, apply_ite Dev.mem]
@[simp] theorem Dev.abortStep_mem (d : Dev) : d.abortStep.mem = d.mem := by
  simp [Dev.abortStep, apply_ite Dev.mem]
@[simp] theorem Dev.afterSpad_mem (d : Dev) (c : Nat) (k : Core) : (d.afterSpad c k).mem = d.mem := by
  simp [Dev.afterSpad, apply_ite Dev.mem]
theorem ite_keep (p : Prop) [Decidable p] (f g : Dev) (d : Dev) (hf : f.mem = d.mem) (hg : g.mem = d.mem) :
    (if p then f else g).mem = d.mem := by
  split
  · exact hf
  · exact hg
@[simp] theorem Dev.memLatch_mem (d : Dev) (k a : Nat) (q : Req) : (d.memLatch k a q).mem = d.mem := by
  unfold Dev.memLatch
  dsimp only
  split
  · exact Dev.addFld_mem _ _ _
  · exact (Dev.latch_mem _ _).trans ((Dev.setReg_mem _ _ _).trans ((Dev.setReg_mem _ _ _).trans
      ((Dev.setReg_mem _ _ _).trans (Dev.setReg_mem _ _ _))))
@[simp] theorem Dev.memUE_mem (d : Dev) (k l : Nat) (q : Req) : (d.memUE k l q).mem = d.mem := by
  unfold Dev.memUE
  refine (ite_keep _ _ _ _ (Dev.abortStep_mem _) rfl).trans ((Dev.wantTest_mem _ _ _ _ _).trans ((Dev.event_mem _ _).trans ?_))
  exact (Dev.memLatch_mem _ _ _ _).trans (Dev.addFld_mem _ _ _)
@[simp] theorem Dev.memFlip_mem (d : Dev) (k l : Nat) : (d.memFlip k l).mem = d.mem := by
  simp [Dev.memFlip, apply_ite Dev.mem]

/-! ### What writes memory keeps its form -/

theorem Memory.wf_put (m : List Host.Cell) (a : Nat) (bs : List Byte) (h : Memory.wf m = true) : Memory.wf (putBytes m a bs) = true :=
  putBytes_wf bs m a h
theorem Dev.putBlock_wf (d : Dev) (key o : Nat) (bs : List Byte) (h : Memory.wf d.mem = true) : Memory.wf (d.putBlock key o bs).mem = true :=
  Memory.wf_put _ _ _ h
@[simp] theorem Dev.takeDram_mem (d : Dev) (k : Nat) : (d.takeDram k).2.mem = d.mem := by
  unfold Dev.takeDram
  dsimp only
  repeat' split
  all_goals simp
theorem Dev.decodeBlock_wf (d : Dev) (k l : Nat) (q : Req) (h : Memory.wf d.mem = true) :
    Memory.wf (d.decodeBlock k l q).2.mem = true := by
  unfold Dev.decodeBlock
  dsimp only
  repeat' split
  all_goals simp [h, Dev.putBlock_wf]
/-- Every memory operation of a block keeps the canonical form. -/
theorem Dev.memReadBlock_wf (d : Dev) (k l : Nat) (q : Req) (h : Memory.wf d.mem = true) :
    Memory.wf (d.memReadBlock k l q).2.mem = true := by
  unfold Dev.memReadBlock
  dsimp only
  split
  · simpa using h
  · exact Dev.decodeBlock_wf _ _ _ _ (by simpa using h)
theorem Dev.memWriteBlock_wf (d : Dev) (k l o : Nat) (bs : List Byte) (q : Req) (h : Memory.wf d.mem = true) :
    Memory.wf (d.memWriteBlock k l o bs q).2.mem = true := by
  unfold Dev.memWriteBlock
  dsimp only
  split
  · simpa using Dev.putBlock_wf _ _ _ _ h
  · have hr := Dev.memReadBlock_wf d k l { q with source := 3 } h
    split
    · next e => rw [e] at hr; exact hr
    · next e => rw [e] at hr; simpa using Dev.putBlock_wf _ _ _ _ hr

theorem Dev.spRead_mem (d : Dev) (c a n : Nat) : (d.spRead c a n).2.2.mem = d.mem := Dev.afterSpad_mem _ _ _
theorem Dev.spWrite_mem (d : Dev) (c a : Nat) (bs : List Byte) : (d.spWrite c a bs).2.mem = d.mem := Dev.afterSpad_mem _ _ _

/-- An addressed read and an addressed write keep the canonical form. -/
theorem Dev.devRead_wf (d : Dev) (q : Req) (a n : Nat) (h : Memory.wf d.mem = true) :
    Memory.wf (d.devRead q a n).2.mem = true := by
  unfold Dev.devRead
  split
  · exact h
  · split
    · exact h
    · split
      · exact h
      · exact h
      · next id b _ _ c _ =>
        have hs := Dev.spRead_mem d c b n
        split
        · next e => rw [e] at hs; exact hs ▸ h
        · next e => rw [e] at hs; dsimp only at hs ⊢; split <;> simpa [hs] using h
    · split
      · exact h
      · exact h
      · refine foldl_rel (fun r : Res (List Byte) × Dev => Memory.wf r.2.mem = true) _ _ ?_ _ h
        intro r x _ hr
        dsimp only
        split
        · next k l _ =>
          have hb := Dev.memReadBlock_wf r.2 k l q hr
          split
          · next e => rw [e] at hb; simpa using hb
          · next e => rw [e] at hb; exact hb
        · exact hr
theorem Dev.devWrite_wf (d : Dev) (q : Req) (a : Nat) (bs : List Byte) (h : Memory.wf d.mem = true) :
    Memory.wf (d.devWrite q a bs).2.mem = true := by
  unfold Dev.devWrite
  split
  · exact h
  · split
    · exact h
    · split
      · exact h
      · exact h
      · next id b _ _ c _ =>
        have hs := Dev.spWrite_mem d c b bs
        split <;> next e => rw [e] at hs; exact hs ▸ h
    · split
      · exact h
      · exact h
      · refine foldl_rel (fun r : Res Unit × Dev => Memory.wf r.2.mem = true) _ _ ?_ _ h
        intro r x _ hr
        split
        · next k l _ =>
          have hb := Dev.memWriteBlock_wf r.2 k l x.2.1 (slice bs (64 * x.1 + x.2.1 - a) x.2.2) q hr
          split
          · next e => rw [e] at hb; simpa using hb
          · next e => rw [e] at hb; exact hb
        · exact hr

/-- A fill keeps the canonical form, and leaves zeros where it reaches. -/
theorem Dev.memZero_wf (d : Dev) (k : Nat) (h : Memory.wf d.mem = true) : Memory.wf (d.memZero k).mem = true :=
  NMap.wf_filter 0 _ _ h

end Sys2Proof.Machine
end

