-- ==== Sys2Proof/Tests/Slice0.lean ====
section
/-!
SUPPORT. Tests: instruction words written out from the spec's encodings, ill-formed commands, small steps with results worked out by
hand from the spec, and states that meet the hypotheses of the statements.
-/
namespace Sys2Proof.Tests
set_option Elab.async false
open Sys2Proof Sys2Proof.Machine

/-! ### Building states -/

/-- An instruction word: its opcode in bits [63:56] and its fields as (low bit, value) (R73, R78). -/
def ins (op : Nat) (fs : List (Nat × Nat)) : Word := BitVec.ofNat 64 (fs.foldl (fun a f => a + f.2 * 2 ^ f.1) (op * 2 ^ 56))
/-- The block with one core that is not as after reset. -/
def coreIs (c : Nat) (k : Core) : Dev := { cores := [(c, k)] }
/-- Core 0 runs the one instruction w at pc 0; l gives the rest of it. Its cluster's grant, of which a part is open at reset, is 0. -/
def runs (w : Word) (l : LCore := {}) : State :=
  { dev := { coreIs 0 { log := { l with state := .running, imem := [(0, w)] } } with regs := [(Fld.WEIR_GRANT_THROTTLE.off, 0)] } }
/-- The block with registers set. -/
def withRegs (d : Dev) (rs : List (Nat × Nat)) : Dev := rs.foldl (fun d r => d.setReg r.1 (BitVec.ofNat 64 r.2)) d
/-- The block with a register set whose reset value differs from part to part. -/
def withRaw (d : Dev) (o v : Nat) : Dev :=
  { d with regs := d.regs.filter (fun x => decide (x.1 < o)) ++ (o, BitVec.ofNat 64 v) :: d.regs.filter (fun x => decide (o < x.1)) }
/-- A block with fields set. -/
def withFlds (d : Dev) (fs : List (Fld × Nat)) : Dev := fs.foldl (fun d f => d.setFld f.1 f.2) d
def coreFlds (k : Core) (fs : List (Fld × Nat)) : Core := fs.foldl (fun k f => k.setFld f.1 f.2) k

/-- The block in normal service. -/
def normal (d : Dev) : Dev := withFlds d [(Fld.COB_RACE_STATUS_SERVICE, 2)]
def served (s : State) : State := { s with dev := normal s.dev }

/-- Whether the core issues the instruction at its pc. -/
def goes (o : OpDef) (s : State) (c : Nat) : Bool :=
  match o.verdict s.dev c with | .go i => (o.badWord i).isNone && decide (c < numCores) | _ => false
/-- The BLOCK code of an instruction that waits. -/
def waits (o : OpDef) (s : State) (c : Nat) : Option Nat := match o.verdict s.dev c with | .wait b => some b | _ => none
/-- The pc and error codes of an instruction that stops its core. -/
def stops (o : OpDef) (s : State) (c : Nat) : Option (Nat × List Nat) :=
  match o.verdict s.dev c with | .stop pc es => some (pc, es.map Prod.fst) | _ => none

theorem goes_issues {o : OpDef} {s : State} {c : Nat} (h : goes o s c = true) : ∃ i, Issues o s c i ∧ i = o.iss s.dev c := by
  unfold goes at h
  split at h
  · next i hv =>
    simp only [Bool.and_eq_true, Option.isNone_iff_eq_none, decide_eq_true_eq] at h
    exact ⟨i, ⟨h.2, hv, h.1⟩, (OpDef.verdict_go hv).1⟩
  · cases h

/-- The block after one command on it. -/
def after (i : Instr) (d : Dev) : Dev := match exec i { dev := d } with | .next t => t.dev | _ => {}

/-! ### Core instructions issue (R73, R78, R79) -/

/-- A stitch word that passes its checks. -/
def word (stream kind gen seq : Nat) : StitchWord :=
  { data := 0x1122, par := parOf 0x1122, kind, stream, gen, seq, cpar := cparOf kind stream gen 0 seq }
/-- A core with scalar registers set; sc0 bound to inbound stream 0, which holds a word, sc1 to outbound stream 0, sc2 to message
queue 0, which holds an entry. -/
def ready : LCore :=
  { s := [(1, 64), (2, 4096), (3, 32), (4, 8192), (5, 1), (6, 64), (7, 0x4000)], v := [(1, 5), (2, 6)],
    sc := [(0, .inS 0), (1, .outS 0), (2, .mq 0)], inq := [(0, { q := [{ w := word 0 0 0 0 }] })], mq := [(0, [9])],
    regs := [(0x200, 0x8080000000000000)] }
def vms (op : Nat) (fn : Nat) : Word := ins op [(33, 2), (28, 1), (23, 4), (18, 6), (13, 3), (5, fn), (0, 8)]
def mat (op fmt : Nat) : Word := ins op [(33, 1), (28, 4), (23, 3), (21, 1), (18, fmt), (13, 3), (12, 1), (6, 7)]

/-- One word for each instruction, its operand fields placed as Table — Operand formats lists them. -/
def words1 : List (OpDef × Word) :=
  [(opNop, ins 0x00 []), (opEnd, ins 0x01 []), (opWait, ins 0x02 [(0, 5)]), (opBr, ins 0x03 [(33, 1), (28, 2), (25, 2), (0, 7)]),
   (opJal, ins 0x04 [(33, 9), (0, 7)]), (opJr, ins 0x05 [(28, 1)]), (opLoop, ins 0x06 [(36, 1), (15, 4), (0, 2)]),
   (opRdlc, ins 0x07 [(33, 9), (0, 1)]), (opRdct, ins 0x08 [(33, 9), (0, 3)]), (opAdd, ins 0x10 [(33, 9), (28, 1), (23, 2)]),
   (opSub, ins 0x11 [(33, 9), (28, 1), (23, 2)]), (opMul, ins 0x12 [(33, 9), (28, 1), (23, 2)]),
   (opAndS, ins 0x13 [(33, 9), (28, 1), (23, 2)]), (opOrS, ins 0x14 [(33, 9), (28, 1), (23, 2)]),
   (opXorS, ins 0x15 [(33, 9), (28, 1), (23, 2)]), (opShl, ins 0x16 [(33, 9), (28, 1), (23, 5)]),
   (opShr, ins 0x17 [(33, 9), (28, 1), (23, 5)]), (opSra, ins 0x18 [(33, 9), (28, 1), (23, 5)]),
   (opSlt, ins 0x19 [(33, 9), (28, 1), (23, 2)]), (opSltu, ins 0x1A [(33, 9), (28, 1), (23, 2)]),
   (opMinS, ins 0x1B [(33, 9), (28, 1), (23, 2)]), (opMaxS, ins 0x1C [(33, 9), (28, 1), (23, 2)]),
   (opRdsys, ins 0x1D [(33, 9), (0, 5)]), (opPmov, ins 0x1E [(35, 2), (28, 1)]), (opPrd, ins 0x1F [(33, 9), (25, 2)])]
def words2 : List (OpDef × Word) :=
  [(opAddi, ins 0x20 [(33, 9), (28, 1), (0, 0xFFFFFFF)]), (opAndi, ins 0x21 [(33, 9), (28, 1), (0, 6)]),
   (opOri, ins 0x22 [(33, 9), (28, 1), (0, 6)]), (opXori, ins 0x23 [(33, 9), (28, 1), (0, 6)]),
   (opShli, ins 0x24 [(33, 9), (28, 1), (0, 6)]), (opShri, ins 0x25 [(33, 9), (28, 1), (0, 6)]),
   (opSrai, ins 0x26 [(33, 9), (28, 1), (0, 6)]), (opSlti, ins 0x27 [(33, 9), (28, 1), (0, 6)]), (opLi, ins 0x28 [(33, 9), (0, 6)]),
   (opLis, ins 0x29 [(33, 9), (0, 6)]), (opBgate, ins 0x2A [(0, 0x60)]), (opBwake, ins 0x2B [(0, 0x60)]),
   (opLd, ins 0x30 [(33, 9), (28, 1), (25, 3), (0, 8)]), (opLds, ins 0x31 [(33, 9), (28, 1), (25, 1), (0, 0x7FFFE)]),
   (opSt, ins 0x32 [(33, 2), (28, 1), (25, 2), (0, 4)]), (opLdv, ins 0x33 [(33, 9), (28, 1), (25, 5), (0, 32)]),
   (opStv, ins 0x34 [(33, 1), (28, 1), (25, 6), (0, 64)]), (opVadd, ins 0x40 [(33, 3), (28, 1), (23, 2)]),
   (opVsub, ins 0x41 [(33, 3), (28, 1), (23, 2)]), (opVmul, ins 0x42 [(33, 3), (28, 1), (23, 2)]),
   (opVfma, ins 0x43 [(33, 3), (28, 1), (23, 2), (19, 1)]), (opVmax, ins 0x44 [(33, 3), (28, 1), (23, 2)]),
   (opVmin, ins 0x45 [(33, 3), (28, 1), (23, 2)]), (opVabs, ins 0x46 [(33, 3), (28, 1)]), (opVneg, ins 0x47 [(33, 3), (28, 1)])]
def words3 : List (OpDef × Word) :=
  [(opVcmp, ins 0x48 [(33, 3), (28, 1), (23, 2), (8, 5)]), (opVsel, ins 0x49 [(33, 3), (28, 1), (23, 2), (16, 1)]),
   (opVbcast, ins 0x4A [(33, 3), (11, 1)]), (opVext, ins 0x4B [(28, 1), (11, 9), (4, 15)]), (opVmov, ins 0x4C [(33, 3), (28, 1)]),
   (opViadd, ins 0x4D [(33, 3), (28, 1), (23, 2)]), (opVsadd, vms 0x50 0), (opVsmul, vms 0x51 0), (opVsaxpy, vms 0x52 0),
   (opVssum, vms 0x53 0), (opVsamax, vms 0x54 0), (opVscvt, vms 0x55 0x10), (opVsquant, vms 0x56 3), (opVsdequant, vms 0x57 3),
   (opMout, vms 0x58 8), (opMld, vms 0x59 0), (opBfxexp, vms 0x5C 0), (opBfxpack, vms 0x5D 1), (opBfxunpack, vms 0x5E 1),
   (opMma, mat 0x60 5), (opMmasp, mat 0x61 6), (opMmag, mat 0x62 6), (opSbind, ins 0x70 [(30, 3), (20, 33)]),
   (opSrecv, ins 0x71 [(33, 2)]), (opSsend, ins 0x72 [(33, 2), (30, 1)]), (opSrecvv, ins 0x73 [(33, 3)]),
   (opSsendv, ins 0x74 [(33, 1), (30, 1)]), (opSeal, ins 0x75 [(15, 3), (10, 5)]), (opMsend, ins 0x78 [(33, 5), (28, 2), (16, 77), (11, 3)]),
   (opMrecv, ins 0x79 [(8, 2), (4, 3)]), (opBar, ins 0x7A [(33, 5), (11, 3)]), (opFset, ins 0x7B [(33, 5), (28, 2), (11, 3)]),
   (opFwait, ins 0x7C [(33, 5), (28, 2), (11, 3)]), (opSgate, vms 0x80 0), (opSaudit, vms 0x81 0)]

/-- Every core instruction issues somewhere. -/
theorem test_issues1 : (words1.all fun x => goes x.1 (runs x.2 ready) 0) = true := by decide +kernel
theorem test_issues2 : (words2.all fun x => goes x.1 (runs x.2 ready) 0) = true := by decide +kernel
theorem test_issues3 : (words3.all fun x => goes x.1 (runs x.2 ready) 0) = true := by decide +kernel
/-- The table above holds every core instruction, in the order of the opcodes. -/
theorem test_words_all : ((words1 ++ words2 ++ words3).map fun x => x.1.code) = coreOps.map fun x => x.2.code := by decide +kernel

/-- The word of R76's example: `vadd v3, @1, @2 if sc0>=1, sc1>=1`. -/
theorem test_word_vadd_example : ins 0x40 [(55, 1), (52, 0), (47, 0), (46, 1), (43, 1), (38, 0), (33, 3), (32, 1), (28, 0), (27, 1), (23, 1)] =
    0x4080480708800000 := by decide

/-! ### States that meet the hypotheses of the statements: instructions

`goes o s c = true` says that some `i` has `Issues o s c i` (goes_issues). -/

theorem cleanSpad_of {k : Core} (h : k.sil.errs = [] ∧ k.sil.fold = [] ∧ k.sil.reach = []) (g : k.fld Fld.CORE_SPAD_FLIP_ARM_ARM = 0) :
    CleanSpad k := ⟨fun w => by rw [h.1, h.2.1, h.2.2]; exact ⟨rfl, rfl, rfl⟩, g⟩
theorem witness_cleanSpad : CleanSpad ((runs 0 ready).dev.core 0) := cleanSpad_of (by decide +kernel) (by decide +kernel)

theorem witness_issues : ∀ x ∈ words1 ++ words2 ++ words3, ∃ i, Issues x.1 (runs x.2 ready) 0 i := by
  intro x hx
  obtain ⟨i, h, _⟩ : ∃ i, Issues x.1 (runs x.2 ready) 0 i ∧ i = x.1.iss (runs x.2 ready).dev 0 := by
    refine goes_issues ?_
    rcases List.mem_append.1 hx with h | h
    · rcases List.mem_append.1 h with h | h
      · exact List.all_eq_true.1 test_issues1 x h
      · exact List.all_eq_true.1 test_issues2 x h
    · exact List.all_eq_true.1 test_issues3 x h
  exact ⟨i, h⟩

/-- JumpAndLoops: a body that repeats, the largest count, and one that ends. -/
theorem witness_loops :
    let l : LCore := { loops := [⟨1, 3, 9⟩], lc := [(1, 2 ^ 20 - 1)] }
    let m : LCore := { loops := [⟨1, 3, 9⟩], lc := [(1, 1)] }
    (l.loops = ⟨1, 3, 9⟩ :: [] ∧ l.loopCtr 1 = (2 ^ 20 - 2) + 1 ∧ 2 ^ 20 - 2 < 2 ^ 20 - 1) ∧
    (m.loops = ⟨1, 3, 9⟩ :: [] ∧ m.loopCtr 1 = 0 + 1) := by decide +kernel
theorem test_loop_repeats : (({ loops := [⟨1, 3, 9⟩], lc := [(1, 2)] } : LCore).advance 9 none).pc = 3 := by decide
theorem test_loop_ends : (({ loops := [⟨1, 3, 9⟩], lc := [(1, 1)] } : LCore).advance 9 none).pc = 10 := by decide

/-- BankGates: a gate that is to take effect, a powered bank, a wake that ends and one of another bank. -/
theorem witness_bankGates :
    let gated : Core := coreFlds {} [(Fld.CORE_BANK_GATE_GATE, 0x41)]
    let woken : Core := { sil := { powered := 0xFE, waking := some 0 } }
    (gated.fld Fld.CORE_BANK_GATE_GATE).testBit 6 = true ∧ gated.sil.powered.testBit 6 = true ∧
    (gated.fld Fld.CORE_BANK_GATE_GATE).testBit 7 = false ∧ woken.sil.waking = some 0 ∧ woken.sil.waking ≠ some 7 := by decide +kernel

/-- LocalLoadsAndStores: the first and the last bytes of the own scratchpad, of each size. -/
def own (o : OpDef) (w : Word) (b : Nat) : Bool :=
  goes o (runs w ready) 0 && decodeEa ((runs w ready).dev.lid 0) (effAddr (o.iss (runs w ready).dev 0)) == .own b
theorem witness_localLoads :
    own opLd (ins 0x30 [(33, 9), (28, 9), (25, 0), (0, 0)]) 0 = true ∧ own opLd (ins 0x30 [(33, 9), (28, 1), (25, 3), (0, 8)]) 72 = true ∧
    own opLds (ins 0x31 [(33, 9), (28, 1), (25, 1), (0, 0x7FFFE)]) 62 = true ∧
    own opLdv (ins 0x33 [(33, 9), (28, 1), (25, 4), (0, 16)]) 80 = true ∧
    own opLdv (ins 0x33 [(33, 9), (28, 9), (25, 6), (0, 0x3FFC0)]) 0x3FFC0 = true := by decide +kernel
theorem witness_localStores :
    own opSt (ins 0x32 [(33, 2), (28, 9), (25, 0), (0, 0x3FFFF)]) 0x3FFFF = true ∧
    own opStv (ins 0x34 [(33, 1), (28, 1), (25, 6), (0, 64)]) 128 = true := by decide +kernel

/-- RemoteAccessIsTagged: the window of logical core 1, named by s10. -/
def far : LCore := { ready with s := ready.s ++ [(10, 0x400000080000)] }
def remote (o : OpDef) (w : Word) : Bool :=
  goes o (served (runs w far)) 0 &&
  decodeEa ((served (runs w far)).dev.lid 0) (effAddr (o.iss (served (runs w far)).dev 0)) == .remote 1 8
theorem witness_remote :
    remote opLd (ins 0x30 [(33, 9), (28, 10), (25, 3), (24, 1), (19, 4), (0, 8)]) = true ∧
    remote opLds (ins 0x31 [(33, 9), (28, 10), (25, 0), (24, 1), (19, 4), (0, 8)]) = true ∧
    remote opSt (ins 0x32 [(33, 9), (28, 10), (25, 3), (24, 1), (19, 31), (0, 8)]) = true := by decide +kernel
theorem witness_remote_vector :
    let w (op : Nat) : Word := ins op [(33, 9), (28, 10), (25, 4), (24, 1), (19, 4), (0, 16)]
    goes opLdv (runs (w 0x33) far) 0 = true ∧ goes opStv (runs (w 0x34) far) 0 = true ∧
    decodeEa ((runs (w 0x33) far).dev.lid 0) (effAddr (opLdv.iss (runs (w 0x33) far).dev 0)) = .remote 1 16 := by decide +kernel
theorem witness_gatewayFree : GatewayFree (served (runs 0 far)).dev 0 ∧ ((served (runs 0 far)).dev.hostOf 1).isSome = true := by
  refine ⟨⟨?_, rfl, rfl, by decide +kernel⟩, by decide +kernel⟩
  decide +kernel

/-- VectorMovesAndSigns, VectorFloatLanes: behind another instruction of the unit, and onto an outbound stream. -/
def busy : LCore := { ready with vu := [{ w := 0, pc := 0 }] }
theorem witness_lanes :
    ([(opVmov, ins 0x4C [(33, 3), (28, 1)]), (opVadd, ins 0x40 [(33, 3), (28, 1), (23, 2)]), (opVsel, ins 0x49 [(33, 3), (28, 1), (23, 2), (16, 7)])].all
      fun x => goes x.1 (runs x.2 busy) 0) = true ∧
    ([(opVmov, ins 0x4C [(55, 1), (52, 1), (37, 1), (28, 1)]), (opVadd, ins 0x40 [(55, 1), (52, 1), (37, 1), (28, 1), (23, 2)])].all
      fun x => goes x.1 (runs x.2 ready) 0) = true ∧
    ready.bound (slotCtr (ins 0x4C [(55, 1), (52, 1), (37, 1), (28, 1)]) 1) = .outS 0 := by decide +kernel

/-- FloatRoundingAndExtremes: the largest finite value, the smallest subnormal, −0 below +0, a NaN with a payload. -/
theorem witness_floats :
    fpFinite 0x7F7FFFFF = true ∧ fpFinite 0x00000001 = true ∧ fpInt 0x00000001 = 1 ∧ fpNaN 0xFF800001 = true ∧
    fpInt 0x80000000 = 0 ∧ fpInt 0x00000000 = 0 ∧ bit (0x80000000 : Lane) 31 = true ∧ fpInt 0xBF800000 < fpInt 0x3F800000 := by decide +kernel
/-- 1 + 1 = 2, the largest value doubled overflows, 1 + 2^−24 is a tie and goes to the even 1, the next one up does not. -/
theorem test_fadd : fadd 0x3F800000 0x3F800000 = 0x40000000 ∧ fadd 0x7F7FFFFF 0x7F7FFFFF = 0x7F800000 ∧
    fadd 0x3F800000 0x33800000 = 0x3F800000 ∧ fadd 0x3F800001 0x33800000 = 0x3F800002 := by decide +kernel
/-- 1.5 × 1.5 = 2.25; a fused product-sum keeps the bit a rounded product would lose: (1 + 2^−23)² − 1 − 2^−22 = 2^−46. -/
theorem test_fmul_ffma : fmul 0x3FC00000 0x3FC00000 = 0x40100000 ∧ ffma 0x3F800001 0x3F800001 0xBF800002 = 0x28800000 := by decide +kernel

/-- VectorScratchpadSums, TilesAndInt8Product: an instruction at the head of its unit, its ranges in the own scratchpad. -/
def atUnit (w : Word) : UOp := { w, pc := 0, tag := some 31, a := 64, b := 8192, d := 4096, n := 32 }
def inVu (w : Word) : State := { dev := coreIs 0 { log := { state := .running, vu := [atUnit w] } } }
def inMu (w : Word) : State := { dev := coreIs 0 { log := { state := .running, mu := [atUnit w] } } }
theorem witness_atVector : AtVector (inVu 0) 0 (atUnit 0) 31 :=
  ⟨by decide, ⟨[], rfl⟩, rfl, by decide, cleanSpad_of (by decide +kernel) (by decide +kernel)⟩
theorem witness_unitRanges :
    (∀ op ∈ [0x50, 0x51, 0x52, 0x53, 0x54, 0x58, 0x59, 0x60], opcodeOf (ins op []) = op) ∧ (atUnit 0).n ≠ 0 ∧
    ownRange ((inVu 0).dev.lid 0) 64 (4 * 32) = some 64 ∧ ownRange ((inVu 0).dev.lid 0) 8192 2048 = some 8192 ∧
    ownRange ((inVu 0).dev.lid 0) 4096 2048 = some 4096 ∧ ownRange ((inMu 0).dev.lid 0) 64 512 = some 64 ∧
    bits (mat 0x60 5) 20 18 = 5 ∧ opcodeOf (mat 0x60 5) = 0x60 ∧ (inMu 0).dev.coreState 0 = .running ∧
    fnLo (vms 0x58 8) = 0 ∧ bit (vms 0x58 8) 8 = true ∧ bit (vms 0x58 0) 8 = false := by decide +kernel

/-- StreamInstructions: counters bound to streams, a seal with and without a credit. -/
theorem witness_streams :
    ready.bound 0 = .inS 0 ∧ ready.bound 1 = .outS 0 ∧ ready.bound (bits (ins 0x72 [(33, 2), (30, 1)]) 32 30) = .outS 0 ∧
    ((runs 0 ready).dev.core 0).log.outQ 0 = { credits := 8 } ∧
    goes opSeal (runs (ins 0x75 [(15, 3), (10, 5)]) { ready with outq := [(0, { credits := 0 })] }) 0 = true ∧
    bits ((64 : Word)) 6 6 = 1 := by decide +kernel

/-- MessageInstructions: a plain descriptor, one of a kind that does not exist, and a contribution of one unit. -/
def sends (x : Word) (desc : List Byte) : State :=
  served (runs (ins 0x78 [(33, 5), (28, 2), (16, 77), (11, 3)]) { ready with s := NMap.set 0 ready.s 5 x, spad := putBytes [] 4096 desc })
theorem witness_msend :
    let bad := sends 1 [0, 0, 0, 0, 0, 0, 0, 0, 0, 0, 0, 0, 4]
    let plain := sends 1 []
    let unit := sends 0x20000001 (leBytes 8 0x400000000000 ++ leBytes 4 (unitSize 1) ++ [1])
    (∀ s ∈ [bad, plain, unit], goes opMsend s 0 = true ∧ (s.dev.hostOf 1).isSome = true) ∧
    ownRange (bad.dev.lid 0) 4096 32 = some 4096 ∧
    descOk bad.dev 0 1 (getBytes (bad.dev.core 0).log.spad 4096 32) = false ∧
    descOk plain.dev 0 1 (getBytes (plain.dev.core 0).log.spad 4096 32) = true ∧
    descOk unit.dev 0 0x20000001 (getBytes (unit.dev.core 0).log.spad 4096 32) = true ∧
    bits (0x20000001 : Word) 29 28 = 2 ∧ (unit.dev.core 0).log.ops = [] := by decide +kernel

/-- FlagAndBarrierInstructions: a waiting `fwait`, a barrier entry that is not valid, one with its last and one with a further member,
and an `sgate` that waits for a verdict, has it, or lies before the lag. -/
def polls : State := served { dev := coreIs 0 { log := { state := .running, ctPend := 8, ops := [{ tag := 3, pc := 0, kind := .flagWait 1 63 9 }] } } }
theorem witness_fwaitPoll : (polls.dev.core 0).log.op 3 = some { tag := 3, pc := 0, kind := .flagWait 1 63 9 } ∧
    (∀ x ∈ polls.dev.clusterOps (routerOf 0), x.2.todo = [] ∧ x.2.out = [] ∧ x.2.busy = []) ∧ (polls.dev.hostOf 1).isSome = true := by
  decide +kernel
def atBar (x : Bar) : State :=
  let s := runs (ins 0x7A [(33, 5), (11, 3)]) ready
  { s with dev := { s.dev with gws := [(0, { bars := [(1, x)] })] } }
theorem witness_bar :
    (∀ x ∈ [({} : Bar), { valid := true, members := 1 }, { valid := true, members := 2 }], goes opBar (atBar x) 0 = true ∧
      ((atBar x).dev.gw 0).bar 1 = x) := by decide +kernel
def gate (q : Word) (v : Option Word) : State :=
  let cfg := setF (setF (setF 0 Fld.CORE_SLU_CFG_VALID 1) Fld.CORE_SLU_CFG_LAG 2) Fld.CORE_SLU_CFG_WINDOW 1
  let u : UOp := { w := ins 0x80 [], pc := 0, tag := some 3, b := q, n := 32 }
  served { dev := coreIs 0 { log := { state := .running, verdict := v, vu := [u], regs := [(0x800, cfg)] } } }
theorem witness_verdictPoll :
    ((gate 5 none).dev.core 0).layer 0 = some 0 ∧ ((gate 5 none).dev.core 0).fld (slu Fld.CORE_SLU_CFG_LAG 0) = 2 ∧
    ((gate 5 none).dev.core 0).log.verdict = none ∧ ((gate 5 none).dev.core 0).log.op 3 = none ∧
    ((gate 5 none).dev.hostOf 0).isSome = true ∧ (1 : Nat) < 2 ∧
    bits ((4 : Word)) 63 48 = 0 ∧ (5 : Word).toNat - 2 + 1 ≤ bits (4 : Word) 23 0 := by decide +kernel

/-- IssueOrWait: an attempt that waits for each reason. -/
theorem witness_waits :
    waits opSrecv (runs (ins 0x71 [(33, 2)]) { ready with inq := [] }) 0 = some 1 ∧
    waits opFset (runs (ins 0x7B [(33, 5), (28, 2), (11, 3)]) { ready with ctPend := 8 }) 0 = some 2 ∧
    waits opAdd (runs (ins 0x10 [(33, 9), (28, 1), (23, 2)]) { ready with vu := [{ w := vms 0x53 0, pc := 0, tag := some 3 }] }) 0 = some 3 ∧
    waits opVadd (runs (ins 0x40 [(33, 3), (28, 1), (23, 2)]) { ready with vu := [{ w := 0, pc := 0 }, { w := 0, pc := 0 }] }) 0 = some 4 ∧
    waits opWait (runs (ins 0x02 [(0, 8)]) { ready with ctPend := 8 }) 0 = some 5 := by decide +kernel

/-- ErrorsStopTheCore: an opcode that is not defined, a pc past the instruction memory, two codes of one cycle, a misaligned address. -/
theorem witness_stops :
    stops opNop (runs (ins 0x09 [])) 0 = some (0, [1]) ∧
    stops opNop { dev := coreIs 0 { log := { state := .running, pc := 4096 } } } 0 = some (4095, [1]) ∧
    stops opNop (runs (ins 0x00 [(55, 1), (52, 5), (46, 1), (43, 5)]) ready) 0 = some (0, [1, 0xC]) ∧
    stops opLd (runs (ins 0x30 [(33, 9), (28, 1), (25, 3), (0, 4)]) ready) 0 = some (0, [4]) := by decide +kernel

/-- CoreTimersAndTimeouts: a core in each state the statement names, and a remote store in flight. -/
theorem witness_coreTimers :
    let load := coreIs 0 { log := { state := .loading, load := some { total := 9, crc := 0 } } }
    let store := coreIs 0 { log := { state := .running, ops := [{ tag := 31, pc := 0, kind := .store }] } }
    (runs 0).dev.coreState 0 = .running ∧ (runs 0).dev.inProgress = false ∧ (coreIs 0 {}).coreState 0 ≠ .running ∧
    (load.core 0).log.state = .loading ∧ (load.core 0).flag Fld.CORE_ERR_STATUS_LATCHED = false ∧
    (store.core 0).log.op 31 = some { tag := 31, pc := 0, kind := .store } := by decide +kernel

/-! ### States that meet the hypotheses: stitch network, Eddy watch, epochs, starts -/

/-- StitchWords: a word that is accepted into a queue with room and into a full one, one of a stale generation, one in error, and
the replay that fails for the third time. -/
def open0 : LCore := { regs := [(0x200, 0x8080000000000000)] }
def full0 : LCore := { open0 with inq := [(0, { q := List.replicate 8 { w := word 0 0 0 0 } })] }
theorem witness_stitchWords :
    let k : Core := { log := open0 }
    let f : Core := { log := full0 }
    bit (k.route 0 0) 63 = true ∧ StitchWord.dataOk (word 0 1 0 3) = true ∧ StitchWord.ctlOk (word 0 1 0 3) = true ∧
    k.log.inQ 0 = {} ∧ (f.log.inQ 0).q.length = 8 ∧ (word 0 0 2 0).gen ≠ (k.log.inQ 0).agen % 4 ∧
    (word 0 0 2 0).gen ≠ ((k.log.inQ 0).agen % 4 + 1) % 4 ∧
    StitchWord.dataOk { word 0 0 0 0 with data := 0x1123 } = false ∧ k.sil.dead.testBit 0 = false ∧
    NMap.get 0 ({ sil := { fails := [(0, 3)] } } : Core).sil.fails 0 = 3 := by decide +kernel
theorem witness_stitchCredits :
    let o : OutQ := { credits := 0, gen := 0, wait := [3, 4] }
    (0 : Nat) = o.gen % 4 ∧ (3 + 1) % 4 = o.gen % 4 ∧ 1 ≠ o.gen % 4 ∧ (1 + 1) % 4 ≠ o.gen % 4 ∧ o.wait.drop (0 + 1) = [4] := by decide

/-- StitchForwardingAndSwitch: an entry that sends stream 0 of the north link east, with and without a credit, and a LOCAL stream
whose seal stands at the head, or not. -/
def fwd0 (credits : Nat) : Core :=
  { log := { open0 with regs := [(0x200, 0x8200000000000000)], inq := [(0, { q := [{ w := word 0 0 0 0 }] })], outq := [(8, { credits })] } }
theorem witness_forward :
    bit ((fwd0 8).route 0 0) 63 = true ∧ (bits ((fwd0 8).route 0 0) 59 55).testBit 2 = true ∧ bits ((fwd0 8).route 0 0) 54 52 = 0 ∧
    ((fwd0 8).log.inQ 0).q = [{ w := word 0 0 0 0 }] ∧ ((fwd0 0).log.outQ 8).credits = 0 ∧ (coreIs 0 (fwd0 8)).coreHeld 0 = false := by
  decide +kernel
theorem witness_switch :
    let k (kind : Nat) : Core := { log := { open0 with inq := [(0, { q := [{ w := word 0 kind 0 0 }] })] } }
    (∀ q, q < 32 → (bit ((k 1).route (k 1).gen q) 63 = true ∧ bit ((k 1).route (k 1).gen q) 55 = true ↔ q = 0)) ∧
    ((k 1).log.inQ 0).q = [{ w := word 0 1 0 0 }] ∧ (word 0 1 0 0).kind = 1 ∧ ((k 0).log.inQ 0).q = [{ w := word 0 0 0 0 }] := by
  decide +kernel

/-- EddySuspectsAndProbePaths: a core that has waited for THRESHOLD cycles, probes young and old, a probe at the hop limit, and one back
at its initiator. -/
def stuck : Core :=
  { log := { state := .running, probe := some 1000, imem := [(0, ins 0x71 [(33, 2)])], sc := [(0, .inS 0)],
             regs := [(0x110, BitVec.ofNat 64 (setF (setF 0 Fld.CORE_EDDY_STATUS_PROBE_OUT 1) Fld.CORE_EDDY_STATUS_SERIAL 5).toNat)] },
    sil := { blocked := true, block := 1, stall := 2 ^ 20 } }
theorem witness_suspect :
    let d : Dev := { coreIs 0 stuck with gws := [(0, { probes := [0] })] }
    d.coreState 0 = .running ∧ stuck.fld Fld.CORE_EDDY_CFG_THRESHOLD ≤ stuck.sil.stall ∧ 0 ∈ (d.gw (routerOf 0)).probes ∧
    0 < d.fld (Fld.CLU_EDDY_CFG_HOP_LIMIT.at (cluBase (routerOf 0))) ∧ stuck.log.probe = some 1000 ∧ 1000 + stuck.fld Fld.CORE_EDDY_CFG_THRESHOLD ≤ stuck.sil.stall ∧
    stuck.sil.stall < 2 ^ 20 + stuck.fld Fld.CORE_EDDY_CFG_THRESHOLD ∧ ({} : Core).flag Fld.CORE_EDDY_STATUS_PROBE_OUT = false := by
  decide +kernel
theorem witness_probe :
    let limit := (coreIs 0 stuck).fld (Fld.CLU_EDDY_CFG_HOP_LIMIT.at (cluBase (routerOf 0)))
    limit = 1023 ∧ (fwd0 8).driver 8 = some 0 ∧ (fwd0 8).driver 9 = none ∧ stuck.driver 0 = none ∧
    stuck.flag Fld.CORE_EDDY_STATUS_PROBE_OUT = true ∧ stuck.fld Fld.CORE_EDDY_STATUS_SERIAL = 5 ∧ (coreIs 0 stuck).lid 0 = 0 ∧
    (fwd0 0).blockedOuts 0 = [2] := by decide +kernel

/-- EddySpills: a full queue, one with room, a ring with and without space for a spill, a queue that spills, a segment that drains. -/
theorem witness_spills :
    let d := withFlds (coreIs 0 { log := { full0 with state := .running } }) [(Fld.CLU_EDDY_CFG_SPILL_EN.at (cluBase 0), 1)]
    let k := d.core 0
    let x := k.log.inQ 0
    let tight : Core := k.setInQ 1 { allow := 600 }
    d.hostOf 0 = some 0 ∧ 8 ≤ x.q.length ∧ x.spill = false ∧ d.flag (Fld.CLU_EDDY_CFG_SPILL_EN.at (cluBase (routerOf 0))) = true ∧
    (k.setInQ 0 { x with spill := true, spillAt := d.t }).reserved ≤ 32 * k.fld Fld.CORE_SPILL_CFG_SIZE ∧
    32 * tight.fld Fld.CORE_SPILL_CFG_SIZE < (tight.setInQ 0 { x with spill := true, spillAt := d.t }).reserved ∧
    (k.log.inQ 1).q.length < 8 ∧ d.coreState 0 = .running := by decide +kernel

/-! ### States that meet the hypotheses of the statements: time, the Race, gateways -/

/-- The block in normal service with memory controller 1 serving. -/
def up1 : Dev := withFlds (normal {}) [(Fld.HBM_STATUS_STATE.at (memBase 1), 3)]
/-- MemReady, byte by byte, as a value. -/
def readyB (d : Dev) (a n : Nat) : Bool :=
  rangeOk a n && decide (0 < n) && (List.range n).all fun i => match d.locate (a + i) with
    | .mem k l => decide (d.memState k = 3) && !d.remapBusy k l && !d.blockTest k (l / 64) &&
      (NMap.get [] d.memErr (memKey k l / 64)).isEmpty && (NMap.get none d.memFold (memKey k l / 64)).isNone &&
      decide (NMap.get 0 d.memReach (memKey k l / 64) = 0) && (d.memc k).dram.isEmpty && !d.flag (Fld.HBM_FLIP_CTRL_ARM.at (memBase k))
    | _ => false
theorem memReady_of {d : Dev} {a n : Nat} (h : readyB d a n = true) : MemReady d a n := by
  unfold readyB at h
  simp only [Bool.and_eq_true, decide_eq_true_eq, List.all_eq_true, List.mem_range] at h
  refine ⟨h.1.1, h.1.2, fun i hi => ?_⟩
  have h2 := h.2 i hi
  split at h2
  · next k l hl =>
    simp only [Bool.and_eq_true, decide_eq_true_eq, Bool.not_eq_true', List.isEmpty_iff, Option.isNone_iff_eq_none] at h2
    obtain ⟨⟨⟨⟨⟨⟨⟨h3, h4⟩, h5⟩, h6⟩, h7⟩, h8⟩, h9⟩, h10⟩ := h2
    exact ⟨k, l, hl, h3, h4, h5, h6, h7, h8, h9, h10⟩
  · cases h2
/-- Memory whose bytes 1000h on are as given (address 1000h stands at local address 0 of controller 1). -/
def mem1 (bs : List Byte) : Dev := { up1 with mem := putBytes [] (memKey 1 0) bs }
theorem witness_memReady : MemReady up1 0x1000 64 := memReady_of (by decide +kernel)

/-- EpochChanges: a tick that is due, with nothing armed, with a numerics level, with a service change, with a flip; one that is
not due; the end of a copy; a router that missed an epoch. -/
def ticked : Dev := { withFlds {} [(Fld.FT_EPOCH_CFG_PERIOD, 10)] with now := 20000 }
theorem not_missing_of {d : Dev} {r : Nat} (h : (d.captured 4 r || d.cob.asleep.contains (4, r)) = false) : (4, r) ∉ d.missing := by
  intro hm
  simp only [Dev.missing, List.mem_filter, h] at hm
  simp at hm
theorem witness_epochTick :
    let due (d : Dev) := d.fld Fld.FT_EPOCH_COUNT < d.epochCount ∧ d.flag Fld.WEIR_OP_REQ_ARM = false ∧ d.cob.readyAt = none
    let n := ticked.epochCount
    let lev : Dev := { withFlds ticked [(Fld.COB_NUMERICS_LEVEL_REQ_EPOCH, n)] with cob := { level := true } }
    let rac := withFlds ticked [(Fld.COB_RACE_REQ_ARM, 1), (Fld.COB_RACE_REQ_REQ_EPOCH, n)]
    let flp : Dev := { ticked with map := { flip := some n, bank1 := { gaps := [(3, 0)] } } }
    due ticked ∧ ticked.map.flip = none ∧ ticked.flag Fld.COB_RACE_REQ_ARM = false ∧ ticked.flag Fld.COB_STITCH_FORCE_ARM = false ∧
    ticked.cob.level = false ∧ ticked.lagging 4 103 = false ∧ (ticked.captured 4 103 || ticked.cob.asleep.contains (4, 103)) = false ∧
    due lev ∧ lev.cob.level = true ∧ lev.fld Fld.COB_NUMERICS_LEVEL_REQ_EPOCH = n % 2 ^ 16 ∧ lev.flag Fld.COB_RACE_REQ_ARM = false ∧
    due rac ∧ rac.flag Fld.COB_RACE_REQ_ARM = true ∧ rac.fld Fld.COB_RACE_REQ_REQ_EPOCH = n % 2 ^ 16 ∧ rac.heal.shift = none ∧
    due flp ∧ flp.map.flip = some (n % 2 ^ 16) ∧ flp.map.cur.v = 12 ∧ flp.map.shadow.v = 12 ∧ flp.heal.shift = none := by decide +kernel
theorem witness_epochOthers :
    let lag : Dev := { cob := { lag := [{ kind := 4, unit := 103, epoch := 0 }] } }
    ({} : Dev).epochCount ≤ ({} : Dev).fld Fld.FT_EPOCH_COUNT ∧ ({ copying := true } : Cob).copying = true ∧
    lag.lagging 4 103 = true ∧ (lag.captured 4 103 || lag.cob.asleep.contains (4, 103)) = false ∧ lag.lagging 4 0 = false := by decide +kernel

/-- StartTick: region 0 places logical core 7, on core 7, LOADED or not; before and at the tick; a region with no scale declared. -/
def starts (st : CState) (now : Nat) : Dev :=
  { coreIs 7 { log := { state := st } } with now := now, cob := { start := some (50, 1, 0, 3), placed := [(0, [7])] } }
theorem witness_startTick :
    let d := starts .loaded 50
    (starts .loaded 49).t < 50 ∧ 50 ≤ d.t ∧ d.placement 1 = [7] ∧ d.hostOf 7 = some 7 ∧ d.coreState 7 = .loaded ∧
    (starts .faulted 50).coreState 7 ≠ .loaded ∧ ((starts .faulted 50).placement 1).head? = some 7 ∧ d.host.qps = [] ∧
    d.unscaledRegion 1 = none ∧
    (let m := mem1 (List.replicate 36 1)
     ({ m with cob := { d.cob with tables := [(0, [0x1000])] } } : Dev).unscaledRegion 1 = some 0) := by decide +kernel

/-- A packet from the gateway of router 1. -/
def pkt (t : PType) : Packet := { ptype := t, src := 4, srcCore := 5, txn := 3, dst := 0, dstCore := 0 }

/-- RaceTraffic: packets that arrive good, malformed, two epochs behind, and failing their check; one that leaves for a neighbour with and
without room, one that leaves for a memory controller; two that merge; a merged answer; packets young and old. -/
def holding (p : Packet) (key : Nat) (now : Nat := 0) : Dev :=
  { normal {} with now := now, routers := [(9, { q := [(key, [{ p, at_ := 0 }])] })] }
def east : Packet := { pkt .read with dst := 4 * 15, aux := 64 }
def contribPkt (origin : Nat) : Packet :=
  { pkt .contrib with dst := 60, dstCore := 1, tag := 2, con := { count := 1, kind := 1, mergeOk := true, origin },
                      payload := List.replicate 1024 1 }
theorem witness_raceArrival :
    let d := normal {}
    portOk 9 6 = true ∧ d.heldIn 9 6 = false ∧ badPacket east = false ∧
    d.behind 9 east ≠ 2 ∧ d.behind 9 { east with epoch := 2 } = 2 ∧ expectsAnswer .read = true ∧ expectsAnswer .accept = false ∧
    badPacket { pkt .accept with rsvd := true } = true ∧ NMap.get 0 (d.router 9).fails 6 < 2 ∧
    2 ≤ NMap.get 0 ({ fails := [(6, 2)] } : Router).fails 6 := by decide +kernel
theorem witness_raceForward :
    let d := holding east 2
    let out := 4
    let tight : Dev := { d with routers := d.routers ++ [(10, { q := [(12, List.replicate 32 { p := east, at_ := 0 })] })] }
    portOk 9 out = true ∧ (∀ key, key < 14 → ∀ x ∈ NMap.get [] (d.router 9).q key, d.discards 9 x.p = none) ∧ d.lagging 4 9 = false ∧
    d.captured 4 9 = false ∧ d.byAge (d.waitingFor 9 out) = [(2, { p := east, at_ := 0 })] ∧ d.heldOut 9 out = false ∧
    flitsOf east ≤ d.roomAt 9 out (vcOf east.ptype) ∧ tight.roomAt 9 out (vcOf east.ptype) < flitsOf east := by decide +kernel
theorem witness_raceLocal :
    let p : Packet := { pkt .flagRead with dst := 36 }
    let d := holding p 2
    (d.byAge (d.waitingFor 9 0)).head? = some (2, { p, at_ := 0 }) ∧ p.mc = 0 ∧ nodeOk (4 * 9 + p.dst % 4) = true ∧ p.dst % 4 ≠ 3 ∧
    portAt (4 * 9 + p.dst % 4) = none ∧ d.cob.xings.contains (4 * 9 + p.dst % 4) = false := by decide +kernel
theorem witness_raceMerge :
    let d : Dev := { withFlds {} [(Fld.COB_RACE_STATUS_SERVICE, 1)] with
      routers := [(9, { q := [(2, [{ p := contribPkt 1, at_ := 0 }]), (4, [{ p := contribPkt 2, at_ := 0 }])] })] }
    d.fld Fld.COB_RACE_STATUS_SERVICE = 1 ∧ (mergePair (d.byAge (d.waitingFor 9 4))).isSome = true ∧
    freeMerge (d.router 9).merges = some 0 ∧ NMap.get none ({ merges := [(3, some ⟨[]⟩)] } : Router).merges 3 = some ⟨[]⟩ := by decide +kernel
theorem witness_raceAged :
    let d := holding (pkt .accept) 3 (10 ^ 9)
    let x : QPkt := { p := pkt .accept, at_ := 0 }
    (x ∈ NMap.get [] (d.router 9).q 3 ∧ x.at_ + d.ageLimit ≤ d.t) ∧ (holding (pkt .accept) 3 0).t < (holding (pkt .accept) 3 0).ageLimit ∧
    (∀ j, j < 14 → ∀ y ∈ NMap.get [] (d.router 9).q j, y.p = x.p → j = 3 ∧ y = x) ∧ expectsAnswer x.p.ptype = false := by decide +kernel

/-- ReadsAndWrites: the controller that serves address 1000h stands at node 5; a read of 1 to 64 bytes, of none, of another
controller's address; a scratchpad address at its gateway; a packet two epochs behind and one ahead. -/
theorem witness_readsAndWrites :
    let p (n : Nat) : Packet := { pkt .read with addr := 0x1000, aux := n }
    (Current up1 (p 1) ∧ up1.serves 5 0x1000 = true ∧ readyB up1 0x1000 64 = true ∧ up1.serves 9 0x1000 = false) ∧
    (up1.copyAddr 1 { p 0 with ptype := .write } = 0x1000) ∧
    (let a := 0x400000000000
     up1.serves 0 a = true ∧ rangeOk a 1024 = true ∧ up1.locate a = .spad 0 0 ∧ up1.spadCheck 0 0 1024 = .ok 0) ∧
    (up1.epoch + 4 - ({ p 1 with epoch := 2 } : Packet).epoch % 4) % 4 = 2 ∧
    (up1.epoch + 4 - ({ p 1 with epoch := 1 } : Packet).epoch % 4) % 4 = 3 := by
  unfold Current; decide +kernel

/-- AnswersCompleteOperations: a core with one operation out under transaction 3: a load, a flag wait, a message. -/
def awaits (kind : OpKind) : Dev :=
  coreIs 0 { log := { state := .running, ctPend := 2, ops := [{ tag := 1, pc := 0, kind, out := [({ pkt .read with txn := 3 }, 1)] }] } }
theorem witness_answers :
    ∀ kind ∈ [OpKind.load 4 false true 2, .load 4 true false 64, .flagWait 0 1 5, .verdictRead 0 1, .msg],
      let d := awaits kind
      let o : Op := { tag := 1, pc := 0, kind, out := [({ pkt .read with txn := 3 }, 1)] }
      (∀ x ∈ d.clusterOps 0, x.2.todo = []) ∧ d.findOut 0 3 = some (0, o, { pkt .read with txn := 3 }) ∧ (d.core 0).log.op 1 = some o ∧
      (d.gw 0).fwd = [] ∧ (d.core 0).flag Fld.CORE_ERR_STATUS_LATCHED = false := by decide +kernel

/-- Messages: cores in each state; a tag assigned to queue 0, with room and without; a message answered BUSY. -/
def msgPkt : Packet := { pkt .message with payload := List.replicate 32 7, tag := 0 }
theorem witness_messages :
    let at_ (st : CState) (q : List Line) : Dev :=
      coreIs 0 { log := { state := st, mq := [(0, q)], regs := [(0xE00, 1)] } }
    (coreIs 0 {}).copyCore 0 msgPkt = 0 ∧ (coreIs 0 {}).hostOf 0 = some 0 ∧ (coreIs 0 {}).coreHeld 0 = false ∧
    (at_ .running []).copyCore 0 { msgPkt with dstCore := numLogical } = numLogical ∧
    closedReason ((at_ .running []).coreState 0) = none ∧ closedReason .loaded = none ∧
    ((at_ .running []).core 0).tagQueue 0 = some 0 ∧ ((at_ .running []).core 0).tagQueue 9 = none ∧
    ((at_ .running (List.replicate 32 0)).core 0).log.mqueue 0 = List.replicate 32 0 ∧
    ({ map := { unhosted := [0] } } : Dev).hostOf 0 = none := by decide +kernel
theorem witness_busyResend :
    let q : Packet := { msgPkt with txn := 4 }
    let o : Op := { tag := 1, pc := 0, kind := .msg, busy := [q] }
    let d := normal (coreIs 0 { log := { ops := [o] } })
    d.waiting 0 < 4 ∧ (∀ x ∈ d.clusterOps 0, x.2.todo = []) ∧ d.refuseSend 0 q = none ∧ (d.core 0).log.op 1 = some o ∧
    ((d.clusterOps 0).findSome? fun x => (x.2.busy.find? fun y => y.txn == 4).map fun y => (x.1, x.2, y)) = some (0, o, q) := by decide +kernel

/-- FlagsAndBarriers: an entry that waits for another arrival, one that is complete; a release that reaches the members; one with a
row span; a reset notice with one request out. -/
theorem witness_barriers :
    let o : Op := { tag := 1, pc := 0, kind := .bar 5 }
    let d : Dev := { coreIs 0 { log := { ops := [o], ctPend := 2 } } with
      gws := [(0, { bars := [(5, { valid := true, members := 1, entered := 1, awaits := 2 })] }),
              (1, { bars := [(5, { valid := true, awaits := 1, colSpan := some (0, 11) })] }),
              (2, { bars := [(5, { members := 2, entered := 1, rowSpan := some (0, 7) })] })] }
    ((d.gw 0).bar 5).arrived + 1 < ((d.gw 0).bar 5).awaits ∧ ((d.gw 1).bar 5).awaits ≤ ((d.gw 1).bar 5).arrived + 1 ∧
    ((d.gw 1).bar 5).colSpan = some (0, 11) ∧ ((d.gw 3).bar 5).valid = false ∧ ((d.gw 0).bar 5).rowSpan = none ∧
    ((d.gw 0).bar 5).entered = ((d.gw 0).bar 5).members ∧ d.clusterOps 0 = [(0, o)] ∧ o.st = 0 ∧
    ((d.gw 2).bar 5).rowSpan = some (0, 7) ∧ ((d.gw 2).bar 5).entered < ((d.gw 2).bar 5).members := by decide +kernel
theorem witness_resetNotice :
    let d := awaits .msg
    ((d.clusterOps 0).flatMap fun y => (y.2.out.filter fun z => z.1.dst == (pkt .resetNotice).dst).map fun z => z.1).length = 1 := by
  decide +kernel

theorem witness_iload :
    let p := pkt .iload
    Current {} p ∧ ({} : Dev).copyCore 0 p = 0 ∧ ({} : Dev).hostOf 0 = some 0 ∧ ({} : Dev).coreState 0 = .empty ∧
    (coreIs 0 { log := { state := .running } }).coreState 0 = .running ∧
    (coreIs 0 { log := { state := .loading, load := some ⟨2, 0, 1⟩ } }).coreState 0 = .loading := by
  unfold Current; decide +kernel

/-! ### States that meet the hypotheses of the statements: confluence, Welt engines, memory, Ford -/

/-- Bytes given as (offset, length, value). -/
def bytesOf (n : Nat) (fs : List (Nat × Nat)) : List Byte := leBytes n (fs.foldl (fun a f => a + f.2 * 256 ^ f.1) 0)
/-- Apart, as a value. -/
def apartB (d : Dev) (a n b m : Nat) : Bool := (List.range n).all fun i => (List.range m).all fun j => keyAt d (a + i) ≠ keyAt d (b + j)
theorem apart_of {d : Dev} {a n b m : Nat} (h : apartB d a n b m = true) : Apart d a n b m := by
  intro i j hi hj
  simp only [apartB, List.all_eq_true, List.mem_range, decide_eq_true_eq] at h
  exact h i hi j hj

/-- ConfluenceQueues: an entry for tag 9 that is OPEN, of int32 blocks, delivers two contributions of block 0 to core 0; a waiting post. -/
def confDev (count : Nat) : Dev :=
  let d := withFlds (normal (coreIs 1 { log := { state := .running, regs := [(0xE00, 1)] } }))
    [(cf Fld.CLU_CONF_CFG_STATE 0 5, 1), (cf Fld.CLU_CONF_CFG_ENABLE 0 5, 1), (cf Fld.CLU_CONF_CFG_KIND 0 5, 1),
     (cf Fld.CLU_CONF_CFG_TAG 0 5, 9), (cf Fld.CLU_CONF_CFG_EXPECTED 0 5, 2), (cf Fld.CLU_CONF_CFG_BLOCKS 0 5, 1),
     (cf Fld.CLU_CONF_TIME_OFFSET 0 5, 100)]
  { d with gws := [(0, { conf := [(5, { blocks := [(0, { count })], posts := [(1, 3)] })] })] }
def confPkt : Packet :=
  { pkt .contrib with dstCore := 0, tag := 9, con := { count := 1, kind := 1, mergeOk := true }, payload := List.replicate 136 0 }
theorem witness_confluence :
    let d := confDev 0
    let late : Dev := { confDev 1 with now := 100 }
    d.confOf 0 8 = none ∧ d.confOf 0 9 = some 5 ∧ d.confKind 0 5 = 1 ∧ d.contribCase 0 5 (d.regTime 0 confPkt) confPkt = none ∧
    (confDev 1).contribCase 0 5 0 confPkt = none ∧
    ((d.conf 0 5).block 0).count + 1 ≠ d.fld (cf Fld.CLU_CONF_CFG_EXPECTED 0 5) ∧
    ((late.conf 0 5).block 0).count + 1 = late.fld (cf Fld.CLU_CONF_CFG_EXPECTED 0 5) ∧
    (d.contribCase 0 5 0 { confPkt with aux := 1 }).isSome = true ∧
    (addUnits 1 (((late.conf 0 5).block 0).bytes 1) confPkt.payload).2 = false ∧ late.spadCheck 0 0 (unitLen 1) = .ok 0 ∧
    late.fld (cf Fld.CLU_CONF_DELIVER_DELIVER_MODE 0 5) = 0 ∧ late.flag (cr Fld.CLU_CONF_RED_SCREEN 0 5) = false ∧
    late.confState 0 5 = 1 ∧ late.confDue 0 5 ≤ late.t ∧ 0 < late.confBlocks 0 5 ∧ ((late.conf 0 5).block 0).done = 0 ∧
    d.t < d.confDue 0 5 := by decide +kernel
theorem witness_confPost :
    let d := confDev 0
    (d.conf 0 5).writes = [] ∧ ((d.conf 0 5).posts.find? fun y => y.1 == 1) = some (1, 3) ∧ d.hostOf 1 = some 1 ∧
    closedReason (d.coreState 1) = none ∧ (d.core 1).tagQueue (d.fld (cf Fld.CLU_CONF_DELIVER_DELIVER_TAG 0 5)) = some 0 ∧
    ((d.core 1).log.mqueue 0).length < 32 := by decide +kernel

/-- A descriptor from its operation, flags and (offset, value) fields. -/
def descOf (op flags len src dst : Nat) (fs : List (Nat × Nat) := []) : List Byte :=
  bytesOf 64 ([(0, op), (1, flags), (4, len), (8, src), (16, dst)] ++ fs)
/-- Controller 1's engine with ring 0 running over one descriptor at 1000h and the completion queue at 1400h. -/
def ringed (b : List Byte) : Dev :=
  withFlds { mem1 b with now := 10 ^ 9 } ((List.map (fun x => (ringFld x.1 1 0, x.2))
    [(Fld.HBM_WELT_RING_CTRL_STATE, 1), (Fld.HBM_WELT_RING_CTRL_ENABLE, 1), (Fld.HBM_WELT_RING_CTRL_TAIL, 1),
     (Fld.HBM_WELT_RING_BASE_BASE, 0x40)]) ++
    [(Fld.HBM_WELT_CQ_BASE_BASE.at (memBase 1), 0xA0), (Fld.HBM_WELT_CQ_BASE_SIZE_LOG2.at (memBase 1), 4)])
theorem witness_weltStart :
    let nop := descOf 0 0 0 0 0
    let waits (v : Nat) := descOf 0 2 0 0 0 [(56, v)]
    let d := ringed nop
    d.ringGo 1 0 = true ∧ d.headAddr 1 0 = 0x1000 ∧ readyB d 0x1000 64 = true ∧ memBytes d 0x1000 64 = nop ∧
    d.ring Fld.HBM_WELT_RING_CTRL_HEAD 1 0 = 0 ∧ d.ring Fld.HBM_WELT_RING_CTRL_TAIL 1 0 = 1 ∧ descBad 1 nop = false ∧
    dFence nop = false ∧ dWait nop = false ∧ descBad 1 (descOf 0xC 0 0 0 0) = true ∧ cqAddr d 1 = 0x1400 ∧ readyB d 0x1400 32 = true ∧
    up1.ringGo 1 0 = false ∧ descBad 1 (waits 1) = false ∧ dWait (waits 1) = true ∧ d.hostOf 0 = some 0 ∧
    dField (waits 0) 56 4 ≤ (NMap.get 0 (d.gw 0).flags 0).toNat ∧ (NMap.get 0 (d.gw 0).flags 0).toNat < dField (waits 1) 56 4 := by
  decide +kernel
/-- A started descriptor on ring 0 of controller 1's engine. -/
def started (b : List Byte) (ran : Bool := false) (status : Nat := 0) : Dev :=
  let d := ringed []
  { d with mems := [(1, { descs := [{ ring := 0, index := 0, bytes := b, at_ := 0, ran, status }] })] }
theorem witness_weltEnds :
    (let d := started (descOf 0 0 0 0 0) true
     ((d.memc 1).descs.find? fun u => u.ring == 0 && u.ran).isSome = true ∧ readyB d (cqAddr d 1) 32 = true ∧
     dPost (descOf 0 0 0 0 0) = false ∧ dPost (descOf 0 4 0 0 0) = true) ∧
    (let d := started (descOf 1 0 64 0x1000 0x1800)
     ((d.memc 1).descs.find? fun u => u.ring == 0 && !u.ran && decide (dOp u.bytes ≠ 0)).isSome = true ∧
     d.memPauses 0x1000 = false ∧ 1000 * d.fld Fld.HANG_TIMEOUTS_WELT_TIMEOUT ≤ d.t) ∧
    (let d := withFlds up1 [(ringFld Fld.HBM_WELT_RING_CTRL_STATE 1 0, 1), (ringFld Fld.HBM_WELT_RING_CTRL_ENABLE 1 0, 1),
                            (ringFld Fld.HBM_WELT_RING_CTRL_TAIL_SRC 1 0, 1)]
     d.ringGo 1 0 = true ∧ d.ring Fld.HBM_WELT_RING_CTRL_TAIL_SRC 1 0 = 1 ∧
     d.hostOf (d.ring Fld.HBM_WELT_RING_CTRL_TAIL_CORE 1 0) = some 0) := by decide +kernel

/-- WeltMovesData: a copy of 64 bytes, a fill, a stream out of one word and one in, a load of one instruction word. -/
theorem witness_weltMoves :
    let copy := descOf 1 0 64 0x1000 0x1800
    let fill := descOf 5 0 64 0 0x1800
    let out := descOf 2 0 64 0x1000 0 [(24, 1), (28, 1)]
    let in_ := descOf 3 0 64 0 0x1800 [(24, 1), (28, 1)]
    let load := descOf 4 0 8 0x1000 0 [(28, 2)]
    (∀ b ∈ [copy, fill, out, in_, load], dMc b = 0 ∧ b.length = 64 ∧ (started b).fld Fld.COB_RACE_STATUS_SERVICE ≠ 0 ∧
      ((started b).memc 1).descs.find? (fun u => u.ring == 0 && !u.ran && dOp u.bytes == byteAt b 0) = (((started b).memc 1).descs.head?)) ∧
    readyB (started copy) 0x1000 64 = true ∧ readyB (started copy) 0x1800 64 = true ∧ apartB (started copy) 0x1000 64 0x1800 64 = true ∧
    edgeLinks out = [0] ∧ dField out 28 2 ≠ 0 ∧ edgeSeal out = false ∧ 1 ≤ ((started out).edge 1 0 (edgeStream out)).credits ∧
    edgeLinks in_ = [0] ∧ edgeSeal in_ = false ∧ dField load 28 2 ≤ 4096 ∧ (started load).hostOf 0 = some 0 ∧
    (started load).coreState 0 = .empty ∧ dLen load / 8 < dField load 28 2 := by decide +kernel

/-- WeltCommitsShards: a shard of 16 elements of format 0 at 1000h, buffers at 1400h and 1800h, without scale tables. -/
def shardBytes : List Byte := bytesOf 64 [(0, 0x1400), (8, 0x1800), (32, 1), (36, 16), (41, 0)]
def sharded (b : List Byte) : Dev := { started b with mem := putBytes [] (memKey 1 0) shardBytes }
theorem witness_shardAt : ShardAt (sharded []) 0x1000 { at_ := 0x1000, bytes := memBytes (sharded []) 0x1000 64 } [] :=
  ⟨by decide, memReady_of (by decide +kernel), rfl, by decide +kernel, .inl ⟨by decide +kernel, rfl⟩⟩
theorem witness_commits :
    let h : Shard := { at_ := 0x1000, bytes := shardBytes }
    let shadow := descOf 8 0 64 0x1C00 0 [(24, 0x1000)]
    let d := sharded shadow
    memBytes d 0x1000 64 = shardBytes ∧ h.bufSize ≤ 64 ∧ 0 < h.bufSize ∧ h.buf 1 = 0x1800 ∧ dField shadow 24 8 = 0x1000 ∧
    readyB d (h.buf 1) 64 = true ∧ readyB d 0x1C00 64 = true ∧ apartB d 0x1C00 64 (h.buf 1) 64 = true ∧ h.entries = 1 ∧
    d.digestStep = true ∧ ({ d with step := { inForce := 1 } } : Dev).digestStep = false ∧ (d.memc 1).flips = [] ∧
    entUnscaled 0 = false ∧ entE 0 < 127 := by decide +kernel

/-- WeltCompressingStore: one tile of element format 5 without and with COMPRESS. -/
theorem witness_storeZ :
    let b (c : Nat) := descOf 6 0 (bTile 5) 0x1000 0x1800 [(24, 8 * 5 + c), (32, 0x1F00)]
    let d := started (b 0)
    zBad (b 0) = false ∧ zBad (b 1) = false ∧ zTiles (b 0) = 1 ∧ zEmitT (b 0) = false ∧ zElem (b 0) = 5 ∧ zCompress (b 0) = false ∧
    zCompress (b 1) = true ∧ readyB d 0x1000 (bTile 5) = true ∧ readyB d 0x1F00 8 = true := by decide +kernel

/-- MemoryUnits: a controller that serves, with the scrub at its start or past its last block, that fills, that trains, with a flip armed;
banks at the start and the end of a lap. -/
theorem witness_memoryUnits :
    up1.memState 1 = 3 ∧ (up1.memc 1).scrub < memBlocks 1 ∧ ({} : Dev).memState 1 ≠ 3 ∧
    memBlocks 1 ≤ (({ mems := [(1, { scrub := memBlocks 1 })] } : Dev).memc 1).scrub ∧
    (let d := withFlds up1 [(Fld.HBM_FILL_BUSY.at (memBase 1), 1)]
     d.flag (Fld.HBM_FILL_BUSY.at (memBase 1)) = true ∧ d.flag (Fld.HBM_FLIP_CTRL_ARM.at (memBase 1)) = false ∧
     d.flag (Fld.HBM_FILL_MODE.at (memBase 1)) = false) ∧
    (let d := withFlds {} [(Fld.HBM_STATUS_STATE.at (memBase 19), 1)]
     d.memState 19 = 1 ∧ d.fld Fld.COB_BRINGUP_STATE ≠ 2 ∧
     (withFlds d [(Fld.COB_BRINGUP_STATE, 2)]).fld Fld.COB_BRINGUP_RESET_KIND = 0) ∧
    (let d := withFlds up1 [(Fld.HBM_FLIP_CTRL_ARM.at (memBase 1), 1)]
     d.flag (Fld.HBM_FLIP_CTRL_ARM.at (memBase 1)) = true ∧ d.flag (Fld.HBM_FLIP_CTRL_MATCH_EN.at (memBase 1)) = false) ∧
    (let k : Core := { sil := { scrub := [(7, 768)] } }
     (coreIs 0 k).core 0 = k ∧ NMap.get 0 k.sil.scrub 7 = 768 ∧ k.bank 0 = 0 ∧ NMap.get 0 k.sil.scrub 0 < 768) := by decide +kernel

/-- FordFrames: a port that is UP, MISMATCH, TRAINING and DOWN; frames that are good, damaged, beyond correction; kept frames young and old,
one resent too often; a packet that starts with credits for it. -/
def ported (st : Nat) (x : Port := {}) (now : Nat := 10 ^ 7) : Dev :=
  { withFlds (normal {}) [(Fld.FORD_STATE_STATE.at (fordBase 19), st)] with ports := [(19, x)], now := now }
theorem witness_ford :
    let f : Frame := { seq := 0, ack := 0xFFFF, fkind := 0, session := 0 }
    let x : Port := { retry := [f], replay := [f], resent := 7 }
    let q : Packet := { pkt .message with dstDev := 3 }
    let y : Port := { tx := [(0, [{ p := q, at_ := 0 }])], credits := [(0, 64)] }
    (ported 2).linked 19 = true ∧ (ported 4).linked 19 = true ∧ (ported 3).linked 19 = false ∧ (ported 1).portState 19 = 1 ∧
    (ported 2).portState 19 = 2 ∧ (ported 2).captured 9 19 = false ∧
    f.session = (ported 2).pfld Fld.FORD_STATE_SESSION 19 ∧ f.seq = (({} : Port).ack + 1) % 2 ^ 16 ∧
    ({ f with seq := 1 } : Frame).seq ≠ (({} : Port).ack + 1) % 2 ^ 16 ∧ 3 ≤ ({ unlocked := 3 } : Port).unlocked ∧
    x.ackAt + 2000 ≤ (ported 2 x).t ∧ (ported 2 x 1999).t < x.ackAt + 2000 ∧ x.retry.head?.map Frame.seq = some f.seq ∧ 7 ≤ x.resent ∧
    ({ x with resent := 6 } : Port).resent < 7 ∧
    y.retry.length < 128 ∧ ((ported 2 y 0).portStart y |>.map fun z => (z.1, z.2.txPart)) = some (q, some (0, flitsOf q, q)) := by decide +kernel

/-- FordPacketsAndLinks: a packet for this device, for another one, of another epoch; two contributions in one queue; a peer silent too long. -/
def crossing : Packet := { pkt .message with dstDev := 1 }
def torus4 : Dev :=
  withFlds (ported 2 { pools := [(0, [{ p := pkt .message, at_ := 0 }])] })
    [(Fld.COB_FORD_DIR_MASK0.nth 8 4, 2 ^ 12), (Fld.COB_FORD_DIR_MASK0.nth 8 5, 2 ^ 19), (Fld.COB_FORD_TORUS_X_SIZE, 1), (Fld.COB_FORD_TORUS_Y_SIZE, 1), (Fld.COB_FORD_TORUS_Z_SIZE, 4)]
theorem witness_fordPackets :
    let d := torus4
    let q := pkt .message
    (d.epoch + 4 - q.epoch % 4) % 4 ≤ 1 ∧ q.dstDev = d.devId ∧ q.mc < 4 ∧ (d.port 19).pool (2 * vcOf q.ptype + 0) = [{ p := q, at_ := 0 }] ∧
    (d.epoch + 4 - ({ q with epoch := 2 } : Packet).epoch % 4) % 4 = 2 ∧ expectsAnswer PType.accept = false ∧
    (d.epoch + 4 - ({ q with epoch := 1 } : Packet).epoch % 4) % 4 = 3 ∧
    (d.port 19).keepAt + d.pfld Fld.FORD_CTRL_KEEPALIVE_LIMIT 19 * 1000 ≤ d.t := by decide +kernel
theorem witness_fordTransit :
    crossing.dstDev ≠ torus4.devId ∧ ((torus4.dirOf crossing).any fun x => (torus4.fordPort x.1 crossing).isSome) = true ∧
    torus4.portDir 3 = some 1 ∧ torus4.portDir 19 = some 5 := by decide +kernel
theorem witness_fordMerge :
    let c : List QPkt := [{ p := contribPkt 1, at_ := 0 }, { p := contribPkt 2, at_ := 1 }]
    ({ tx := [(0, c)] } : Port).queue 0 = c ∧ mergeable (contribPkt 1) (contribPkt 2) = true ∧ freeMerge ({} : Port).merges = some 0 := by
  decide +kernel

/-- FordTrainingAndTime: each phase in progress, an overrun, a retrain that is due, an exchange of times that is open. -/
def training (ph pass : Nat) : Dev :=
  withFlds (ported 1) [(Fld.FORD_STATE_PHASE.at (fordBase 19), ph), (Fld.FORD_LANES_PASS.at (fordBase 19), pass)]
theorem witness_training :
    (∀ ph ∈ [1, 2, 3, 4, 5, 6], (training ph 0xFF).portState 19 = 1 ∧ (training ph 0xFF).pfld Fld.FORD_STATE_PHASE 19 = ph) ∧
    (training 5 0x7F).pfld Fld.FORD_LANES_PASS 19 = 0x7F ∧ (training 5 0x77).pfld Fld.FORD_LANES_PASS 19 / 16 ≠ 15 ∧
    (training 6 0xFF).pfld Fld.FORD_PEER_PROOF_OK 19 = 0 ∧
    (withFlds (training 6 0xFF) [(Fld.FORD_PEER_PROOF_OK.at (fordBase 19), 1)]).pfld Fld.FORD_PEER_PROOF_OK 19 = 1 ∧
    (training 6 0xFF).flag Fld.COB_STEP_CMD_EXPEL = false ∧ (training 6 0xFF).fld Fld.COB_BRINGUP_STATE ≠ 7 := by decide +kernel
theorem witness_fordTime :
    let d := withFlds (ported 3 {} (10 ^ 18)) [(Fld.FORD_CTRL_AUTO_RETRAIN.at (fordBase 19), 1), (Fld.FORD_CTRL_ENABLE.at (fordBase 19), 1)]
    let e := withFlds (ported 2 { pend := [(0, 8)] }) [(Fld.FT_SOURCE_SOURCE, 19), (Fld.FT_STATUS_VALID, 1)]
    d.portState 19 = 3 ∧ d.pfld Fld.FORD_CTRL_AUTO_RETRAIN 19 = 1 ∧ d.pfld Fld.FORD_CTRL_ENABLE 19 = 1 ∧
    (d.port 19).downAt + d.pfld Fld.FORD_CTRL_RETRAIN_DELAY 19 * 10 ^ 6 ≤ d.t ∧ mayReach .runtime (fordBase 19) 8 = true ∧
    NMap.get 0 (e.port 19).pend 0 = 7 + 1 ∧ e.fld Fld.FT_SOURCE_SOURCE = 19 ∧ e.flag Fld.FT_STATUS_VALID = true ∧
    e.flag Fld.FT_STATUS_HOLDOVER = false ∧ e.fld Fld.FT_SOURCE_SOURCE ≠ 0x1F := by decide +kernel

/-! ### States that meet the hypotheses of the statements: steps, healing, resets, bring-up -/

/-- StepsSealAndCommit: states of a step; arming, its start tick, its seals, the verdict. -/
def stepped (st : Nat) (fs : List (Fld × Nat) := []) (now : Nat := 10 ^ 12) : Dev :=
  { withFlds (normal {}) ([(Fld.COB_STEP_STATUS_STATE, st), (Fld.COB_FORD_TORUS_X_SIZE, 1), (Fld.COB_FORD_TORUS_Y_SIZE, 1),
      (Fld.COB_FORD_TORUS_Z_SIZE, 1)] ++ fs) with now := now, step := { barDone := true } }
theorem witness_steps :
    let d := stepped 2
    d.stepState = 2 ∧ (stepped 3).stepState = 3 ∧ (stepped 4).stepState = 4 ∧ d.inProgress = true ∧
    d.flag Fld.COB_STEP_CMD_EXPEL = false ∧ d.flag Fld.COB_STEP_NEXT_ARM = false ∧ d.flag Fld.COB_STEP_COMMITTED_VALID = false ∧
    d.fld Fld.COB_STEP_START_TICK < d.t ∧ (stepped 0 [] 0).t ≤ (stepped 0 [] 0).fld Fld.COB_STEP_START_TICK ∧
    (stepped 1 [(Fld.COB_STEP_NEXT_ARM, 1)]).flag Fld.COB_STEP_NEXT_ARM = true ∧ d.heal.shift = none ∧ d.map.unhosted.length ≤ 16 ∧
    d.sealBy ≤ d.t ∧ (stepped 2 [] 0).t < (stepped 2 [(Fld.COB_STEP_CFG_SEAL_OFFSET, 5)] 0).sealBy ∧ d.step.barDone = true ∧
    d.collector = (none, 1) ∧ d.step.acted = false ∧ ({ d with step := { acted := true } } : Dev).step.acted = true ∧ d.fld Fld.COB_STEP_SEALS_COUNT = 0 ∧ d.fld Fld.COB_STEP_DECISION_VERDICT = 0 ∧
    d.fld Fld.COB_STEP_SEALS_FAILS = 0 ∧ (d.memc 0).flips = [] ∧ d.fld Fld.COB_RACE_STATUS_SERVICE ≠ 0 ∧
    (d.step.sealedAt + 1000 * d.fld Fld.COB_STEP_CFG_VERDICT_WAIT ≤ d.t) := by decide +kernel

/-- TestsAndFences, MovesSlicesAndShifts: tests that wait and run, a slice, a shift in each of its waits. -/
theorem witness_heal :
    let t (b : Bool) : Test := { kind := 1, unit := 130, at_ := 0, begun := b }
    let d : Dev := { cores := [(130, { log := { state := .running } })], heal := { tests := [t false] } }
    let b : Dev := { heal := { tests := [t true] } }
    (t false).isOf 1 130 = true ∧ (d.lidOf 130).isSome = true ∧ d.sliceFree (segOf 130) = true ∧ d.inProgress = false ∧
    d.coreState 130 ≠ .offline ∧ d.coreState 130 ≠ .underTest ∧ d.flag Fld.COB_STITCH_FORCE_ARM = false ∧ d.oldHeld = false ∧
    (withFlds d [(Fld.HEAL_POLICY_AUTO_FENCE, 0)]).flag Fld.HEAL_POLICY_AUTO_FENCE = false ∧
    (b.heal.tests.find? fun x => x.isOf 1 130 && x.begun) = some (t true) ∧
    (b.inWindow (t true)).length + 1 < (withFlds b [(Fld.HEAL_POLICY_TRANSIENT_LIMIT, 3)]).fld Fld.HEAL_POLICY_TRANSIENT_LIMIT ∧
    b.heal.field = [] ∧ ({} : Dev).lidOf (segCore 0 16) = none := by decide +kernel
theorem witness_shift :
    let d (n : Nat) : Dev := { heal := { shift := some ⟨3, n, none, 0⟩ } }
    let w : Dev := { withFlds {} [(Fld.HEAL_STATUS_SHIFT_WANTED, 1), (Fld.HEAL_POLICY_AUTO_SHIFT, 1)] with heal := { want := some (3, none) } }
    let s : Dev := { heal := { slices := [⟨5, 0, true⟩, ⟨200, 0, false⟩] }, now := 2000000 }
    (d 2).heal.shift = some ⟨3, 2, none, 0⟩ ∧ (d 2).arrived = [] ∧ (d 2).routers = [] ∧ w.heal.want = some (3, none) ∧
    w.map.cur.v = 12 ∧ w.map.flip = none ∧ w.flag Fld.COB_RACE_REQ_ARM = false ∧ w.oldHeld = false ∧
    w.flag Fld.HEAL_POLICY_AUTO_SHIFT = true ∧ w.flag Fld.HEAL_STATUS_SHIFT_WANTED = true ∧
    (s.heal.slices.find? fun x => x.core == 5 && x.moved) = some ⟨5, 0, true⟩ ∧ 0 + 2000000 ≤ s.t ∧
    (s.heal.slices.find? fun x => segOf x.core == segOf 200 && !x.moved) = some ⟨200, 0, false⟩ ∧
    (∀ o, o < 17 → (s.core (segCore (segOf 200) o)).sil.moving = false) ∧
    ({ heal := { dirty := true } } : Dev).heal.dirty = true := by decide +kernel
theorem witness_moves :
    let d : Dev := coreIs 0 { sil := { moving := true } }
    let e : Dev := withFlds {} [(Fld.HEAL_ROT_CFG_ENABLE, 1), (Fld.HEAL_ROT_CFG_INTERVAL, 1), (Fld.HEAL_ROT_CFG_PARALLEL, 1)]
    d.hostOf 0 = some 0 ∧ (d.core 0).sil.moving = true ∧ d.inShift 0 4 = false ∧ d.heal.slices = [] ∧
    e.flag Fld.HEAL_ROT_CFG_ENABLE = true ∧ e.fld Fld.FT_EPOCH_COUNT % e.fld Fld.HEAL_ROT_CFG_INTERVAL = 0 ∧
    e.heal.begun / 256 = e.fld Fld.FT_EPOCH_COUNT ∧ e.heal.begun % 256 < e.fld Fld.HEAL_ROT_CFG_PARALLEL := by decide +kernel

/-- HangsAndCaptures, ResetDomains: what starts a capture, a capture that runs past its limit, a reset that is due for each domain, one that
waits for a higher one, an overrun of the recovery. -/
theorem witness_captures :
    let x : Capture := { trigger := 3, domain := 2, index := 0, since := 0 }
    let d : Dev := { withFlds {} [(Fld.HANG_CMD_GO, 1), (Fld.HANG_CMD_DOMAIN, 2)] with cob := { fw := true }, now := 10 ^ 12 }
    let e : Dev := { d with cob := { capture := some x } }
    (∃ kind ∈ List.range 64, (hungDomain kind 0).isSome = true) ∧ hungDomain 0 0 = none ∧ domainOk 2 0 = true ∧ domainOk 0 14143 = true ∧
    domainOk 0 14144 = false ∧ d.cob.kickAt + 250 * 10 ^ 6 ≤ d.t ∧ d.flag Fld.HANG_CMD_GO = true ∧ d.fld Fld.HANG_CMD_DOMAIN = 2 ∧
    d.fld Fld.HANG_CMD_INDEX = 0 ∧ d.benched = false ∧ e.cob.capture = some x ∧ x.cut = none ∧
    x.since + e.fld Fld.HANG_CAPTURE_CAPTURE_LIMIT * 10 ^ 6 ≤ e.t ∧ 415 ∉ d.cob.xings ∧ d.lagging 4 0 = false := by decide +kernel
theorem witness_resets :
    let d (n : Nat) : Dev := { cob := { waiting := [(n, 0, 0)], resets := [⟨n, 0, 0⟩] }, now := 10 ^ 15 }
    (∀ n ∈ List.range 8, (d n).cob.capture = none ∧ (n, 0, 0) ∈ (d n).cob.waiting ∧ domainOk n 0 = true ∧
      ∀ x ∈ (d n).cob.waiting, resetRank x.1 ≤ resetRank n) ∧
    (d 0).coreState 0 ≠ .offline ∧ (d 0).coreState 0 ≠ .underTest ∧ NMap.wf ({} : Core) (d 6).cores = true ∧
    (withFlds (d 4) [(Fld.FORD_CTRL_ENABLE.at (fordBase 0), 1)]).pfld Fld.FORD_CTRL_ENABLE 0 = 1 ∧
    (d 3).cob.resets.find? (fun x => x.domain == 3 && x.index == 0) = some ⟨3, 0, 0⟩ ∧ (d 3).inService 3 0 = false ∧
    0 + 2 * (d 3).recovery 3 0 ≤ (d 3).t ∧ (d 3).benched = false ∧
    (withFlds (d 3) [(Fld.HANG_STATUS_BENCHED, 1)]).benched = true ∧
    (let v : Word := BitVec.ofNat 64 (2 ^ 63 + 7 * 2 ^ 32)
     bits v 34 32 = 7 ∧ bit v 62 = false ∧ domainOk 7 (bits v 31 0) = true ∧ (d 7).flag Fld.HANG_CMD_GO = false) := by decide +kernel
/-- R405: with LIMIT 3 the third device reset requested within the window benches the device, the second does not. -/
theorem test_third_reset_benches :
    let asks (n : Nat) := match exec (.hangCmdGo .runtime (BitVec.ofNat 64 (2 ^ 63 + 7 * 2 ^ 32)))
        { dev := { cob := { counted := n }, now := 10 ^ 15 } } with
      | .next t => some (t.dev.benched, t.dev.cob.counted)
      | _ => none
    asks 2 = some (true, 3) ∧ asks 1 = some (false, 2) := by decide +kernel

/-- BringUpSequence: power, each state on time and late, an image that is good, the topology check. -/
theorem witness_bringup :
    let d (st : Nat) : Dev :=
      { withFlds (withRaw {} 0xD000020 128) [(Fld.COB_BRINGUP_STATE, st)] with power := { good := true } }
    let img : FwImage :=
      { magicOk := true, arch := 1, member := 9, major := 1, minor := 0, build := 0, rollback := 128, advance := false, digestOk := true,
        signOk := true }
    (∀ st ∈ List.range 8, (d st).fld Fld.COB_BRINGUP_STATE = st) ∧ ({} : Dev).power.good = false ∧ ({} : Dev).power.latched = false ∧
    (d 1).fld Fld.SEC_ROLLBACK_FUSED ≤ img.rollback ∧ img.rollback ≤ 128 ∧
    (d 1).fld Fld.COB_BRINGUP_TIME_ENTRY + stateLimit 1 ≤ ({ d 1 with now := 10 ^ 15 } : Dev).t ∧
    (d 1).t < (d 1).fld Fld.COB_BRINGUP_TIME_ENTRY + stateLimit 1 ∧
    (d 3).fld Fld.COB_BRINGUP_TIME_ENTRY + (d 3).fld Fld.COB_BRINGUP_CFG_TRAIN_WINDOW * 10 ^ 9 ≤ ({ d 3 with now := 10 ^ 15 } : Dev).t ∧
    (d 4).cob.readyAt = none ∧ (d 4).cob.desc = none ∧
    ({ d 4 with cob := { desc := some (List.replicate 1344 0) } } : Dev).cob.desc = some (List.replicate 1344 0) := by
  decide +kernel

/-! ### States that meet the hypotheses of the statements: power, host, store, counters, registers -/

/-- WeirHoldsTheBudget, PowerStageAndSideband. -/
theorem witness_weir :
    let r : Readings := {}
    let hot : Readings := { junction := [(103, 120)] }
    let d (st : Nat) : Dev := { withFlds {} [(Fld.WEIR_STATUS_STAGE, st)] with now := 50000 }
    (∀ k, k < 104 → NMap.get 0 r.junction k < ({} : Dev).fld Fld.WEIR_THERMAL_CRIT) ∧
    ({} : Dev).fld Fld.WEIR_THERMAL_CRIT ≤ NMap.get 0 hot.junction 103 ∧ ({} : Dev).weir.crit = false ∧
    (d 0).fld Fld.WEIR_BUDGET_FAST_LIMIT ≤ 60000 ∧ (d 1).fld Fld.WEIR_STATUS_STAGE = 1 ∧ (∀ t, (d 1).weir.tripAt = some t → t + 50000 ≤ (d 1).t) ∧
    (d 2).fld Fld.WEIR_STATUS_STAGE = 2 ∧ (∀ x ∈ List.replicate 10 60000, (d 2).fld Fld.WEIR_BUDGET_BUDGET < x) ∧
    (d 0).flag Fld.WEIR_OP_REQ_ARM = false := by decide +kernel
theorem witness_avs :
    let d := withRaw {} (0x102000 + 8 * 103) (800 * 2 ^ 32 + 700 * 2 ^ 16)
    2 * d.fld (Fld.WEIR_AVS_FLOOR.nth 8 103) ≤ d.rail2 103 ∧ d.rail2 103 ≤ 1800 ∧ d.rail2 103 + 5 ≤ 1800 ∧
    NMap.get 0 d.weir.good 103 + 1 < 100 ∧ 100 ≤ NMap.get 0 ({ good := [(103, 99)] } : Weir).good 103 + 1 := by decide +kernel
theorem witness_power :
    let p : PowerSample := { junction := 125 }
    let d : Dev := { power := { good := true }, weir := { valid := true } }
    decide (125 ≤ p.junction) = true ∧ p.under = false ∧ p.above = false ∧ p.current = false ∧ d.power.good = true ∧ d.weir.valid = true ∧
    ({ power := { alerts := 4 } } : Dev).power.alerts ≠ 0 ∧ ({ power := { shutdown := 1 } } : Dev).power.shutdown ≠ 0 := by decide +kernel

/-- HostCommandProtocol, HostPortAndTime: a queue pair that is up on a link that is up, with the device booting, bringing up, ready. -/
def hosted (up : Nat) (now : Nat := 0) : Dev :=
  { withFlds (normal {}) [(Fld.COB_BRINGUP_STATE, up), (Fld.HOST_LINK_STATUS_STATE, 2)] with
    now := now, host := { qps := [(0, some {})], windows := [⟨1, 0x1000, 4096, 3, 0⟩] }, cob := { fw := decide (2 ≤ up) } }
theorem witness_host :
    let h : Hdr := { qp := 0, seq := 1 }
    (hosted 5).qp h.qp = some {} ∧ (hosted 5).upState = 5 ∧ (hosted 0).upState = 0 ∧ (hosted 5).serving = true ∧ (hosted 5).fwUp = true ∧
    (hosted 1).fwUp = false ∧ (hosted 1).loader = true ∧ (hosted 5).loader = false ∧ (hosted 5).hostReach 0x808 = true ∧
    (hosted 5).hostReach 0x400008 = true ∧ (hosted 5).hostReach 1 = false ∧ (hostRange 0x1000).isSome = true ∧
    hostRange 0x1000 = hostRange (0x1000 + 4096 - 1) ∧ (hosted 5).host.windows.length < 64 ∧ (hosted 5).cob.start = none ∧
    (hosted 5).t + 100000 ≤ 100000 ∧ (hosted 5).flag Fld.COB_RACE_REQ_ARM = false ∧ (hosted 5).placement 0 = [] ∧
    (hosted 5).anyRunning = false ∧ (hosted 5).flag Fld.COB_STEP_NEXT_ARM = false := by decide +kernel
theorem witness_hostPort :
    let d := hosted 5 (10 ^ 10)
    let e := withFlds d [(Fld.FT_SOURCE_SOURCE, 0x1E), (Fld.FT_STATUS_VALID, 1)]
    d.windowOk 1 0x1000 64 1 = true ∧ d.windowOk 1 0x1000 4096 0 = true ∧ d.windowOk 1 0x1001 4096 0 = false ∧
    d.windowOk 2 0x1000 64 1 = false ∧ d.fld Fld.HOST_LINK_STATUS_STATE = 2 ∧ d.qp 1023 = none ∧ d.host.evQp = none ∧
    ({} : QP).last + 55000 ≤ d.t ∧ e.fld Fld.FT_SOURCE_SOURCE = 0x1E ∧ e.flag Fld.FT_STATUS_VALID = true ∧
    e.host.syncAt + 3 * 10 ^ 9 ≤ e.t ∧ e.flag Fld.FT_STATUS_HOLDOVER = false := by decide +kernel

/-- CheckpointStore: a request in the ring, requests that run and that have run, an object with a page that fails, blocks used and free. -/
def reqBytes (op len : Nat) : List Byte := bytesOf 64 [(0, op), (8, 7), (16, 0x1400), (24, len)]
def stored (st : Nat) (reqs : List CksReq := []) (mem : List Byte := []) : Dev :=
  { withFlds (withRaw (mem1 mem) 0x0C000008 (15000 * 2 ^ 16)) [(Fld.CKS_STATUS_STATE, st), (Fld.CKS_RING_CTRL_ENABLE, 1), (Fld.CKS_RING_CTRL_TAIL, 1), (Fld.CKS_RING_BASE_BASE, 0x40),
      (Fld.CKS_CQ_BASE_BASE, 0xA0), (Fld.CKS_CQ_BASE_SIZE_LOG2, 4)] with
    cks := { reqs, objs := [{ id := 7, bytes := List.replicate 128 5, step := 3, digest := [], time := 0, blks := [2], bad := some 64 }],
             blks := [(2, { used := true })] } }
theorem witness_cksRing :
    let d := stored 2 [] (reqBytes 1 64)
    d.flag Fld.CKS_RING_CTRL_ENABLE = true ∧ d.cksServes = true ∧ d.cksFull = false ∧ d.fld Fld.CKS_RING_CTRL_HEAD = 0 ∧
    d.fld Fld.CKS_RING_CTRL_TAIL = 1 ∧ readyB d (64 * d.fld Fld.CKS_RING_BASE_BASE) 64 = true ∧ reqBad (reqBytes 1 64) = false ∧
    reqBad (reqBytes 0 64) = true ∧ readyB d (32 * d.fld Fld.CKS_CQ_BASE_BASE) 32 = true := by decide +kernel
theorem witness_cksOps :
    let q (op : Nat) : CksReq := { index := 0, bytes := reqBytes op 64 }
    let d := stored 2 [q 1]
    rOp (q 1).bytes = 1 ∧ rId (q 1).bytes = 7 ∧ rLen (q 1).bytes = 64 ∧ rAddr (q 1).bytes = 0x1400 ∧ d.cksServes = true ∧
    64 ≤ d.cksFree ∧ d.cks.objs.length < maxObjs ∧ readyB d 0x1400 64 = true ∧ (d.obj 7).isSome = true ∧ (d.obj 8) = none ∧
    (stored 3 [q 3]).fld Fld.CKS_STATUS_STATE = 3 ∧ (d.nand 2).used = true ∧ (d.nand 2).bad = false ∧ (d.nand 0).used = false ∧
    15000 ≤ d.fld Fld.CKS_WEAR_SPARE := by decide +kernel

/-- CounterWindows, RegisterWrites. -/
theorem witness_registers :
    let d : Dev := { withFlds {} [(Fld.CNT_CTRL_ARM, 1), (Fld.CNT_START_TICK, 5), (Fld.CNT_FREEZE_TICK, 10)] with now := 5 }
    d.flag Fld.CNT_CTRL_ARM = true ∧ d.flag Fld.CNT_CTRL_COUNTING = false ∧ d.fld Fld.CNT_START_TICK ≤ d.t ∧
    d.t < d.fld Fld.CNT_FREEZE_TICK ∧ ({ d with now := 10 } : Dev).fld Fld.CNT_FREEZE_TICK ≤ 10 ∧ counterCodes.length ≠ 0 ∧
    1023 ∉ counterCodes ∧ rowAt 4 = none ∧ (rowAt 0x528).isSome = true ∧
    ({} : Dev).flag (Fld.HBM_FILL_START.at (memBase 19)) = false ∧ ({} : Dev).fld ((Fld.HBM_REMAP_VALID.nth 8 63).at (memBase 19)) = 0 ∧
    ({} : Dev).coreState 0 = .empty ∧ (({} : Dev).lidOf 0).isSome = true ∧ ({} : Dev).flag Fld.COB_STITCH_FORCE_ARM = false := by
  decide +kernel

/-- CounterWindows: core 0 with counter 63 on its issued instructions, at the largest value. -/
def counted : State :=
  { dev := withRegs (runs (ins 0x00 [])).dev [(0x0E0003F0, 2 ^ 63 + 2 ^ 62 + 2 ^ 48 + 2 ^ 40), (0x0E0003F8, 2 ^ 48 - 1)] }
theorem witness_counting : goes opNop counted 0 = true ∧ (counted.dev.regs.map Prod.fst).Nodup ∧ counted.dev.counts = true ∧
    (let v := counted.dev.reg (0xE000000 + 16 * 63); bit v 63 = true ∧ bits v 57 48 = 1 ∧ bits v 47 40 = 1 ∧ bits v 31 0 = 0) := by
  decide +kernel
theorem test_counter_overflow : (match exec (.nop 0) counted with | .next t => some (t.dev.reg 0x0E0003F8) | _ => none) =
    some 0x8000FFFFFFFFFFFF := by decide +kernel

/-! ### States that meet the further hypotheses: sending, links, units that answer -/

theorem reaches_self (d : Dev) {dev : Nat} (h : dev = d.devId) : Reaches d dev := .inl h
/-- The answer of a node that has nothing else to send. -/
theorem witness_canAnswer : CanAnswer up1 5 (pkt .read) 1024 ∧ CanAnswer (normal {}) 0 (pkt .message) 8 ∧ CanSend (normal {}) 0 0 9 ∧
    CanSend (normal {}) cobNode 0 1 :=
  ⟨⟨by unfold CanSend; decide +kernel, .inl (by decide +kernel)⟩, ⟨by unfold CanSend; decide +kernel, .inl (by decide +kernel)⟩,
   by unfold CanSend; decide +kernel, by unfold CanSend; decide +kernel⟩

/-- UnitInstructionsTakePlace, TilesAndInt8Product, FlagAndBarrierInstructions: the conditions of mma, mmasp, mmag and of saudit. -/
theorem witness_runsEmpty : ready.vu = [] ∧ ready.mu = [] := ⟨rfl, rfl⟩
theorem witness_runsMatrix :
    let calm (s : State) : Bool := bits (s.dev.reg (0x480 + 8 * (s.dev.core 0).fld Fld.CORE_PROG_REGION_REGION)) 10 8 == 0
    let md : Word := BitVec.ofNat 64 (128 * 2 ^ 28 + 1 * 2 ^ 25)
    let s := runs (mat 0x61 6) { ready with spad := putBytes [] 0x4000 (leBytes 8 md.toNat) }
    let i := opMmasp.iss s.dev 0
    let k := s.dev.core 0
    goes opMmasp s 0 = true ∧ calm (runs (mat 0x60 5) ready) = true ∧ calm s = true ∧ (i.s (bits i.w 27 23)).toNat / 32 = 1 ∧
    ownRange (s.dev.lid 0) (i.s (bits i.w 10 6)).toNat 8 = some 0x4000 ∧
    md = BitVec.ofNat 64 (ofBytes (getBytes k.log.spad 0x4000 8)) ∧ mdBad (bits i.w 20 18) md = false ∧
    ownRange (s.dev.lid 0) (i.s (bits i.w 32 28)).toNat (mdSize md) = some 8192 ∧
    k.anyBank 8192 (mdSize md) 1 = false ∧ 8192 + mdSize md ≤ k.spillBase ∧
    tileBad (fmtB (bits i.w 20 18)) md (getBytes k.log.spad 8192 (mdSize md)) = false := by decide +kernel
/-- A gather list of zeros at 4000h, and the bytes of column 0. -/
theorem witness_runsGather :
    let s := runs (mat 0x62 6) ready
    let i := opMmag.iss s.dev 0
    let k := s.dev.core 0
    ownRange (s.dev.lid 0) (i.s (bits i.w 10 6)).toNat 64 = some 0x4000 ∧ ofBytes (getBytes k.log.spad 0x4000 2) = 0 ∧
    ownRange (s.dev.lid 0) (i.s (bits i.w 32 28)).toNat (packedLen 1 32) = some 8192 ∧ k.anyBank 8192 (packedLen 1 32) 1 = false ∧
    8192 + packedLen 1 32 ≤ k.spillBase ∧ isScaled (fmtB 6) = false := by decide +kernel
/-- A `saudit` of a record of 32 scores with an empty list, in no entry and in one of an owner; an `sgate` below LAG. -/
def auditing (role : Nat) : State :=
  let cfg := setF (setF (setF 0 Fld.CORE_SLU_CFG_VALID 1) Fld.CORE_SLU_CFG_ROLE role) Fld.CORE_SLU_CFG_LAG 2
  served (runs (vms 0x81 0) { ready with s := NMap.set 0 ready.s 6 32, regs := ready.regs ++ [(0x800, cfg)] })
theorem witness_audit :
    let s := auditing 1
    let i := opSaudit.iss s.dev 0
    let k := s.dev.core 0
    goes opSaudit (auditing 0) 0 = true ∧ goes opSaudit s 0 = true ∧ (i.s (bits i.w 22 18)).toNat = 32 ∧
    ownRange (s.dev.lid 0) (i.s (bits i.w 32 28)).toNat (recordMax 32) = some 64 ∧ ofBytes (getBytes k.log.spad (64 + 8) 4) = 0 ∧
    recordMax 32 ≤ 2 ^ 19 ∧ k.layer (bits (i.s (bits i.w 4 0)) 47 32) = some 0 ∧ k.flag (slu Fld.CORE_SLU_CFG_ROLE 0) = true ∧
    ((auditing 0).dev.core 0).flag (slu Fld.CORE_SLU_CFG_ROLE 0) = false ∧ k.flag (slu Fld.CORE_SLU_CFG_STRICT 0) = false ∧
    (s.dev.hostOf (k.fld (slu Fld.CORE_SLU_VERDICT_CORE 0))).isSome = true ∧
    k.ordinal 0 s.dev.stepNo < k.fld (slu Fld.CORE_SLU_CFG_LAG 0) := by decide +kernel

/-- StitchWords, EddySuspectsAndProbePaths: a core whose links stop, one of row V, a link that goes on. -/
theorem witness_links :
    let d : Dev := { cob := { copying := true } }
    d.linksStopped 0 = true ∧ ({} : Dev).linksStopped 0 = false ∧ (({} : Dev).mapAt 0).hasLink 0 1 = true ∧
    (({} : MapBank)).hasLink (12 * 1088) 0 = false ∧ NMap.get none ({} : Silicon).awaits 0 = none ∧ ({} : Silicon).lane.length < 4 ∧
    4 ≤ ({ lane := List.replicate 4 (0, { init := 0, serial := 0, up := true, stream := 0 }) } : Silicon).lane.length := by decide +kernel

/-- EddySpills: an order that stands with the watcher. -/
theorem witness_spillOrder :
    let p : Packet := { ptype := .spillOrder, src := 0, dst := 0, dstCore := 0 }
    let d : Dev := { arrived := [(0, { p, at_ := 0 })] }
    (0 < numLogical ∧ d.hostOf 0 = some 0 ∧ ∃ y ∈ d.arrived, y.1 = 4 * routerOf 0 ∧ y.2.p.ptype = .spillOrder ∧ y.2.p.dstCore = 0 ∧
      y.2.p.aux = 0) ∧ (∀ y ∈ ({} : Dev).arrived, ¬ y.1 = 0) ∧ ({ w := word 0 0 0 0 } : SWord).errs = [] := by decide +kernel

/-- EpochChanges: a copy that loses no answer, the two banks of a flip. -/
theorem witness_copyEnd : ({ copying := true } : Cob).mergeLost = false ∧
    ∀ m ∈ [({} : MapBank), { gaps := [(3, 0)] }], m.v ≤ 12 ∧ ∀ i ∈ List.range 832, NMap.get 16 m.gaps i ≤ 16 := by decide +kernel

/-- RaceTraffic: the room of an arrival, a packet awaited again, the first packet of an output, a merged answer with room. -/
theorem witness_raceRoom :
    let d := normal {}
    (∀ x ∈ (NMap.get none (d.router 9).awaits 6).toList, x = east) ∧ east.badPar = [] ∧
    (d.landed 9 6 east).queued 9 6 (vcOf east.ptype) + flitsOf east ≤ 18 ∧
    (let e : Dev := { routers := [(9, { awaits := [(6, some east)] })] }
     NMap.get none (e.router 9).awaits 6 = some east ∧ east ≠ { east with txn := 9 }) ∧
    d.toSend (4 * 9 + 3) 0 = [] ∧ d.toSend (4 * 9 + 3) 1 = [] ∧ d.queued 9 0 1 + 1 ≤ 18 := by decide +kernel
theorem witness_raceFirst :
    let d := holding east 2
    (2, ({ p := east, at_ := 0 } : QPkt)) ∈ d.waitingFor 9 4 ∧ d.canLeave 9 4 east = true ∧
    (∀ y ∈ d.waitingFor 9 4, y = (2, ({ p := east, at_ := 0 } : QPkt))) ∧ d.toSend (4 * 9 + 1) 0 = [] ∧ d.toSend (4 * 9 + 1) 1 = [] := by
  decide +kernel
theorem witness_raceLocalFirst :
    let p : Packet := { pkt .flagRead with dst := 36 }
    let d := holding p 2
    (2, ({ p, at_ := 0 } : QPkt)) ∈ d.waitingFor 9 0 ∧ d.canLeave 9 0 p = true ∧ p.dstDev = d.devId ∧
    (∀ y ∈ d.waitingFor 9 0, y = (2, ({ p, at_ := 0 } : QPkt))) ∧
    (let q : Packet := { p with mc := 1, mcLo := 1, mcHi := 3 }
     q.mcLo = 9 % 8 ∧ q.mcLo < q.mcHi) := by decide +kernel
theorem witness_raceBlocked :
    let d : Dev := { holding east 2 with cob := {} }
    let e : Dev := { d with routers := d.routers ++ [(10, { q := [(12, List.replicate 32 { p := east, at_ := 0 })] })] }
    (∀ y ∈ e.waitingFor 9 4, e.canLeave 9 4 y.2.p = false) := by decide +kernel
theorem witness_mergedAnswer :
    let m : Merge := ⟨[mergeIn (contribPkt 1), mergeIn (contribPkt 2)]⟩
    let d : Dev := { routers := [(9, { merges := [(3, some m)] })] }
    NMap.get none (d.router 9).merges 3 = some m ∧ isResponse PType.accept = true ∧ (pkt .accept).txn = 3 ∧
    d.queued 9 0 1 + m.ins.length * flitsOf (pkt .accept) ≤ 18 ∧ (∀ x ∈ m.ins, x.2.1 = d.devId) ∧
    d.toSend (4 * 9 + 3) 0 = [] ∧ d.toSend (4 * 9 + 3) 1 = [] := by decide +kernel
theorem witness_agedAnswered :
    let d := holding east 2 (10 ^ 9)
    let x : QPkt := { p := east, at_ := 0 }
    x ∈ NMap.get [] (d.router 9).q 2 ∧ x.at_ + d.ageLimit ≤ d.t ∧ expectsAnswer x.p.ptype = true ∧
    (∀ j, j < 14 → ∀ y ∈ NMap.get [] (d.router 9).q j, y.p = x.p → j = 2 ∧ y = x) ∧
    (let e : Dev := { arrived := [(0, x)], now := 10 ^ 9 }
     (4 * 0, x) ∈ e.arrived ∧ x.at_ + e.ageLimit ≤ e.t) := by decide +kernel

/-- ReadsAndWrites: a WRITE behind another of its core to the same scratchpad, a packet with a parity error. -/
theorem witness_behindOther :
    let p (a : Nat) : Packet := { pkt .write with addr := 0x400000000000 + a, payload := [1] }
    let d : Dev := { arrived := [(0, { p := p 0, at_ := 0 }), (0, { p := p 64, at_ := 0 })] }
    d.behindOther 0 (p 64) = true ∧ d.behindOther 0 (p 0) = false ∧ (p 0).badPar = [] ∧ ({ p 0 with badPar := [3] } : Packet).badPar ≠ [] := by
  decide +kernel

/-- AnswersCompleteOperations: an operation that awaits its last answer. -/
theorem witness_whole :
    let o : Op := { tag := 1, pc := 0, kind := .msg, out := [({ pkt .read with txn := 3 }, 1)] }
    o.out = [({ pkt .read with txn := 3 }, 1)] ∧ o.todo = [] ∧ o.busy = [] ∧ o.st = 0 ∧ o.ue = none ∧ o.tag < 32 := by decide

/-- Messages: a core whose state is on its way, a message sent again that nothing holds, one that a flip holds. -/
theorem witness_resend :
    let q : Packet := { msgPkt with txn := 4 }
    let o : Op := { tag := 1, pc := 0, kind := .msg, busy := [q] }
    let d := normal (coreIs 0 { log := { ops := [o] } })
    let held : Op := { tag := 2, pc := 0, kind := .msg, out := [({ q with epoch := 3 }, 1)] }
    let e := normal (coreIs 0 { log := { ops := [o, held] } })
    ({ cob := { copying := true } } : Dev).coreHeld 0 = true ∧ d.flipHold 0 q = false ∧ d.admitsCore 0 q = true ∧ e.flipHold 0 q = true ∧
    q.mc = 0 ∧ q.ptype = .message ∧ q.dstDev = d.devId ∧ d.refuseSend 0 q = none ∧ d.toSend 0 0 = [] ∧ d.toSend 0 1 = [] := by
  decide +kernel

/-- FlagsAndBarriers: a reset notice that finds one request out, its sender being the request's destination. -/
theorem witness_noticeOut :
    let d := awaits .msg
    let o : Op := { tag := 1, pc := 0, kind := .msg, out := [({ pkt .read with txn := 3 }, 1)] }
    ((d.clusterOps 0).flatMap fun y => (y.2.out.filter fun z => (d.translate z.1).dst == 0).map fun z => z.1) = [{ pkt .read with txn := 3 }] ∧
    (∀ x ∈ d.clusterOps 0, x.2.todo = []) ∧ d.findOut 0 3 = some (0, o, { pkt .read with txn := 3 }) := by decide +kernel

/-- InstructionLoads: the second word of two, which fits and whose CRC matches. -/
theorem witness_iloadCrc :
    let p : Packet := { pkt .iload with addr := 1 + 2 * 2 ^ 16, payload := List.replicate 8 1 }
    let ws : List Word := (chunks 8 128 p.payload).map fun b => BitVec.ofNat 64 (ofBytes b)
    let l : LCore := { imem := [(0, 0x0101010101010101)] }
    iloadIndex p = 1 ∧ iloadTotal p = 2 ∧ ws.length = 1 ∧ (l.putImem 1 ws).imemCrc 2 = crc32 (List.replicate 16 1) ∧
    crc32 (List.replicate 16 1) ≠ 0 := by decide +kernel

/-- ConfluenceQueues: a destination no core has, an entry with nothing on its way. -/
theorem witness_confOnTime : (confDev 1).confOnTime 0 5 = [] ∧ numLogical ≤ ({ confPkt with dstCore := numLogical } : Packet).dstCore := by
  decide +kernel

/-- WeltRings, WeltMovesData: a descriptor whose request is out, and one without. -/
theorem witness_asked :
    let d := ringed []
    let x : Desc := { ring := 0, index := 0, bytes := descOf 1 0 64 0x1000 0x1800, at_ := 0, asked := some 0 }
    let e : Dev := { d with mems := [(1, { descs := [x] })] }
    ((e.memc 1).descs.find? fun u => u.ring == 0 && !u.ran && u.asked.isSome) = some x ∧ e.memPauses 0x1000 = false ∧ e.memPauses 0x1800 = false ∧
    0 + 1000 * e.fld Fld.HANG_TIMEOUTS_WELT_TIMEOUT ≤ e.t ∧ ((started []).memc 1).descs.map Desc.asked = [none] := by decide +kernel
theorem witness_oldest : ∀ b ∈ [descOf 1 0 64 0x1000 0x1800, descOf 5 0 64 0 0x1800, descOf 2 0 64 0x1000 0, descOf 8 0 64 0x1C00 0],
    ∃ x, Oldest (started b) 1 0 (dOp b) x := by
  intro b _
  refine ⟨{ ring := 0, index := 0, bytes := b, at_ := 0 }, ?_, ?_⟩
  · simp [started, Dev.memc, NMap.get]
  · intro u hu _ _ _
    simpa [started, Dev.memc, NMap.get] using hu
theorem witness_edgeIn :
    let d : Dev := { mems := [(1, { edges := [(0, { inq := [word 0 0 0 0] })] })] }
    (d.edge 1 0 0).inq = [word 0 0 0 0] ++ [] ∧ (word 0 0 0 0).kind = 0 ∧ d.cob.copying = false := by decide +kernel

/-- MemoryUnits: a block whose remap copy runs, and one that is neither copied nor under test. -/
theorem witness_scrubHeld :
    up1.remapBusy 1 0 = false ∧ up1.blockTest 1 0 = false ∧ (up1.memc 1).dram = [] ∧
    (withFlds up1 [((Fld.HBM_REMAP_VALID.nth 8 0).at (memBase 1), 1)]).remapBusy 1 0 = true ∧
    (coreIs 0 {}).core 0 = {} ∧ ({} : Core).remapBusy 0 64 = false ∧ 0 < ({} : Core).spillBase := by decide +kernel

/-- FordPacketsAndLinks: a packet whose turn it is, one for this device, one that goes on, a line multicast that does both, a request that
the mode does not carry, a slot with four packets that wait. -/
theorem witness_fordTurns :
    let d := torus4
    let q := pkt .message
    let n := portNode 19
    d.modeRefuses q = false ∧ d.poolTurn 19 0 q = true ∧ q.dstCore < numLogical ∧ d.forHere q = true ∧ q.dstDev = d.devId ∧
    d.forHere crossing = false ∧ (d.exitPort crossing).isSome = true ∧ (d.dirOf crossing).map Prod.fst = some 4 ∧
    (let m : Packet := { pkt .barRelease with dstDev := 1, dstCore := 0x3FFF, mc := 6, mcLo := 0, mcHi := 1 }
     d.forHere m = true ∧ m.dstDev ≠ d.devId ∧ (d.exitPort m).isSome = true) ∧
    d.waiting n < 3 ∧ (withFlds d [(Fld.COB_RACE_STATUS_SERVICE, 0)]).modeRefuses q = true ∧
    (let e : Dev := { d with routers := [(n / 4, { q := [(2 * (n % 4), List.replicate 4 { p := q, at_ := 0 })] })] }
     e.admits n q = false) := by decide +kernel
theorem witness_fordSends : CanSend torus4 (portNode 19) 0 (2 * flitsOf crossing) ∧ CanAnswer torus4 (portNode 19) (pkt .read) 0 :=
  ⟨by unfold CanSend; decide +kernel, by unfold CanSend; decide +kernel, .inl (by decide +kernel)⟩

/-- StepsSealAndCommit: the ways a step goes on. -/
theorem witness_stepWays :
    let d := stepped 2
    let two := withFlds d [(Fld.COB_FORD_TORUS_Z_SIZE, 4), (Fld.COB_FORD_DIR_MASK0.nth 8 4, 2 ^ 12), (Fld.COB_FORD_DIR_MASK0.nth 8 5, 2 ^ 15),
      (Fld.COB_DEVICE_ID_Z, 1)]
    d.startCause = 0 ∧ (∀ e, e < 20 → ∀ r, r < 16 → d.ring Fld.HBM_WELT_RING_CTRL_REPEAT e r = 0) ∧
    (∀ e, e < 20 → ∀ r, r < 16 → d.passDone e r = true) ∧ d.step.sent = false ∧ d.heal.want = none ∧
    d.sealLeaving = false ∧ (∀ p, p < 20 → (d.port p).expelled = false) ∧ d.step.due = [] ∧ d.step.undecided = false ∧
    ({ sent := true } : StepSt).sent = true ∧ ({ barDone := true } : StepSt).barDone = true ∧ two.collector = (some 0, 1) ∧ 0 ≠ two.devId := by decide +kernel
theorem witness_reachesRoot : Reaches (withFlds (stepped 2) [(Fld.COB_FORD_TORUS_Z_SIZE, 4), (Fld.COB_FORD_DIR_MASK0.nth 8 4, 2 ^ 12),
    (Fld.COB_FORD_DIR_MASK0.nth 8 5, 2 ^ 15), (Fld.COB_DEVICE_ID_Z, 1)]) 0 :=
  .inr ⟨(5, false), by decide +kernel⟩
theorem witness_lateStep :
    let due : StepDue := { step := 4, state := 5, cause := 0, endAt := 0, spills := [], shorts := 0, plaus := 0, nonfin := 0, adders := 0 }
    let x (go : Bool) : Late := { due, go, flips := [(1, [])] }
    (∀ k ∈ (x true).flips, k.2 = []) ∧ (x true).go = true ∧ (x false).go = false ∧ due.step ≠ (stepped 2).fld Fld.COB_STEP_STATUS_STEP := by
  decide +kernel
/-- A flip of the shard at 1000h waits with a committing step 1, no digest step of 4. -/
def committing : Dev :=
  let d := withFlds (sharded []) [(Fld.COB_STEP_STATUS_STATE, 4), (Fld.COB_STEP_STATUS_STEP, 1), (Fld.COB_STEP_CFG_DIGEST_N, 4)]
  { d with mems := [(1, { flips := [0x1000] })] }
theorem witness_commitFlip :
    committing.stepState = 4 ∧ (committing.memc 1).flips = [0x1000] ∧ (∀ j, j < 20 → j ≠ 1 → (committing.memc j).flips = []) ∧
    committing.anchoring 0x1000 = false ∧ committing.fld Fld.COB_RACE_STATUS_SERVICE ≠ 0 ∧
    committing.fld Fld.COB_STEP_STATUS_STEP % committing.fld Fld.COB_STEP_CFG_DIGEST_N ≠ 0 ∧ readyB committing 0x1000 64 = true := by
  decide +kernel

/-- TestsAndFences, MovesSlicesAndShifts: responses whose compacted value is the signature, and other ones, whatever the signatures are. -/
theorem witness_bistOk (kind : Nat) :
    bistOk kind (sectionsOf kind) ((sectionsOf kind).map fun s => [Config.bistSignature (patternSet kind) s]) = true := by
  have h : ∀ s, sectionOk kind s [Config.bistSignature (patternSet kind) s] = true := by
    intro s; simp [sectionOk, bistSection, misrNext]
  unfold sectionsOf; split
  · simp [bistOk, List.range, List.range.loop, h]
  · split
    · simp [bistOk, List.range, List.range.loop, h]
    · simp [bistOk]
theorem witness_bistBad : sectionOk 1 0 [Config.bistSignature 1 0 ^^^ 1] = false := by
  simp [sectionOk, bistSection, misrNext, patternSet]
theorem witness_testWays :
    let t (a b : Bool) : Test := { kind := 4, unit := 7, at_ := 0, begun := b, avoid := a }
    let d (a b : Bool) : Dev := { heal := { tests := [t a b] } }
    ((d false false).heal.tests.find? fun x => x.isOf 4 7 && !x.begun) = some (t false false) ∧ (d false false).tablesFree = true ∧
    (withFlds (d false false) [(Fld.COB_RACE_REQ_FLIP, 1)]).tablesFree = false ∧ (d true false).flag Fld.COB_RACE_REQ_FLIP = false ∧
    ((d true true).heal.tests.find? fun x => x.isOf 4 7 && x.begun) = some (t true true) ∧
    (d true true).fld Fld.HEAL_POLICY_TRANSIENT_LIMIT ≤ (d true true).fld Fld.HEAL_POLICY_TRANSIENT_LIMIT - 1 + 1 ∧
    ({} : Dev).map.noMove = [] ∧ (withFlds {} [(Fld.HEAL_POLICY_AUTO_FENCE, 1)]).flag Fld.HEAL_POLICY_AUTO_FENCE = true := by decide +kernel
theorem witness_sliceWays :
    let e : Dev := withFlds {} [(Fld.HEAL_ROT_CFG_ENABLE, 1), (Fld.HEAL_ROT_CFG_INTERVAL, 1), (Fld.HEAL_ROT_CFG_PARALLEL, 1),
      (Fld.FT_EPOCH_CFG_PERIOD, 10000), (Fld.FT_STATUS_VALID, 1), (Fld.COB_BRINGUP_STATE, 5)]
    e.sliceWindow = true ∧ e.t ≤ e.fld Fld.FT_EPOCH_START_TICK + 1 ∧ e.sendq = [] := by decide +kernel

/-- HangsAndCaptures, ResetDomains. -/
theorem witness_suspects :
    let x : Capture := { trigger := 3, domain := 2, index := 0, since := 0 }
    let d : Dev := { cob := { capture := some x } }
    d.captured 4 9 = true ∧ (4, 9) ∉ x.missing ∧ d.cob.waiting = [] ∧ ({} : Dev).lagging 4 9 = false ∧
    (∀ y ∈ ({} : Dev).heal.tests, y.isOf 4 9 = true → y.begun = false) ∧ NMap.wf ({} : MemCtl) ({} : Dev).mems = true := by decide +kernel

/-- BringUpSequence: a descriptor that the check takes as a whole, with no port in use, and one that fails it. -/
theorem witness_topology :
    let x := bytesOf 1344 ((0, 1) :: (4, 1) :: (5, 1) :: (6, 1) :: (List.range 18).map fun p => (64 + 64 * p + 1, p / 3))
    let d : Dev := withFlds { cob := { desc := some x } } [(Fld.COB_BRINGUP_STATE, 4), (Fld.COB_DEVICE_ID_VALID, 1), (Fld.FT_SOURCE_SOURCE, 0x1F),
      (Fld.COB_FORD_TORUS_X_SIZE, 1), (Fld.COB_FORD_TORUS_Y_SIZE, 1), (Fld.COB_FORD_TORUS_Z_SIZE, 1)]
    d.wholeCheck x = none ∧ (∀ p, p < 20 → d.portCheck x p ≤ 1 ∧ descUse x p = 0) ∧ d.benched = false ∧ d.cob.readyAt = none ∧
    (d.wholeCheck []).isSome = true ∧
    (let y := bytesOf 1344 ((64, 1) :: (0, 1) :: (4, 1) :: (5, 1) :: (6, 1) :: (List.range 18).map fun p => (64 + 64 * p + 1, p / 3))
     d.wholeCheck y = none ∧ 2 ≤ d.portCheck y 0 ∧ d.portCheck y 0 ≠ 7 ∧ accepts (descPolicy y) (d.portCheck y 0) = false) := by
  decide +kernel
/-- A MiB of HBM serves on each controller. -/
theorem witness_servingAll :
    let d := withFlds {} ((List.range 20).map fun k => (Fld.HBM_STATUS_STATE.at (memBase k), 3))
    ∀ k, k < 20 → d.fld (Fld.HBM_STATUS_STATE.at (memBase k)) = 3 := by decide +kernel

/-- WeirHoldsTheBudget: a trip in this Race cycle, one in another; a grant period in the cycle of a trip. -/
theorem witness_trips :
    let d (at_ : Option Nat) : Dev := { now := 80000, weir := { tripAt := at_, before := some (80000, []) } }
    (d (some 80000)).trippedNow = true ∧ (d none).trippedNow = false ∧ (80000 : Nat) * 8 / 5 = (d none).raceCycle ∧
    (∀ u, u < 144 → NMap.get 0 ([] : NMap Nat) u < 2 ^ 16) ∧ NMap.get 0 (d none).weir.tapAt 9 = 0 ∧
    ({ crit := true } : Weir).crit = true := by decide +kernel

/-- HostCommandProtocol, HostPortAndTime: no other queue pair loads an image, one does; a link that may try again. -/
theorem witness_elsewhere :
    let d := hosted 5
    let h : Hdr := { qp := 1, seq := 1 }
    let e : Dev := { d with host := { d.host with qps := [(0, some {}), (1, some { cmds := [.imageLoad h 0x1000 64 1 0] })] } }
    d.runsElsewhere 0 isImageLoad = false ∧ d.runsElsewhere 0 isFwUpdate = false ∧ e.runsElsewhere 0 isImageLoad = true ∧
    d.host.retryAt ≤ d.t ∧ d.host.paused = false := by decide +kernel
/-- An image of one register section for region 0, at 1000h. -/
def image : List Byte :=
  let body := bytesOf 24 [(0, 7), (3, 2), (8, 80), (12, 8), (16, 5)]
  bytesOf 32 [(0, 0x49505354), (4, 1), (5, 9), (6, 1), (8, 1), (12, 1), (16, 88)] ++ sha256 body ++ body
theorem witness_image :
    let d : Dev := { hosted 5 with mem := putBytes [] (memKey 1 0) image }
    let d := withFlds d [(Fld.HBM_STATUS_STATE.at (memBase 1), 3)]
    imageStatus image 88 1 = 0 ∧ image.length = 88 ∧ ofBytes (slice image 16 8) = 88 ∧ readyB d 0x1000 88 = true ∧
    memBytes d 0x1000 88 = image ∧ d.selected image 1 0 = [⟨7, 0, 2, 0, 80, 8⟩] ∧ d.serving = true ∧ d.placement 1 = [] ∧
    getF (BitVec.ofNat 64 (ofBytes (slice image 80 8)) : Word) Fld.COB_NUM_REGION_RANGE_EXP = 5 := by decide +kernel

/-- CheckpointStore: a request whose turn it is, one behind another of its object; no table declared, and one within the bytes of a READ. -/
theorem witness_turns :
    let q (i op : Nat) : CksReq := { index := i, bytes := reqBytes op 64 }
    let d := stored 2 [q 0 1, q 1 2]
    d.cks.reqs = [] ++ q 0 1 :: [q 1 2] ∧ (q 0 1).ran = false ∧ rId (q 0 1).bytes = rId (q 1 2).bytes ∧
    rRegion (q 0 1).bytes = rRegion (q 1 2).bytes ∧ rRegion (q 1 2).bytes = 0 ∧ d.cob.tables = [] ∧
    ({ tables := [(0, [0x1400])] } : Cob).tables = [(0, [0x1400])] := by decide +kernel

/-- RegisterWrites: a status register has RO fields alone. -/
theorem witness_readOnly : (rowAt 0x10).isSome = true ∧ ({} : Dev).justSet (memBase 3 + 8) = 0 := by decide +kernel

/-! ### Codes and checks, by the check values their standards publish (FIPS 180-4; CRC-32 of "123456789") -/

theorem test_sha256_abc : sha256 [0x61, 0x62, 0x63] =
    leBytes 32 0xAD1500F261FF10B49C7A1796A36103B02322AE5DDE404141EACF018FBF1678BA := by decide +kernel
theorem test_crc32_check : crc32 [0x31, 0x32, 0x33, 0x34, 0x35, 0x36, 0x37, 0x38, 0x39] = 0xCBF43926 := by decide +kernel

/-! ### The block as a whole -/

/-- A queue of two commands, the second one well-formed and the first one not. -/
def waiting : State := { pending := [.nop 14144, .nop 0] }
theorem test_step_faults : step waiting = .fault .noSuchUnit := rfl
theorem test_step_front : step { waiting with pending := [.epochTick] } = exec .epochTick { waiting with pending := [] } := rfl
theorem witness_queue : ∀ c ∈ ({ pending := [.nop 0, .epochTick] } : State).pending, c.wf = true := by decide
theorem witness_memory : Memory.wf State.reset.dev.mem = true ∧ Memory.wf (mem1 [1, 0, 3]).mem = true := by decide +kernel
theorem witness_idle : State.reset.pending = [] ∧ State.reset.dev.slew = 0 ∧ State.reset.dev.host.qps = [] ∧ State.reset.dev.host.remote = [] ∧
    State.reset.dev.flag Fld.FT_STATUS_HOLDOVER = false ∧ State.reset.dev.counterOn = false ∧ State.reset.dev.host.paused = false ∧
    (let later : Dev := { State.reset.dev with now := 1, phase := 1 }; later.boundaries = later) := by decide +kernel

/-- Ill-formed commands: one for each check of WellFormed.lean, at the first number past its range. -/
theorem test_illformed :
    okCore 14144 = false ∧ okLink 4 = false ∧ okQueue 32 = false ∧ okRouter 104 = false ∧ okNode 416 = false ∧ okMem 20 = false ∧
    okRing 16 = false ∧ okPort 20 = false ∧ okStore (.mem 20) = false ∧ okStore (.bank 0 8) = false ∧ okHold (.router 104) = false ∧
    okHold (.slot 416) = false ∧ okHold (.pool 20) = false ∧ okSeg 832 = false ∧ okLogical 12288 = false ∧ okMeshPort 0 3 = false ∧
    okMeshPort 7 4 = false ∧ okMeshPort 96 5 = false ∧ okMeshPort 8 6 = false ∧ okMeshPort 0 7 = false ∧ okUnit 2 = false ∧
    okRemap (.mem 0) 256 = false ∧ okRemap (.mem 16) 64 = false ∧ okRemap (.bank 0 1) 3 = false ∧ okBlock (.mem 0) (48 * 2 ^ 24) = false ∧
    okBlock (.bank 0 0) 768 = false ∧ okDomain 8 0 = false ∧ okDomain 3 20 = false ∧ okErase 750000 = false ∧ okSelect 0x0E000008 = false := by
  decide
theorem test_illformed_commands :
    ([.add 14144, .weltNop 20 0, .weltNop 0 16, .fordRetrain 20, .epochTick, .confDeadline 104 0, .blockRetire 750000] : List Instr).map Instr.wf =
      [false, false, false, false, true, false, false] := by decide

end Sys2Proof.Tests
end

section
/-!
PROOFS. Control flow (03 R79, R81; 02 R36, R43, R45): instructions whose only effect is where the core goes on, the conditions of `br`,
and the end of a program.
-/
namespace Sys2Proof.Machine

/-! ### What an issuing instruction has waited for -/

/-- No tag that an issuing instruction names is pending in its core (R43). -/
theorem Issues.tag_clear {o : OpDef} {s : State} {c : Nat} {i : Iss} (h : Issues o s c i) {t : Nat} (ht : t ∈ o.tags i.w) :
    (s.dev.core c).log.ctPend.testBit t = false := by
  obtain ⟨-, hk, -⟩ := OpDef.verdict_parts h.2.1
  obtain ⟨-, -, -, -, -, -, htags, -⟩ := OpDef.verdict_go h.2.1
  rw [← hk]
  exact htags t ht

/-- Nothing that an instruction is held for stands when it issues (R40 (d)). -/
theorem Issues.not_held {o : OpDef} {s : State} {c : Nat} {i : Iss} (h : Issues o s c i) : o.held i = false := by
  obtain ⟨-, -, -, -, hheld, -⟩ := OpDef.verdict_go h.2.1
  exact hheld

/-! ### Instructions without an effect of their own -/

/-- An instruction whose effect is the next pc alone leaves its core RUNNING, its registers and everything else of the block. -/
theorem goesOn_of_run_eq {mk : Nat → Instr} {o : OpDef} (hx : ∀ c s, exec (mk c) s = coreCmd o c s)
    (hrun : ∀ i d, o.run i d = d) : GoesOn mk o o.code o.last o.next := by
  intro s c i h
  refine h.completes hx _ fun b hb hu _ _ => ?_
  rw [hrun]
  refine ⟨CoreOnly.finish h.1 hb _, ?_⟩
  rw [Dev.tally_core, Dev.core_modLog_self]
  refine ⟨?_, hu.keeps.advance _ _, Goes.advance hu.flow _ _⟩
  rw [LCore.advance_state, hu.state, h.running]

theorem nop_goesOn : GoesOn .nop opNop 0x00 (fun i => i.pc) (fun _ => none) :=
  goesOn_of_run_eq (o := opNop) (fun _ _ => rfl) fun _ _ => rfl
theorem wait_goesOn : GoesOn .wait opWait 0x02 (fun i => i.pc) (fun _ => none) :=
  goesOn_of_run_eq (o := opWait) (fun _ _ => rfl) fun _ _ => rfl
/-- `br` goes to TARGET when `holds`, which is what its COND says of its two registers (R81). -/
theorem br_goesOn {holds : Iss → Bool} (hc : ∀ i, condHolds (bits i.w 27 25) (i.s (rD i.w)) (i.s (rA i.w)) = holds i) :
    GoesOn .br opBr 0x03 (fun i => i.pc) (fun i => if holds i then some (bits i.w 11 0) else none) := by
  rw [← funext hc]
  exact goesOn_of_run_eq (o := opBr) (fun _ _ => rfl) fun _ _ => rfl
theorem jr_goesOn : GoesOn .jr opJr 0x05 (fun i => i.pc) (fun i => some (bits (i.s (rA i.w)) 11 0)) :=
  goesOn_of_run_eq (o := opJr) (fun _ _ => rfl) fun _ _ => rfl

/-- `wait` issues with no tag of its MASK pending (R43). -/
theorem wait_tag_clear {s : State} {c : Nat} {i : Iss} (h : Issues opWait s c i) {t : Nat} (ht : t < 32) (hm : bit i.w t = true) :
    (s.dev.core c).log.ctPend.testBit t = false :=
  h.tag_clear (List.mem_filter.2 ⟨List.mem_range.2 ht, hm⟩)

/-! ### The conditions of `br` (Table — Small field codes) -/

theorem condHolds_eq (a b : Word) : condHolds 0 a b = decide (a = b) := rfl
theorem condHolds_ne (a b : Word) : condHolds 1 a b = decide (a ≠ b) := by simp [condHolds, bne, beq_eq_decide]
theorem condHolds_slt (a b : Word) : condHolds 2 a b = decide (a.toInt < b.toInt) := rfl
theorem condHolds_sge (a b : Word) : condHolds 3 a b = decide (b.toInt ≤ a.toInt) := by
  simp [condHolds, BitVec.slt_eq_decide, ← decide_not]
theorem condHolds_ult (a b : Word) : condHolds 4 a b = decide (a.toNat < b.toNat) := rfl
theorem condHolds_uge (a b : Word) : condHolds 5 a b = decide (b.toNat ≤ a.toNat) := by
  simp [condHolds, BitVec.ult_eq_decide, ← decide_not]
theorem condHolds_always {cond : Nat} (h : 6 ≤ cond) (a b : Word) : condHolds cond a b = true := by
  unfold condHolds
  split
  case h_7 => rfl
  all_goals omega

/-! ### The end of a program -/

/-- A change of state reaches no register, tag, tile or byte of the core. -/
theorem Core.setState_keeps (k : Core) (st : CState) (epoch : Nat) : LogKeeps [] [] 0 0 k.log (k.setState st epoch).log :=
  LogKeeps.of_same rfl rfl rfl (fun _ => ⟨rfl, rfl, rfl⟩) ⟨rfl, rfl, rfl, rfl, rfl, rfl⟩ rfl ⟨rfl, rfl, rfl⟩

/-- `end` issues with empty units (R45). -/
theorem end_units_empty {s : State} {c : Nat} {i : Iss} (h : Issues opEnd s c i) :
    (s.dev.core c).log.vu = [] ∧ (s.dev.core c).log.mu = [] := by
  obtain ⟨-, hk, -⟩ := OpDef.verdict_parts h.2.1
  have hheld : (!i.k.log.vu.isEmpty || !i.k.log.mu.isEmpty) = false := h.not_held
  rw [hk] at hheld
  simpa using hheld

/-- `end` issues with no tag pending (R45). -/
theorem end_tag_clear {s : State} {c : Nat} {i : Iss} (h : Issues opEnd s c i) {t : Nat} (ht : t < 32) :
    (s.dev.core c).log.ctPend.testBit t = false :=
  h.tag_clear (o := opEnd) (List.mem_range.2 ht)

/-- The core of an `end` is DONE with its registers as they were (R36, R45). -/
theorem end_completes {s : State} {c : Nat} {i : Iss} (h : Issues opEnd s c i) :
    opcodeOf i.w = 0x01 ∧ Completes (.endProg c) s fun e =>
      (e.core c).log.state = .done ∧ CoreOnly c s.dev e ∧ LogKeeps [] [] 0 0 (s.dev.core c).log (e.core c).log := by
  refine h.completes (mk := .endProg) (fun _ _ => rfl) _ fun b hb hu hc _ => ?_
  have hrun : opEnd.run i b = b.modCore c (·.setState .done b.epoch) := hc ▸ rfl
  rw [hrun]
  refine ⟨?_, CoreOnly.finish h.1 (hb.trans (CoreOnly.modCore _ _ _)) _, ?_⟩
  all_goals rw [Dev.tally_core, Dev.core_modLog_self, Dev.core_modCore_self]
  · rw [LCore.advance_state]
    rfl
  · exact (hu.keeps.trans (Core.setState_keeps _ _ _)).advance (opEnd.last i) (opEnd.next i)

/-- Settles O3: `nop`, `wait`, `br` and `jr` have no effect but the next pc, and the comparisons of `br` are those of `condHolds`, code by
code; `end` has waited for the tags and the units and then changes its core's state alone. -/
theorem controlFlowAndEnd : Obligations.ControlFlowAndEnd := by
  unfold Obligations.ControlFlowAndEnd
  refine ⟨⟨nop_goesOn, wait_goesOn, fun s c i h t ht hm => wait_tag_clear h ht hm, ?_, jr_goesOn⟩, fun s c i h => ?_⟩
  · refine br_goesOn fun i => ?_
    generalize bits i.w 27 25 = cond
    split
    · rw [condHolds_eq]
    · rw [condHolds_ne]
    · rw [condHolds_slt]
    · rw [condHolds_sge]
    · rw [condHolds_ult]
    · rw [condHolds_uge]
    · exact condHolds_always (by grind) _ _
  · obtain ⟨hop, hdone⟩ := end_completes h
    obtain ⟨hvu, hmu⟩ := end_units_empty h
    exact ⟨⟨hop, hvu, hmu, fun t ht => end_tag_clear h ht⟩, hdone⟩

end Sys2Proof.Machine
end

section
/-!
PROOFS. Scalar arithmetic (03 R80): an instruction whose effect is one write of a scalar register, and the values that the arithmetic
of the model gives in the terms of R80.
-/
namespace Sys2Proof.Machine

/-! ### Instructions that write one scalar register -/

/-- An instruction whose effect is a write of s[SD] goes on to the next instruction and leaves every other register and everything else
of the block. -/
theorem writesScalar_of_run_eq {mk : Nat → Instr} {o : OpDef} {val : Iss → Word} (hx : ∀ c s, exec (mk c) s = coreCmd o c s)
    (hrun : ∀ i d, o.run i d = d.modLog i.c (·.setS (rD i.w) (val i)))
    (hlast : ∀ i, o.last i = i.pc) (hnext : ∀ i, o.next i = none) : WritesScalar mk o o.code fun _ i => val i := by
  intro s c i h
  refine h.completes hx _ fun b hb hu hc _ => ?_
  rw [hrun, hc, hlast, hnext]
  refine ⟨?_, CoreOnly.finish h.1 (hb.trans (CoreOnly.modLog _ _ _)) _, ?_⟩
  all_goals rw [Dev.tally_core, Dev.core_modLog_self, Dev.core_modLog_self]
  · exact LCore.sreg_setS_self _ _ _
  · refine ⟨?_, (hu.keeps.setS (rD i.w) (val i)).advance i.pc none, Goes.advance (l := (b.core c).log.setS _ _) hu.flow i.pc none⟩
    rw [LCore.advance_state]
    exact hu.state.trans h.running

/-- A three-register instruction writes its function of s[SA] and s[SB]. -/
theorem opSC_writesScalar {mk : Nat → Instr} {code : Nat} {f : Word → Word → Word} {val : Iss → Word}
    (hx : ∀ c s, exec (mk c) s = coreCmd (opSC code f) c s) (hval : ∀ i, f (i.s (rA i.w)) (i.s (rB i.w)) = val i) :
    WritesScalar mk (opSC code f) code fun _ i => val i := by
  rw [← funext hval]
  exact writesScalar_of_run_eq (o := opSC code f) hx (fun _ _ => rfl) (fun _ => rfl) fun _ => rfl

/-- An immediate instruction writes its function of s[SA] and the 28 bits of IMM. -/
theorem opIM_writesScalar {mk : Nat → Instr} {code : Nat} {f : Word → BitVec 28 → Word} {val : Iss → Word}
    (hx : ∀ c s, exec (mk c) s = coreCmd (opIM code f) c s)
    (hval : ∀ i, f (i.s (rA i.w)) (BitVec.ofNat 28 (fImm i.w)) = val i) :
    WritesScalar mk (opIM code f) code fun _ i => val i := by
  rw [← funext hval]
  exact writesScalar_of_run_eq (o := opIM code f) hx (fun _ _ => rfl) (fun _ => rfl) fun _ => rfl

theorem li_writesScalar : WritesScalar .li opLi 0x28 fun _ i => (BitVec.ofNat 28 (fImm i.w)).signExtend 64 :=
  writesScalar_of_run_eq (o := opLi) (fun _ _ => rfl) (fun _ _ => rfl) (fun _ => rfl) fun _ => rfl
theorem lis_writesScalar : WritesScalar .lis opLis 0x29 fun _ i => (i.s (rD i.w) <<< 28) ||| BitVec.ofNat 64 (fImm i.w) :=
  writesScalar_of_run_eq (o := opLis) (fun _ _ => rfl) (fun _ _ => rfl) (fun _ => rfl) fun _ => rfl

/-! ### Values -/

theorem mul_eq_ofNat (a b : Word) : a * b = BitVec.ofNat 64 (a.toNat * b.toNat) := rfl
theorem boolWord_slt (a b : Word) : boolWord (a.slt b) = if a.toInt < b.toInt then 1 else 0 := by
  simp [boolWord, BitVec.slt_eq_decide]
theorem boolWord_ult (a b : Word) : boolWord (a.ult b) = if a.toNat < b.toNat then 1 else 0 := by
  simp [boolWord, BitVec.ult_eq_decide]
theorem smin_eq (a b : Word) : smin a b = if b.toInt < a.toInt then b else a := by simp [smin, BitVec.slt_eq_decide]
theorem smax_eq (a b : Word) : smax a b = if a.toInt < b.toInt then b else a := by simp [smax, BitVec.slt_eq_decide]

/-- IMM fits its 28 bits. -/
theorem toNat_ofNat_fImm (w : Word) : (BitVec.ofNat 28 (fImm w)).toNat = fImm w := by
  rw [BitVec.toNat_ofNat]
  exact Nat.mod_eq_of_lt (bits_lt w 27 0)
/-- The zero-extended IMM is its number. -/
theorem setWidth_ofNat_fImm (w : Word) : (BitVec.ofNat 28 (fImm w)).setWidth 64 = BitVec.ofNat 64 (fImm w) := by
  rw [← BitVec.ofNat_toNat, toNat_ofNat_fImm]

/-- Settles O1: each instruction has no effect but its write of s[SD]; what is left is that the signed and unsigned comparisons, `min`
and `max` are those of the integers, and that IMM is a number of 28 bits. -/
theorem scalarArithmetic : Obligations.ScalarArithmetic := by
  unfold Obligations.ScalarArithmetic
  refine ⟨⟨?add, ?sub, ?mul, ?and, ?or, ?xor, ?shl, ?shr, ?sra, ?slt, ?sltu, ?min, ?max⟩,
    ?addi, ?andi, ?ori, ?xori, ?shli, ?shri, ?srai, ?slti, li_writesScalar, lis_writesScalar⟩
  case add | sub | and | or | xor | shl | shr | sra => exact opSC_writesScalar (fun _ _ => rfl) fun _ => rfl
  case mul => exact opSC_writesScalar (fun _ _ => rfl) fun _ => mul_eq_ofNat _ _
  case slt => exact opSC_writesScalar (fun _ _ => rfl) fun _ => boolWord_slt _ _
  case sltu => exact opSC_writesScalar (fun _ _ => rfl) fun _ => boolWord_ult _ _
  case min => exact opSC_writesScalar (fun _ _ => rfl) fun _ => smin_eq _ _
  case max => exact opSC_writesScalar (fun _ _ => rfl) fun _ => smax_eq _ _
  case addi => exact opIM_writesScalar (fun _ _ => rfl) fun _ => rfl
  case andi | ori | xori => exact opIM_writesScalar (fun _ _ => rfl) fun _ => by rw [setWidth_ofNat_fImm]; rfl
  case shli | shri | srai => exact opIM_writesScalar (fun _ _ => rfl) fun _ => by rw [toNat_ofNat_fImm]; rfl
  case slti => exact opIM_writesScalar (fun _ _ => rfl) fun _ => boolWord_slt _ _

end Sys2Proof.Machine
end

section
/-!
PROOFS. Accesses to a scratchpad without errors (02 R56, R57; 08 R262, R264, R266): a read returns the bytes that stand there and changes
nothing, a write replaces the bytes of its range and leaves the core as it was.
-/
namespace Sys2Proof.Machine

/-! ### Runs of bytes -/

@[simp] theorem getBytes_length (m : NMap Byte) (a n : Nat) : (getBytes m a n).length = n := by simp [getBytes]

theorem getBytes_append (m : NMap Byte) (a n k : Nat) : getBytes m a (n + k) = getBytes m a n ++ getBytes m (a + n) k := by
  simp [getBytes, List.range_add, Nat.add_assoc]

/-- A part of the bytes that stand in a range. -/
theorem slice_getBytes (m : NMap Byte) (a : Nat) {n i k : Nat} (h : i + k ≤ n) :
    slice (getBytes m a n) i k = getBytes m (a + i) k := by
  obtain ⟨r, rfl⟩ := Nat.exists_eq_add_of_le h
  rw [Nat.add_assoc, getBytes_append, getBytes_append]
  simp [slice, List.drop_left', List.take_left']

theorem putBytes_append : ∀ (xs ys : List Byte) (m : NMap Byte) (a : Nat),
    putBytes m a (xs ++ ys) = putBytes (putBytes m a xs) (a + xs.length) ys
  | [], _, _, _ => rfl
  | x :: xs, ys, m, a => by
    rw [List.cons_append, putBytes, putBytes, putBytes_append xs, List.length_cons, Nat.add_right_comm a 1, Nat.add_assoc]

/-- What was written reads back. -/
theorem getBytes_putBytes_self (m : NMap Byte) (a : Nat) (bs : List Byte) : getBytes (putBytes m a bs) a bs.length = bs := by
  refine List.ext_getElem (by simp) fun i hi _ => ?_
  have hb : i < bs.length := by simpa using hi
  simp only [getBytes, List.getElem_map, List.getElem_range]
  rw [putBytes_get, if_pos (by omega), Nat.add_sub_cancel_left, List.getD_eq_getElem _ _ hb]

/-! ### One codeword -/

section
variable {k : Core} (h : CleanSpad k)
include h

theorem CleanSpad.met_eq (w : Nat) : k.met w = w := by
  obtain ⟨hw, -⟩ := h
  simp [Core.met, (hw w).2.2]

theorem CleanSpad.errsAt_eq (w : Nat) : k.errsAt w = [] := by
  obtain ⟨herr, hfold, -⟩ := h.1 w
  have hsame : foldErr 5 2 0 = [] := rfl
  simp [Core.errsAt, h.met_eq, herr, hfold, hsame, addErr]

theorem CleanSpad.readBlock_eq (w : Nat) : k.readBlock w = (some (getBytes k.log.spad (64 * w) 64), k) := by
  simp [Core.readBlock, h.errsAt_eq, h.met_eq]

/-- No flip waits for a write. -/
theorem CleanSpad.flip_eq (w : Nat) : k.flip w = k := by
  obtain ⟨-, harm⟩ := h
  simp [Core.flip, Core.armed, harm, nbit]

end

/-- `m` is `k` with `bs` written at `a` and still without errors: the other parts of the core are as they were. -/
structure Stored (k : Core) (a : Nat) (bs : List Byte) (m : Core) : Prop where
  log   : m.log = { k.log with spad := putBytes k.log.spad a bs }
  reg   : ∀ o, m.reg o = k.reg o
  clean : CleanSpad m

theorem Stored.nil {k : Core} (h : CleanSpad k) (a : Nat) : Stored k a [] k := ⟨rfl, fun _ => rfl, h⟩

theorem Stored.trans {k l m : Core} {a : Nat} {xs ys : List Byte} (h : Stored k a xs l) (g : Stored l (a + xs.length) ys m) :
    Stored k a (xs ++ ys) m where
  log := by rw [g.log, h.log, putBytes_append]
  reg o := (g.reg o).trans (h.reg o)
  clean := g.clean

theorem CleanSpad.putBlock {k : Core} (h : CleanSpad k) (w o : Nat) (bs : List Byte) :
    Stored k (64 * w + o) bs (k.putBlock w o bs) := by
  refine ⟨?_, fun _ => rfl, fun v => ?_, h.2⟩
  · simp [Core.putBlock, h.met_eq]
  · obtain ⟨herr, hfold, hreach⟩ := h.1 v
    simp [Core.putBlock, h.met_eq, NMap.get_set, herr, hfold, hreach]

theorem CleanSpad.writeBlock {k : Core} (h : CleanSpad k) (w o : Nat) (bs : List Byte) (hw : bs.length = 64 → o = 0) :
    ∃ m, k.writeBlock w o bs = (true, m) ∧ Stored k (64 * w + o) bs m := by
  refine ⟨k.putBlock w o bs, ?_, h.putBlock w o bs⟩
  have hflip := (h.putBlock w o bs).clean.flip_eq w
  unfold Core.writeBlock
  split
  · next hl => rw [← hw hl, hflip]
  · rw [h.readBlock_eq]
    simp only [hflip]

/-! ### A range -/

/-- The first codeword of a range and the rest, with enough fuel for the rest. -/
theorem blocksOf_succ {f a n : Nat} (hn : n ≠ 0) (hf : a % 64 + n ≤ 64 * (f + 1)) :
    ∃ l r, n = l + r ∧ a % 64 + l ≤ 64 ∧ (r ≠ 0 → (a + l) % 64 + r ≤ 64 * f) ∧
      blocksOf (f + 1) a n = (a / 64, a % 64, l) :: blocksOf f (a + l) r := by
  refine ⟨min n (64 - a % 64), n - min n (64 - a % 64), by omega, by omega, by omega, ?_⟩
  simp [blocksOf, hn]
theorem blocksOf_zero : ∀ f a, blocksOf f a 0 = []
  | 0, _ => rfl
  | _ + 1, _ => rfl

/-- What a read does with the piece `x` of its range, after the pieces below it. -/
def readPiece (r : Option Nat × List Byte × Core) (x : Nat × Nat × Nat) : Option Nat × List Byte × Core :=
  match r.2.2.readBlock x.1 with
  | (some data, k) => (r.1, r.2.1 ++ slice data x.2.1 x.2.2, k)
  | (none, k) => (some (r.1.getD (64 * x.1)), r.2.1 ++ List.replicate x.2.2 0, k)
theorem Core.read_eq_foldl (k : Core) (a n : Nat) : k.read a n = (rangeBlocks a n).foldl readPiece (none, [], k) := rfl

theorem CleanSpad.readPiece_eq {k : Core} (h : CleanSpad k) (acc : List Byte) (w : Nat) {o l : Nat} (hl : o + l ≤ 64) :
    readPiece (none, acc, k) (w, o, l) = (none, acc ++ getBytes k.log.spad (64 * w + o) l, k) := by
  simp only [readPiece, h.readBlock_eq, slice_getBytes _ _ hl]

theorem CleanSpad.foldl_readPiece {k : Core} (h : CleanSpad k) (f : Nat) : ∀ (a n : Nat) (acc : List Byte),
    (n ≠ 0 → a % 64 + n ≤ 64 * f) →
    (blocksOf f a n).foldl readPiece (none, acc, k) = (none, acc ++ getBytes k.log.spad a n, k) := by
  induction f with
  | zero =>
    intro a n acc hf
    rw [show n = 0 by omega]
    simp [blocksOf_zero, getBytes]
  | succ f ih =>
    intro a n acc hf
    by_cases hn : n = 0
    · rw [hn]
      simp [blocksOf_zero, getBytes]
    · obtain ⟨l, r, rfl, hl, hr, e⟩ := blocksOf_succ hn (hf hn)
      rw [e, List.foldl_cons, h.readPiece_eq acc _ hl, Nat.div_add_mod, ih _ _ _ hr, List.append_assoc, ← getBytes_append]

/-- A read returns the bytes that stand there and changes nothing (R56). -/
theorem CleanSpad.read_eq {k : Core} (h : CleanSpad k) (a n : Nat) : k.read a n = (none, getBytes k.log.spad a n, k) :=
  (k.read_eq_foldl a n).trans (h.foldl_readPiece _ a n [] (by omega))

/-- What a write of `bs` at `a` does with the piece `x` of its range, after the pieces below it. -/
def writePiece (a : Nat) (bs : List Byte) (r : Option Nat × Core) (x : Nat × Nat × Nat) : Option Nat × Core :=
  match r.2.writeBlock x.1 x.2.1 (slice bs (64 * x.1 + x.2.1 - a) x.2.2) with
  | (true, k) => (r.1, k)
  | (false, k) => (some (r.1.getD (64 * x.1)), k)
theorem Core.write_eq_foldl (k : Core) (a : Nat) (bs : List Byte) :
    k.write a bs = (rangeBlocks a bs.length).foldl (writePiece a bs) (none, k) := rfl

theorem CleanSpad.writePiece_eq {k : Core} (h : CleanSpad k) (a : Nat) (bs : List Byte) {p l : Nat} (hl : p % 64 + l ≤ 64) :
    ∃ m, writePiece a bs (none, k) (p / 64, p % 64, l) = (none, m) ∧ Stored k p (slice bs (p - a) l) m := by
  have hlen : (slice bs (p - a) l).length ≤ l := by simp [slice]
  obtain ⟨m, hm, hs⟩ := h.writeBlock (p / 64) (p % 64) (slice bs (p - a) l) (by omega)
  rw [Nat.div_add_mod] at hs
  exact ⟨m, by simp only [writePiece, Nat.div_add_mod, hm], hs⟩

/-- The pieces from `p` on leave the bytes from there on. -/
theorem CleanSpad.foldl_writePiece (a : Nat) (bs : List Byte) (f : Nat) : ∀ (p n : Nat) (k : Core), CleanSpad k → a ≤ p →
    p + n = a + bs.length → (n ≠ 0 → p % 64 + n ≤ 64 * f) →
    ∃ m, (blocksOf f p n).foldl (writePiece a bs) (none, k) = (none, m) ∧ Stored k p (bs.drop (p - a)) m := by
  induction f with
  | zero =>
    intro p n k h hp he hf
    rw [show n = 0 by omega, List.drop_of_length_le (by omega)]
    exact ⟨k, rfl, .nil h p⟩
  | succ f ih =>
    intro p n k h hp he hf
    by_cases hn : n = 0
    · rw [hn, List.drop_of_length_le (by omega)]
      exact ⟨k, rfl, .nil h p⟩
    · obtain ⟨l, r, rfl, hl, hr, e⟩ := blocksOf_succ hn (hf hn)
      obtain ⟨m, hm, hs⟩ := h.writePiece_eq a bs hl
      obtain ⟨m', hm', hs'⟩ := ih (p + l) r m hs.clean (by omega) (by omega) hr
      have hlen : (slice bs (p - a) l).length = l := by simp [slice]; omega
      have hsplit : bs.drop (p - a) = slice bs (p - a) l ++ bs.drop (p + l - a) := by
        rw [show p + l - a = p - a + l by omega, ← List.drop_drop, slice, List.take_append_drop]
      refine ⟨m', by rw [e, List.foldl_cons, hm, hm'], ?_⟩
      rw [hsplit]
      exact hs.trans (hlen.symm ▸ hs')

/-- A write replaces the bytes of its range (R264). -/
theorem CleanSpad.write_eq {k : Core} (h : CleanSpad k) (a : Nat) (bs : List Byte) :
    ∃ m, k.write a bs = (none, m) ∧ Stored k a bs m := by
  obtain ⟨m, hm, hs⟩ := CleanSpad.foldl_writePiece a bs (bs.length / 64 + 2) a bs.length k h (Nat.le_refl a) rfl (by omega)
  rw [Nat.sub_self, List.drop_zero] at hs
  exact ⟨m, (k.write_eq_foldl a bs).trans hm, hs⟩

/-! ### The access of a device -/

theorem Dev.markW1c_zero (d : Dev) (off lo : Nat) : d.markW1c off lo 0 = d := rfl

/-- An access that counts no error and takes no flip changes the core alone. -/
theorem Dev.afterSpad_of_reg {d : Dev} {c : Nat} {k : Core} (h : ∀ o, k.reg o = (d.core c).reg o) :
    d.afterSpad c k = d.setCore c k := by
  have hf : ∀ f, k.fld f = (d.core c).fld f := fun f => by rw [Core.fld, Core.fld, h]
  simp [Dev.afterSpad, hf, Dev.markW1c_zero]

section
variable {d : Dev} {c : Nat} (h : CleanSpad (d.core c))
include h

theorem CleanSpad.spRead_eq (a n : Nat) :
    d.spRead c a n = (none, getBytes (d.core c).log.spad a n, d.setCore c (d.core c)) := by
  rw [Dev.spRead, h.read_eq, Dev.afterSpad_of_reg fun _ => rfl]

theorem CleanSpad.spWrite_eq (a : Nat) (bs : List Byte) :
    ∃ k, d.spWrite c a bs = (none, d.setCore c k) ∧ Stored (d.core c) a bs k := by
  obtain ⟨k, hk, hs⟩ := h.write_eq a bs
  exact ⟨k, by rw [Dev.spWrite, hk, Dev.afterSpad_of_reg hs.reg], hs⟩

end

end Sys2Proof.Machine
end

section
/-!
PROOFS. The end of an instruction of the vector unit (02 R41, R43; 03 R92): the results queued behind it are written, it reads and writes
its ranges of the own scratchpad, its tag clears with `ok`.
-/
namespace Sys2Proof.Machine

/-! ### FP32 elements in the scratchpad -/

/-- A list of pieces of one length, joined, from its piece j on. -/
theorem slice_flatMap_of_length {α : Type} {f : α → List Byte} {n : Nat} (hf : ∀ x, (f x).length = n) :
    ∀ (xs : List α) (j : Nat) (hj : j < xs.length), slice (xs.flatMap f) (n * j) n = f xs[j]
  | [], _, hj => absurd hj (Nat.not_lt_zero _)
  | x :: xs, 0, _ => by simp [slice, ← hf x]
  | x :: xs, j + 1, hj => by
    have ih := slice_flatMap_of_length hf xs j (Nat.lt_of_succ_lt_succ hj)
    rw [slice] at ih ⊢
    rw [List.flatMap_cons, Nat.mul_succ, Nat.add_comm, ← List.drop_drop, List.drop_left' (hf x), ih]
    rfl

@[simp] theorem leBytes_length : ∀ n x, (leBytes n x).length = n
  | 0, _ => rfl
  | n + 1, x => congrArg Nat.succ (leBytes_length n (x / 256))

/-- A number that fits its bytes is the number they spell. -/
theorem ofBytes_leBytes : ∀ n x, x < 256 ^ n → ofBytes (leBytes n x) = x
  | 0, x, h => by
    rw [Nat.pow_zero, Nat.lt_one_iff] at h
    rw [h]
    rfl
  | n + 1, x, h => by
    rw [leBytes, ofBytes, ofBytes_leBytes n (x / 256) (by omega), BitVec.toNat_ofNat]
    omega

theorem lanesBytes_length (xs : List Lane) : (lanesBytes xs).length = 4 * xs.length := by
  simp [lanesBytes, Nat.mul_comm]

theorem f32s_lanesBytes (xs : List Lane) : f32s (lanesBytes xs) xs.length = xs := by
  refine List.ext_getElem (by simp [f32s]) fun j _ hj => ?_
  simp only [f32s, List.getElem_map, List.getElem_range]
  rw [lanesBytes, slice_flatMap_of_length (fun _ => leBytes_length 4 _) xs j hj, ofBytes_leBytes 4 _ (xs[j].isLt),
    BitVec.ofNat_toNat, BitVec.setWidth_eq]

/-- The elements an instruction reads are the words of its range. -/
theorem f32s_getBytes (l : LCore) (a n : Nat) : f32s (getBytes l.spad a (4 * n)) n = spadWords l a n := by
  refine List.map_congr_left fun j hj => ?_
  have hj := List.mem_range.1 hj
  rw [slice_getBytes _ _ (by omega), spadWord]

@[simp] theorem spadWords_length (l : LCore) (a n : Nat) : (spadWords l a n).length = n := by simp [spadWords]

theorem spadWords_congr {l m : LCore} (h : m.spad = l.spad) (a n : Nat) : spadWords m a n = spadWords l a n := by
  simp only [spadWords, spadWord, h]

/-- The words of a range after elements were written there. -/
theorem spadWords_of_lanes {l m : LCore} {d n : Nat} {xs : List Lane} (hm : m.spad = putBytes l.spad d (lanesBytes xs))
    (hn : xs.length = n) : spadWords m d n = xs := by
  subst hn
  rw [← f32s_getBytes, hm, ← lanesBytes_length, getBytes_putBytes_self, f32s_lanesBytes]

/-! ### Reads and writes of a unit at work -/

theorem CoreOnly.lid {c : Nat} {d e : Dev} (h : CoreOnly c d e) (j : Nat) : e.lid j = d.lid j := by
  rw [Dev.lid, Dev.lid, Dev.lidOf, Dev.lidOf, h.control.1]

/-- A read of a unit in its own scratchpad: the bytes that stand there. -/
theorem Work.rd_own {d : Dev} {c a n b : Nat} (hc : CleanSpad (d.core c)) (hr : ownRange (d.lid c) a n = some b) (hn : n ≠ 0) :
    ∃ e, ({ d := d } : Work).rd c a n = (getBytes (d.core c).log.spad b n, { d := e }) ∧ CoreOnly c d e ∧ e.core c = d.core c :=
  ⟨d.setCore c (d.core c), by simp [Work.rd, hn, hr, hc.spRead_eq], .setCore c d _, Dev.core_setCore_self _ _ _⟩

/-- A write of a unit in its own scratchpad. -/
theorem Work.wr_own {d : Dev} {c a b : Nat} {bs : List Byte} (hc : CleanSpad (d.core c))
    (hr : ownRange (d.lid c) a bs.length = some b) :
    ∃ e, ({ d := d } : Work).wr c a bs = { d := e } ∧ CoreOnly c d e ∧ Stored (d.core c) b bs (e.core c) := by
  obtain ⟨k, hk, hs⟩ := hc.spWrite_eq b bs
  exact ⟨d.setCore c k, by simp [Work.wr, hr, hk], .setCore c d k, by rwa [Dev.core_setCore_self]⟩

/-- An elementwise instruction writes its results over its destination and nothing else (R92, R118). -/
theorem vsMap2_own (f : Lane → Lane → Lane) {d : Dev} {c a b x : Nat} {u : UOp} (hc : CleanSpad (d.core c)) (hn : u.n.toNat ≠ 0)
    (ha : ownRange (d.lid c) u.a.toNat (4 * u.n.toNat) = some a) (hb : ownRange (d.lid c) u.b.toNat (4 * u.n.toNat) = some b)
    (hx : ownRange (d.lid c) u.d.toNat (4 * u.n.toNat) = some x) :
    ∃ e, vsMap2 f c u { d := d } = { d := e } ∧ CoreOnly c d e ∧ Stored (d.core c) x (lanesBytes (List.zipWith f
      (spadWords (d.core c).log a u.n.toNat) (spadWords (d.core c).log b u.n.toNat))) (e.core c) := by
  have h4 : 4 * u.n.toNat ≠ 0 := by omega
  obtain ⟨d1, h1, hd1, hk1⟩ := Work.rd_own hc ha h4
  obtain ⟨d2, h2, hd2, hk2⟩ := Work.rd_own (hk1 ▸ hc) (hd1.lid c ▸ hb) h4
  have hlen : 4 * u.n.toNat = (lanesBytes (List.zipWith f (spadWords (d.core c).log a u.n.toNat)
      (spadWords (d.core c).log b u.n.toNat))).length := by simp [lanesBytes_length]
  rw [hk1] at h2 hk2
  obtain ⟨e, h3, he, hs⟩ := Work.wr_own (hk2 ▸ hc) (hlen ▸ (hd1.trans hd2).lid c ▸ hx)
  refine ⟨e, ?_, (hd1.trans hd2).trans he, hk2 ▸ hs⟩
  simp only [vsMap2, h1, h2, f32s_getBytes, h3]

/-- A reduction writes the register its word names (R118, R119). -/
theorem vsReduce_own (f : List Lane → Lane) {d : Dev} {c a : Nat} {u : UOp} (hc : CleanSpad (d.core c)) (hn : u.n.toNat ≠ 0)
    (ha : ownRange (d.lid c) u.a.toNat (4 * u.n.toNat) = some a) :
    ∃ e, vsReduce f c u { d := d } = { d := e } ∧ CoreOnly c d e ∧
      (e.core c).log = (d.core c).log.setS (rD u.w) ((f (spadWords (d.core c).log a u.n.toNat)).setWidth 64) := by
  obtain ⟨d1, h1, hd1, hk1⟩ := Work.rd_own hc ha (by omega)
  refine ⟨d1.modLog c (·.setS (rD u.w) ((f (spadWords (d.core c).log a u.n.toNat)).setWidth 64)), ?_, hd1.trans (.modLog c _ _), ?_⟩
  · simp only [vsReduce, h1, f32s_getBytes]
    rfl
  · rw [Dev.core_modLog_self, hk1]

/-! ### The results queued behind an instruction -/

/-- A queued result reaches neither the scratchpad of its core nor the registers of its register block. -/
structure KeepsStore (k m : Core) : Prop where
  spad : m.log.spad = k.log.spad
  sil  : m.sil.errs = k.sil.errs ∧ m.sil.fold = k.sil.fold ∧ m.sil.reach = k.sil.reach
  reg  : ∀ o, m.reg o = k.reg o

theorem KeepsStore.refl (k : Core) : KeepsStore k k := ⟨rfl, ⟨rfl, rfl, rfl⟩, fun _ => rfl⟩
theorem KeepsStore.trans {k l m : Core} (h : KeepsStore k l) (g : KeepsStore l m) : KeepsStore k m where
  spad := g.spad.trans h.spad
  sil := by simp only [g.sil, h.sil, and_self]
  reg o := (g.reg o).trans (h.reg o)
/-- Leaving the unit reaches nothing else of a core. -/
theorem KeepsStore.modLog_vu (d : Dev) (c : Nat) (us : List UOp) :
    KeepsStore (d.core c) ((d.modLog c fun l => { l with vu := us }).core c) := by
  rw [Dev.core_modLog_self]
  exact ⟨rfl, ⟨rfl, rfl, rfl⟩, fun _ => rfl⟩
theorem KeepsStore.clean {k m : Core} (h : KeepsStore k m) (hk : CleanSpad k) : CleanSpad m := by
  obtain ⟨herr, hfold, hreach⟩ := h.sil
  refine ⟨fun w => ?_, ?_⟩
  · rw [herr, hfold, hreach]
    exact hk.1 w
  · rw [Core.fld, h.reg]
    exact hk.2

/-- What a write of a queued result does: it reaches its core alone, and there no scratchpad and no place of the unit. -/
structure WritesBack (c : Nat) (d e : Dev) : Prop where
  only  : CoreOnly c d e
  store : KeepsStore (d.core c) (e.core c)
  unit  : (e.core c).log.vu = (d.core c).log.vu

theorem WritesBack.refl (c : Nat) (d : Dev) : WritesBack c d d := ⟨.refl c d, .refl _, rfl⟩
theorem WritesBack.trans {c : Nat} {d e g : Dev} (h : WritesBack c d e) (k : WritesBack c e g) : WritesBack c d g :=
  ⟨h.only.trans k.only, h.store.trans k.store, k.unit.trans h.unit⟩

theorem WritesBack.of_core_eq {c : Nat} {d e : Dev} (h : CoreOnly c d e) (hk : e.core c = d.core c) : WritesBack c d e :=
  ⟨h, hk ▸ .refl _, by rw [hk]⟩

theorem WritesBack.edgeArrival {c : Nat} {d e : Dev} (en b : Nat) (w : StitchWord) (h : WritesBack c d e) :
    WritesBack c d (e.edgeArrival en b w) :=
  h.trans (.of_core_eq (.edgeArrival _ _ _ _ _) (Dev.edgeArrival_core _ _ _ _ _))
theorem WritesBack.emit {c : Nat} {d e : Dev} (o : Out) (h : WritesBack c d e) : WritesBack c d (e.emit o) :=
  h.trans (.of_core_eq (.emit _ _ _) rfl)

theorem WritesBack.setCore {c : Nat} {d : Dev} {k : Core} (hk : KeepsStore (d.core c) k) (hvu : k.log.vu = (d.core c).log.vu) :
    WritesBack c d (d.setCore c k) :=
  ⟨.setCore c d k, by rwa [Dev.core_setCore_self], by rwa [Dev.core_setCore_self]⟩

theorem WritesBack.modLog {c : Nat} {d : Dev} (f : LCore → LCore)
    (hf : ∀ l, (f l).spad = l.spad ∧ (f l).vu = l.vu ∧ (f l).regs = l.regs) : WritesBack c d (d.modLog c f) := by
  obtain ⟨hspad, hvu, hregs⟩ := hf (d.core c).log
  exact .setCore ⟨hspad, ⟨rfl, rfl, rfl⟩, fun o => by simp [Core.reg, hregs]⟩ hvu

/-- A word sent is kept for its replay, and reaches the neighbour or an edge stream. -/
theorem WritesBack.sendWord {c : Nat} (hc : c < numCores) (d : Dev) (q kind gen : Nat) (data : Line) (par : BitVec 64) :
    WritesBack c d (d.sendWord c q kind gen data par) := by
  unfold Dev.sendWord
  dsimp only
  refine .trans ?_ (.of_core_eq (.counts c (Dev.tally_counts _ _ _ _ _ _ (routerOf_lt hc))) (Dev.tally_core _ _ _ _ _ _ _))
  split
  · exact .edgeArrival _ _ _ (.setCore ⟨rfl, ⟨rfl, rfl, rfl⟩, fun _ => rfl⟩ rfl)
  · exact .emit _ (.setCore ⟨rfl, ⟨rfl, rfl, rfl⟩, fun _ => rfl⟩ rfl)

theorem WritesBack.regW {c : Nat} (hc : c < numCores) (d : Dev) (x : RegW) : WritesBack c d (d.regW c x) := by
  cases x with
  | s n v => exact .modLog (·.setS n v) fun _ => ⟨rfl, rfl, rfl⟩
  | v n v => exact .modLog (·.setV n v) fun _ => ⟨rfl, rfl, rfl⟩
  | p n v => exact .modLog (·.setP n v) fun _ => ⟨by simp, by simp, by simp⟩
  | send q v => exact .sendWord hc d q _ _ _ _

/-- The results queued at the head of the unit are written and leave it (R41). -/
theorem Dev.drainVR_spec {c : Nat} (hc : c < numCores) : ∀ (us : List UOp) (d : Dev), (d.core c).log.vu = us →
    CoreOnly c d (d.drainVR c us) ∧ KeepsStore (d.core c) ((d.drainVR c us).core c) ∧
      ((d.drainVR c us).core c).log.vu.length ≤ us.length
  | [], d, h => ⟨.refl c d, .refl _, by simp [Dev.drainVR, h]⟩
  | u :: us, d, h => by
    unfold Dev.drainVR
    split
    · exact ⟨.refl c d, .refl _, by rw [h]⟩
    · have hw : WritesBack c d (u.wr.foldl (fun d x => d.regW c x) d) :=
        foldl_rel (WritesBack c d) _ _ (fun e x _ he => he.trans (.regW hc e x)) d (.refl c d)
      generalize u.wr.foldl (fun d x => d.regW c x) d = e at hw
      obtain ⟨honly, hstore, hlen⟩ := Dev.drainVR_spec hc us (e.modLog c fun l => { l with vu := us }) (by simp)
      exact ⟨(hw.only.trans (.modLog c e _)).trans honly, hw.store.trans ((KeepsStore.modLog_vu e c us).trans hstore),
        Nat.le_succ_of_le hlen⟩

/-! ### The end of the instruction -/

@[simp] theorem LCore.sreg_tagDone (l : LCore) (t st n : Nat) : (l.tagDone t st).sreg n = l.sreg n := rfl
theorem LCore.ctPend_tagDone {l : LCore} {t : Nat} (ht : t < 32) (st : Nat) : (l.tagDone t st).ctPend.testBit t = false := by
  simp only [LCore.tagDone, LCore.pendSet, Bool.false_eq_true, if_false, Nat.testBit_and, Nat.testBit_xor,
    Nat.testBit_two_pow_self, Nat.testBit_two_pow_sub_one, ht, decide_true, Bool.xor_self, Bool.and_false]

/-- Work without an error ends with the tag clear and `ok`. -/
theorem Work.finish_ok (d : Dev) (c : Nat) (u : UOp) :
    ({ d := d } : Work).finish c u = d.modLog c (·.tagDone (u.tag.getD 0) 0) := rfl

/-- A tagged instruction of an opcode below those of `sgate` and `saudit` does its work after the results queued behind it have left the
unit (R41, R43). -/
theorem vsDone_eq {c : Nat} {d : Dev} {u : UOp} {us : List UOp} {t : Nat} (hu : (d.core c).log.vu = u :: us) (ht : u.tag = some t)
    (hop : opcodeOf u.w < 0x80) :
    vsDone c d = (vsWork c u { d := (d.modLog c fun l => { l with vu := us }).drainVR c us }).finish c u := by
  have hgate : opcodeOf u.w ≠ 0x80 := by omega
  have haudit : opcodeOf u.w ≠ 0x81 := by omega
  simp [vsDone, hu, ht, hgate, haudit]

/-- What an instruction meets when its occupancy of the vector unit ends, and how the command ends. -/
theorem AtVector.completes {s : State} {c : Nat} {u : UOp} {t : Nat} (h : AtVector s c u t) (hop : opcodeOf u.w < 0x80)
    {P : Dev → Prop} (hP : ∀ d, CoreOnly c s.dev d → KeepsStore (s.dev.core c) (d.core c) →
      (d.core c).log.vu.length < (s.dev.core c).log.vu.length → P ((vsWork c u { d := d }).finish c u)) :
    Completes (.vsCompletion c) s P := by
  obtain ⟨hc, ⟨us, hus⟩, ht, -, -⟩ := h
  obtain ⟨honly, hstore, hlen⟩ := Dev.drainVR_spec hc us
    (({ s.dev with out := [] } : Dev).modLog c fun l => { l with vu := us }) (by rw [Dev.core_modLog_self])
  refine ⟨_, onUnit_of _ s (decide_eq_true hc), rfl, ?_⟩
  dsimp only
  rw [vsDone_eq (d := { s.dev with out := [] }) hus ht hop]
  refine hP _ (((CoreOnly.cleared c s.dev).trans (.modLog c _ _)).trans honly) ((KeepsStore.modLog_vu _ c us).trans hstore) ?_
  rw [hus]
  exact Nat.lt_succ_of_le hlen

end Sys2Proof.Machine
end

section
/-!
PROOFS. Elementwise results, sums and extrema of the vector unit (03 R92; 04 R118, R119): what a completion leaves, and the order of the
additions of `vssum`.
-/
namespace Sys2Proof.Machine

/-! ### What a completion leaves -/

/-- The instruction of tag `t` has ended with `ok` and left the unit of core c; memory and every other core are as they were (R43). -/
def EndedOk (s : State) (c t : Nat) (e : Dev) : Prop :=
  (e.core c).log.ctPend.testBit t = false ∧ (e.core c).log.tagStatus t = 0 ∧ e.mem = s.dev.mem ∧
  (e.core c).log.vu.length < (s.dev.core c).log.vu.length ∧ (∀ j, j ≠ c → e.core j = s.dev.core j)

section
variable {s : State} {c : Nat} {u : UOp} {t : Nat} (h : AtVector s c u t)
include h

theorem AtVector.clean : CleanSpad (s.dev.core c) := by
  obtain ⟨-, -, -, -, hclean⟩ := h
  exact hclean

theorem AtVector.endedOk {e : Dev} (honly : CoreOnly c s.dev e) (hvu : (e.core c).log.vu.length < (s.dev.core c).log.vu.length) :
    EndedOk s c t (({ d := e } : Work).finish c u) := by
  obtain ⟨-, -, htag, ht, -⟩ := h
  have hall := honly.trans (.modLog c e (·.tagDone t 0))
  rw [Work.finish_ok, htag, Option.getD_some]
  refine ⟨?_, ?_, hall.mem.1, ?_, hall.cores⟩
  all_goals rw [Dev.core_modLog_self]
  · exact LCore.ctPend_tagDone ht 0
  · exact LCore.tagStatus_tagDone _ t 0
  · rwa [LCore.tagDone_vu]

/-- An elementwise instruction leaves f of its operands, word by word, over its destination, and every other byte (R92, R118). -/
theorem AtVector.maps {f : Lane → Lane → Lane} {a b d : Nat} (hn : u.n.toNat ≠ 0) (hop : opcodeOf u.w < 0x80)
    (hwork : ∀ m, vsWork c u m = vsMap2 f c u m)
    (ha : ownRange (s.dev.lid c) u.a.toNat (4 * u.n.toNat) = some a) (hb : ownRange (s.dev.lid c) u.b.toNat (4 * u.n.toNat) = some b)
    (hd : ownRange (s.dev.lid c) u.d.toNat (4 * u.n.toNat) = some d) :
    Completes (.vsCompletion c) s fun e =>
      (∀ j, j < u.n.toNat → spadWord (e.core c).log (d + 4 * j) =
        f (spadWord (s.dev.core c).log (a + 4 * j)) (spadWord (s.dev.core c).log (b + 4 * j))) ∧
      (∀ x, ¬ (d ≤ x ∧ x < d + 4 * u.n.toNat) → NMap.get 0 (e.core c).log.spad x = NMap.get 0 (s.dev.core c).log.spad x) ∧
      EndedOk s c t e := by
  refine h.completes hop fun d0 honly hstore hvu => ?_
  obtain ⟨e, hwork', he, hlog, -, -⟩ :=
    vsMap2_own f (hstore.clean h.clean) hn (honly.lid c ▸ ha) (honly.lid c ▸ hb) (honly.lid c ▸ hd)
  rw [hwork, hwork']
  have hended := h.endedOk (honly.trans he) (by rwa [hlog])
  have hspad : ((({ d := e } : Work).finish c u).core c).log.spad = putBytes (s.dev.core c).log.spad d (lanesBytes (List.zipWith f
      (spadWords (s.dev.core c).log a u.n.toNat) (spadWords (s.dev.core c).log b u.n.toNat))) := by
    rw [Work.finish_ok, Dev.core_modLog_self, LCore.tagDone_spad, hlog, spadWords_congr hstore.spad, spadWords_congr hstore.spad,
      hstore.spad]
  refine ⟨fun j hj => ?_, fun x hx => ?_, hended⟩
  · have hwords := congrArg (·[j]?) (spadWords_of_lanes hspad (n := u.n.toNat) (by simp))
    simpa [spadWords, hj] using hwords
  · rw [hspad, putBytes_get, if_neg (by simpa [lanesBytes_length] using hx)]

/-- A reduction leaves f of its operand in s[SD], and the scratchpad as it was (R118, R119). -/
theorem AtVector.reduces {f : List Lane → Lane} {a : Nat} (hn : u.n.toNat ≠ 0) (hop : opcodeOf u.w < 0x80)
    (hwork : ∀ m, vsWork c u m = vsReduce f c u m) (ha : ownRange (s.dev.lid c) u.a.toNat (4 * u.n.toNat) = some a) :
    Completes (.vsCompletion c) s fun e =>
      (e.core c).log.sreg (rD u.w) = (f (spadWords (s.dev.core c).log a u.n.toNat)).setWidth 64 ∧
      (e.core c).log.spad = (s.dev.core c).log.spad ∧ EndedOk s c t e := by
  refine h.completes hop fun d0 honly hstore hvu => ?_
  obtain ⟨e, hwork', he, hlog⟩ := vsReduce_own f (hstore.clean h.clean) hn (honly.lid c ▸ ha)
  rw [hwork, hwork']
  refine ⟨?_, ?_, h.endedOk (honly.trans he) (by rwa [hlog])⟩
  all_goals rw [Work.finish_ok, Dev.core_modLog_self]
  · rw [LCore.sreg_tagDone, hlog, LCore.sreg_setS_self, spadWords_congr hstore.spad]
  · rw [LCore.tagDone_spad, hlog]
    exact hstore.spad

end

/-! ### Which work an opcode names -/

section
variable {c : Nat} {u : UOp} (hn : u.n ≠ 0#64)
include hn

theorem vsWork_vsadd (h : opcodeOf u.w = 0x50) (m : Work) : vsWork c u m = vsMap2 fadd c u m := by simp [vsWork, h, hn]
theorem vsWork_vsmul (h : opcodeOf u.w = 0x51) (m : Work) : vsWork c u m = vsMap2 fmul c u m := by simp [vsWork, h, hn]
theorem vsWork_vsaxpy (h : opcodeOf u.w = 0x52) (m : Work) :
    vsWork c u m = vsMap2 (fun x y => ffma x (u.x.setWidth 32) y) c u m := by simp [vsWork, h, hn]
theorem vsWork_vssum (h : opcodeOf u.w = 0x53) (m : Work) : vsWork c u m = vsReduce vecSum c u m := by simp [vsWork, h, hn]
theorem vsWork_vsamax (h : opcodeOf u.w = 0x54) (m : Work) : vsWork c u m = vsReduce vecAmax c u m := by simp [vsWork, h, hn]

end

/-! ### The order of the additions of `vssum` (R119) -/

/-- One level of the tree adds neighbouring pairs. -/
theorem sumTree_pairs (f : Nat → Lane) (n k : Nat) :
    sumTree (n + 1) ((List.range (2 * k)).map f) = sumTree n ((List.range k).map fun i => fadd (f (2 * i)) (f (2 * i + 1))) := by
  rw [sumTree, List.length_map, List.length_range, Nat.mul_div_cancel_left k Nat.two_pos]
  congr 1
  refine List.map_congr_left fun i hi => ?_
  have hi := List.mem_range.1 hi
  rw [List.getD_eq_getElem _ _ (by simp; omega), List.getD_eq_getElem _ _ (by simp; omega)]
  simp

/-- The sum of the elements of lane l, in ascending order from +0.0. -/
def laneSum (xs : List Lane) (l : Nat) : Lane :=
  ((List.range ((xs.length + 15 - l) / 16)).map fun j => xs.getD (16 * j + l) 0).foldl fadd 0

theorem vecSum_eq_sumTree (xs : List Lane) : vecSum xs = sumTree 4 ((List.range 16).map (laneSum xs)) := by
  unfold vecSum
  congr 1
  refine List.map_congr_left fun l hl => ?_
  have hl := List.mem_range.1 hl
  have hcount : ceilDiv (xs.length - l) 16 = (xs.length + 15 - l) / 16 := by unfold ceilDiv; omega
  rw [laneSum, List.foldl_map, hcount]

/-- Settles O13: the results queued behind the instruction reach no scratchpad, the instruction then reads and writes its ranges without an
error, and its tag clears with `ok`; the tree of R119 is four levels of `sumTree_pairs`. -/
theorem vectorScratchpadSums : Obligations.VectorScratchpadSums := by
  unfold Obligations.VectorScratchpadSums
  refine ⟨fun s c u t a b d h hn ha => ?_, fun xs => ?_⟩
  · have hn' : u.n.toNat ≠ 0 := fun e => hn (BitVec.eq_of_toNat_eq e)
    refine ⟨fun hop hb hd => ?_, fun hop hb hd => ?_, fun hop hb hd => ?_, fun hop => ?_, fun hop => ?_⟩
    · exact h.maps hn' (by omega) (vsWork_vsadd hn hop) ha hb hd
    · exact h.maps hn' (by omega) (vsWork_vsmul hn hop) ha hb hd
    · exact h.maps hn' (by omega) (vsWork_vsaxpy hn hop) ha hb hd
    · exact h.reduces hn' (by omega) (vsWork_vssum hn hop) ha
    · exact h.reduces hn' (by omega) (vsWork_vsamax hn hop) ha
  · rw [vecSum_eq_sumTree, sumTree_pairs _ 3 8, sumTree_pairs _ 2 4, sumTree_pairs _ 1 2, sumTree_pairs _ 0 1]
    rfl

end Sys2Proof.Machine
end
